-- ==== Sys2Proof/Word.lean ====
section
/-! DEFINITION. The word types of the Clomar K3: bytes, 32-bit instruction words and lane registers, 64-bit scalar
registers, lane masks (R4, R12, R18, R42). -/

namespace Sys2Proof

/-- One byte of memory. -/
abbrev Byte := BitVec 8

/-- A 32-bit word: an instruction word (R42) or one lane register of one lane (R18). -/
abbrev W32 := BitVec 32

/-- A 64-bit word: a scalar register, a program counter, an address or a system register (R18, R51, R240). -/
abbrev W64 := BitVec 64

/-- One bit per lane of a gang, bit `l` for lane `l` (R25). -/
abbrev Mask := BitVec 32

/-- The 64 bytes of one memory line, byte `i` in bits `[8i+7:8i]` (R170). -/
abbrev Line := BitVec 512

end Sys2Proof
end

