-- ==== Sys2Proof/Config.lean ====
section
/-! DEFINITION. What an implementation fixes and the spec leaves open: uninterpreted constants. A definition with no body
has no value a proof could use; every one is named in a log entry. -/

namespace Sys2Proof.Config

/-- The choice, at the `n`-th free choice of a run, among the events that may come next (R21, R200, R204, R219; log 1). -/
opaque pick : Nat → Nat

/-- The `n`-th free word: lane register contents the spec leaves undefined after REGROUP (R35; log 6). -/
opaque freeWord : Nat → W32

/-- Whether a cached line or translation is still held when it is looked up, at the `n`-th free choice: replacement is
not specified (R178, R216; log 7). -/
opaque keeps : Nat → Bool

/-- Result of a transcendental `op` (FRCP 0, FRSQ 1, FEXP2 2, FLOG2 3, FSIN 4, FCOS 5, FTANH 6) on an f32 input that is
no special case of R127: the spec bounds the result and does not state it (log 8). -/
opaque transcendental : Nat → W32 → W32

/-- The three filter bits of a basin bank that a line address selects (R352; log 9). -/
opaque filterHash : Nat → Nat → BitVec 14

/-- Requests a slice queue holds before further requests spill (R359; log 10). -/
opaque sliceQueueSize : Nat

/-- Bytes that a spilled request takes in a slice's spill area (R359; log 10). -/
opaque spillEntryBytes : Nat

/-- The scale-up link that carries a request to another device (R363; log 10). -/
opaque linkFor : Nat → Nat → BitVec 5

/-- The device at the other end of a scale-up link (R363; log 10). -/
opaque linkPeer : Nat → Nat

/-- A number the spec leaves to the unit that needs it, at the `n`-th free choice: an order of arrival or a position the
spec does not state (log 10). -/
opaque freeIndex : Nat → Nat

/-- SHA-512, ECDSA P-521, AES-GCM and XTS are external standards that R371 to R382 name: uninterpreted functions (log 11). -/
opaque sha512 : List Byte → BitVec 512

/-- Whether a signature over a message verifies under a public key (R377, R380; log 11). -/
opaque verifies : List Byte → List Byte → List Byte → Bool

/-- A seal of plaintext under a key with an initial value and associated data (R371 to R375; log 11). -/
opaque sealBytes : List Byte → List Byte → List Byte → List Byte → List Byte

/-- The plaintext of sealed bytes when their tag verifies (R371 to R375; log 11). -/
opaque openBytes : List Byte → List Byte → List Byte → List Byte → Option (List Byte)

/-- The plaintext that XTS reads from a data unit: key, data unit number, sealed bytes (R373; log 11). -/
opaque xtsOpen : List Byte → Nat → List Byte → List Byte

/-- A data unit as XTS seals it: key, data unit number, plaintext (R373; log 11). -/
opaque xtsSeal : List Byte → Nat → List Byte → List Byte

/-- A signature of a message under the island's report key (R370, R379; log 11). -/
opaque sign : List Byte → List Byte

/-- The key a wrapped blob holds under a wrapping key, when it unwraps (R370; log 11). -/
opaque unwrap : List Byte → List Byte → Option (List Byte)

/-- A key wrapped under a wrapping key (R381; log 11). -/
opaque wrap : List Byte → List Byte → List Byte

/-- The transport key that two islands derive in a migration session, by the hash of its transcript, the initial value a frame
is sealed with, and the virtual address that names a frame (R381; log 35). -/
opaque transportKey : BitVec 512 → List Byte
opaque transportIv : Nat → List Byte
opaque frameVa : Nat → Nat → Nat

/-- Contents of an SPDM answer the spec names and does not lay out, by message code and request (R379; log 11). -/
opaque spdmAnswer : Nat → List Byte → List Byte

/-- The session key of a scale-up link, by link and keying, the device key made at the n-th boot, and what stands for the TIER or
WORLDLINK key of a world that has bound none (R371, R374, R375; log 11). -/
opaque linkSession : Nat → Nat → List Byte
opaque bootKey : Nat → List Byte
opaque noKey : Nat → List Byte

/-- Whether an SPDM request to negotiate offers the one algorithm set (R379; log 11). -/
opaque offersSet : List Byte → Bool

/-- Place of a LOOP node's trip count in its 16 bytes of the work area, which the spec does not give (R335; log 24). -/
opaque tripAt : Nat

/-- Bytes free before the n-th field of a block header in a save image, whose layout the spec does not give (R250; log 6). -/
opaque headerGap : Nat → Nat

/-- CRC-32 over bytes (R375; log 11). -/
opaque crc32 : List Byte → W32

/-- Fuse contents: revoked slots, key hashes and the security version counter (R377; log 12). -/
opaque fuseHash : BitVec 2 → BitVec 512
opaque fuseRevoked : BitVec 2 → Bool
opaque fuseVersion : BitVec 64

/-- The ordering code of this part (R1) and the firmware versions that IDENTITY returns (R390; log 12). -/
opaque orderingCodeIsModule : Bool
opaque firmwareVersions : List Byte

/-- The security version in an image, and the key list in the island's image (R377; log 12). -/
opaque imageVersion : List Byte → W64
opaque keyList : List Byte → List (List Byte)

/-- The corrected-error limit of a unit, above which CECLIMIT is sent (R397; log 12). -/
opaque ceLimit : W32 → W32

end Sys2Proof.Config
end

