-- ==== Sys2Proof/Machine/Table.lean ====
section
/-! DEFINITION. Sparse tables as sorted lists of key and value, memory as a table of bytes in one canonical form, and the
bit-field, byte-order and lane-mask helpers the other files use. -/

namespace Sys2Proof.Machine

/-- A table held as a list of key and value pairs, keys rising. -/
abbrev Tab (α : Type) := List (Nat × α)

/-- The value of a key. -/
def tabFind {α : Type} (t : Tab α) (k : Nat) : Option α :=
  match t with
  | [] => none
  | (j, a) :: r => if j = k then some a else tabFind r k

/-- The value of a key, or a default. -/
def tabGet {α : Type} (t : Tab α) (k : Nat) (d : α) : α := (tabFind t k).getD d

/-- Set the value of a key, keeping keys in rising order. -/
def tabPut {α : Type} (t : Tab α) (k : Nat) (a : α) : Tab α :=
  match t with
  | [] => [(k, a)]
  | (j, b) :: r => if j < k then (j, b) :: tabPut r k a else if j = k then (k, a) :: r else (k, a) :: (j, b) :: r

/-- Remove a key. -/
def tabDel {α : Type} (t : Tab α) (k : Nat) : Tab α :=
  match t with
  | [] => []
  | (j, b) :: r => if j = k then tabDel r k else (j, b) :: tabDel r k

/-- Change the value of a key when it is present. -/
def tabUpd {α : Type} (t : Tab α) (k : Nat) (f : α → α) : Tab α :=
  match tabFind t k with
  | some a => tabPut t k (f a)
  | none => t

/-- The values of a table in key order. -/
def tabVals {α : Type} (t : Tab α) : List α := t.map (·.2)

/-- The keys of a table in order. -/
def tabKeys {α : Type} (t : Tab α) : List Nat := t.map (·.1)

/-- Change every value of a table. -/
def tabMap {α : Type} (t : Tab α) (f : α → α) : Tab α := t.map fun e => (e.1, f e.2)

/-- Keep the entries whose value meets a test. -/
def tabKeep {α : Type} (t : Tab α) (p : α → Bool) : Tab α := t.filter fun e => p e.2

/-- The lowest number below `n` that is no key. -/
def tabFree {α : Type} (t : Tab α) (n : Nat) : Option Nat := (List.range n).find? fun k => (tabFind t k).isNone

/-- The byte an address holds; an unlisted address reads as zero (log 2). -/
def memByte (m : List Host.Cell) (a : Nat) : Byte := tabGet m a 0

/-- Store one byte; storing zero removes the entry. -/
def memPut (m : List Host.Cell) (a : Nat) (b : Byte) : List Host.Cell := if b = 0 then tabDel m a else tabPut m a b

/-- Store bytes at rising addresses. -/
def memPuts (m : List Host.Cell) (a : Nat) (bs : List Byte) : List Host.Cell :=
  match bs with
  | [] => m
  | b :: r => memPuts (memPut m a b) (a + 1) r

/-- The bytes at `n` addresses. -/
def memBytes (m : List Host.Cell) (a n : Nat) : List Byte := (List.range n).map fun i => memByte m (a + i)

/-- Canonical form: addresses strictly rising, and no listed byte is zero. -/
def Memory.wf (m : List Host.Cell) : Bool :=
  match m with
  | [] => true
  | [(_, b)] => b != 0
  | (a, b) :: (c, d) :: r => a < c && b != 0 && Memory.wf ((c, d) :: r)

/-- Little-endian value of bytes (R4). -/
def leNat (bs : List Byte) : Nat :=
  match bs with
  | [] => 0
  | b :: r => b.toNat + 256 * leNat r

/-- The low `n` bytes of a number, low byte first (R4). -/
def leBytes (n x : Nat) : List Byte :=
  match n with
  | 0 => []
  | n + 1 => BitVec.ofNat 8 x :: leBytes n (x / 256)

/-- Little-endian field of bytes: `n` bytes from byte `o`. -/
def leAt (bs : List Byte) (o n : Nat) : Nat := leNat ((bs.drop o).take n)

/-- Bits `hi` to `lo` of a 64-bit word, as a number (R67). -/
def wbits (w : W64) (hi lo : Nat) : Nat := w.toNat / 2 ^ lo % 2 ^ (hi + 1 - lo)

/-- A word with bits `hi` to `lo` replaced by a number. -/
def wput (w : W64) (hi lo x : Nat) : W64 :=
  let m : Nat := (2 ^ (hi + 1 - lo) - 1) * 2 ^ lo
  (w &&& ~~~(BitVec.ofNat 64 m)) ||| (BitVec.ofNat 64 (x * 2 ^ lo) &&& BitVec.ofNat 64 m)

/-- A word with one bit set to a given value. -/
def wbit (w : W64) (i : Nat) (b : Bool) : W64 := wput w i i b.toNat

/-- The lanes of a gang, ascending. -/
def allLanes : List Nat := List.range 32

/-- The lanes of a mask, ascending. -/
def lanesOf (m : Mask) : List Nat := allLanes.filter fun l => m.getLsbD l

/-- The mask with one lane. -/
def laneBit (l : Nat) : Mask := BitVec.ofNat 32 (2 ^ l)

/-- The mask of the lanes that meet a test. -/
def maskOf (p : Nat → Bool) : Mask :=
  allLanes.foldl (fun m l => if p l then m ||| laneBit l else m) 0

/-- The lowest lane of a mask. -/
def lowLane (m : Mask) : Option Nat := allLanes.find? fun l => m.getLsbD l

/-- Number of one bits below bit `n`. -/
def countOnes (x n : Nat) : Nat :=
  match n with
  | 0 => 0
  | n + 1 => x % 2 + countOnes (x / 2) n

end Sys2Proof.Machine
end

