-- ==== Sys2Proof/Machine/GangTypes.lean ====
section
/-! DEFINITION. The state of gangs, blocks, fragments and their memory accesses (R12 to R32, R193, R206, R230, R240). -/

namespace Sys2Proof.Machine

/-- A register that can have a pending result (R22). -/
inductive RegName where
  | v (n : Nat)
  | s (n : Nat)
  | k (n : Nat)
  deriving DecidableEq, Repr

/-- What a pending register waits for: the gang's turn at which a fixed-latency result is due (R23), or an access. -/
inductive Due where
  | turn (t : Nat)
  | access (id : Nat)
  deriving DecidableEq, Repr

/-- A register with a pending result. -/
structure Pend where
  reg : RegName
  due : Due
  deriving DecidableEq, Repr

/-- What a fragment waits for (R29, R251). -/
inductive Wait where
  | running
  /-- in the join record named, at JOIN (R27) -/
  | join (rec : Nat)
  | wide
  | endw
  /-- at REGROUP, with its word (R34) -/
  | regroup (word : W32)
  | bsync
  | tsync
  /-- at BARWAIT: pad offset of the barrier and the phase it must differ from (R274) -/
  | barwait (base : Nat) (phase : Bool)
  /-- at MWAIT: the batch number (R298) -/
  | mwait (batch : W32)
  /-- at SWAIT: path and threshold (R194) -/
  | swait (path : Nat) (limit : W64)
  /-- at CWAIT: the destination of the count, and the census with its place in the root's order (R318) -/
  | cwait (sd : BitVec 6) (census order : Nat)
  /-- at MWAITV with its read in progress (R197) -/
  | mwaitvRead (sd : BitVec 6) (target : W64) (access : Nat)
  /-- at MWAITV between reads, since the cycle of the last read (R197) -/
  | mwaitvIdle (sd : BitVec 6) (target : W64) (since : Nat)
  deriving DecidableEq, Repr

/-- One fragment: a split-table entry (R25), what it waits for, and the instruction words fetched at its PC (R43). -/
structure Frag where
  pc    : W64
  mask  : Mask
  link  : Option Nat
  wait  : Wait
  words : List W32
  deriving DecidableEq, Repr

/-- A join record (R26). -/
structure JoinRec where
  target   : W64
  expected : Mask
  arrived  : Mask
  encl     : Option Nat
  deriving DecidableEq, Repr

/-- Handover of a gang's slot (R29): none; at a switch point just issued; or still open, since no fragment was ready. -/
inductive Handover where
  | closed | switched | open_
  deriving DecidableEq, Repr

/-- A FENCE the gang waits at (R196). -/
structure FenceWait where
  pred  : BitVec 6
  succ  : BitVec 6
  scope : Nat
  deriving DecidableEq, Repr

/-- One gang (R18, R240, R251). -/
structure Gang where
  block   : Nat
  gid     : Nat
  pipe    : Nat
  slot    : Nat
  /-- lanes created at block start, helper lanes among them, and live lanes (R12, R14) -/
  created : Mask
  helper  : Mask
  live    : Mask
  /-- lane register n of lane l at key 32 n + l; unlisted 0 -/
  v       : Tab W32
  /-- predicate n of all lanes at key n; unlisted all 0 -/
  k       : Tab Mask
  /-- scalar registers; unlisted 0 -/
  s       : Tab W64
  /-- latch i of lane l at key 4 l + i; unlisted is lost (R53) -/
  latch   : Tab W64
  /-- turn at which each latch's producer is due (R53) -/
  latchDue : List Nat
  frags   : Tab Frag
  joins   : Tab JoinRec
  /-- the entry that holds the slot, or from whose place the search goes on when its fragment is gone, and its handover (R29) -/
  cur     : Nat
  handover : Handover
  /-- fragments saved by an open WIDE (R31) -/
  saved   : Tab Frag
  /-- path counters 0 to 3 (R193); unlisted 0 -/
  paths   : Tab Nat
  gstat   : W64
  gctl    : W64
  tstat   : W64
  tval    : W64
  tpc     : W64
  cpc     : W64
  contv   : W64
  fpctl   : W64
  /-- stall counters (R106); unlisted 0 -/
  stalls  : Tab W32
  /-- the armed monitor's word (R197) -/
  monitor : Option W64
  /-- physical line of its last read, and whether a write to it has come since (R197) -/
  monPa   : Option Nat
  woken   : Bool
  bn      : W32
  /-- in a PAUSE, and turns it has still to run (R24) -/
  pausing : Bool
  pauseLeft : Nat
  pend    : List Pend
  /-- turns the gang has had; first turn at which it may issue again; turn by which its flags are raised (R23, R126) -/
  turn    : Nat
  issueAt : Nat
  flagsDue : Nat
  /-- instructions issued, the gang sequence (R230) -/
  seq     : W32
  fence   : Option FenceWait
  /-- halted by a trap (R248), and a stuffed instruction has issued in it since (R248) -/
  halted  : Bool
  mended  : Bool
  /-- it has had a turn since the halt of its block was requested, and stopped there (R99) -/
  atHalt  : Bool
  /-- breakpoint the gang holds at under GATHER (R103) -/
  held    : Option Nat
  /-- breakpoint matching is suppressed for the next issue (R101) -/
  skipBp  : Bool
  /-- instructions left of a debug step (R101) -/
  stepLeft : Option Nat
  /-- acknowledged the open yield request, and stopped at a YIELD (R332) -/
  yieldAck : Bool
  yieldStop : Bool
  /-- the counter of its last empty turn (R106, R239), and whether its last turn issued (R107) -/
  lastStall : Option Nat
  issued  : Bool
  retired : Bool
  /-- the gang that took this one's sticky bits at REGROUP (R36, R131) -/
  heir    : Option Nat
  deriving DecidableEq, Repr

/-- What a responder block answers (R302, R313, R315). -/
structure Responder where
  census : Nat
  /-- the core whose report counted the match -/
  counted : Nat
  deferred : Bool
  responded : Bool
  deriving DecidableEq, Repr

/-- One block (R12 to R20, R100, R250). -/
structure Block where
  core    : Nat
  index   : Nat
  launch  : Nat
  ctx     : Nat
  world   : BitVec 16
  asid    : BitVec 16
  /-- block coordinates, grid extent and block shape (R16) -/
  cx : W32
  cy : W32
  cz : W32
  gx : W32
  gy : W32
  gz : W32
  sx : W32
  sy : W32
  sz : W32
  rank    : Nat
  /-- team size T, and the uid of the team's block of rank 0 (R12) -/
  size    : Nat
  team    : Nat
  /-- launched with `.team` (R37, R38) -/
  teamed  : Bool
  gangs   : Nat
  regs    : Nat
  /-- pad allocation A in bytes (R166) and its bytes; unlisted 0 -/
  padSize : Nat
  pad     : Tab Byte
  acc     : Nat
  /-- tile t, row m, column n at key 4096 t + 64 m + n; unlisted 0 (R284) -/
  tiles   : Tab W32
  /-- tiles of kind s32 (R284) -/
  kinds   : BitVec 16
  copyq   : Nat
  /-- lane-private frame bytes Z and frame base F (R169) -/
  zpriv   : Nat
  frame   : W64
  phase   : W32
  /-- halted by the debug unit: halt requested, halt complete (R99) -/
  haltReq : Bool
  halted  : Bool
  responder : Option Responder
  deriving DecidableEq, Repr

/-- The instruction being issued: gang, split-table entry, its words, and what the debug unit changes (R105). -/
structure Cur where
  gang  : Nat
  entry : Nat
  words : List W32
  /-- issued from the program buffer, on these lanes -/
  stuffed : Option Mask
  deriving DecidableEq, Repr

/-- Memory order (R64). -/
inductive Order where
  | rlx | acq | rel | ar
  deriving DecidableEq, Repr

/-- Address spaces (R164). A lane-private access is a .g access once its address is formed. -/
inductive Space where
  | g | p | c | h | x
  deriving DecidableEq, Repr

/-- Where the value of an access goes (R230). -/
inductive Dest where
  | none
  /-- lane registers from `reg`, `n` bytes, sign-extended when narrow and signed (R188) -/
  | lane (reg n : Nat) (signed : Bool)
  | scalar (r : Nat)
  | pred (k : Nat)
  /-- the read of an MWAITV in a split-table entry (R197) -/
  | monitor (entry : Nat)
  deriving DecidableEq, Repr

/-- FENCE sets an access belongs to (R195). -/
structure Sets where
  r : Bool
  w : Bool
  cr : Bool
  cw : Bool
  deriving DecidableEq, Repr

/-- What a directory instruction does once it is performed: its key, and DIRMOV's core (R309). -/
inductive DirOp where
  | add (key : W64)
  | del (key : W64)
  | mov (key core : W64)
  deriving DecidableEq, Repr

/-- One instruction's accesses, outstanding until completed (R193). -/
structure Access where
  gang  : Nat
  /-- gangs in whose program order it precedes what they issue next (R213) -/
  before : List Nat
  seq   : W32
  path  : Option Nat
  sets  : Sets
  order : Order
  scope : Nat
  space : Space
  dest  : Dest
  mask  : Mask
  /-- the value is complete and its register written: only path order is awaited -/
  landed : Bool
  /-- an engine command, or the statuses of LAUNCH, that the access stands for -/
  cmd   : Option Nat
  /-- statuses due to lanes or to a scalar register (R276, R309, R337) -/
  status : List (Nat × W64)
  /-- a directory instruction that is not performed yet (R301, R309) -/
  dir   : Option DirOp
  /-- it stands for a SOLICIT (R311) -/
  solicit : Bool := false
  /-- the context it belongs to, also once its block has retired (R229, R253) -/
  ctx   : Nat := 0
  /-- an instruction of the program buffer opened it (R105) -/
  stuffed : Bool := false
  deriving DecidableEq, Repr

/-- Operations of ATOM and RED (R64). -/
inductive RmwOp where
  | add | min | max | and | or | xor | exch
  deriving DecidableEq, Repr

/-- What a request does at its line (R206, R230). -/
inductive ReqKind where
  | read
  | write
  | rmw (op : RmwOp) (ty : Nat)
  | cas
  | pref
  /-- bytes and arrivals counted into a byte barrier (R273) -/
  | barrier (bytes arrivals : Nat)
  /-- instruction words of a fragment at a PC (R43) -/
  | fetch (entry : Nat) (pc : W64)
  /-- CMO kind on the line (R198) -/
  | cmo (kind : Nat)
  /-- copy read, copy write of an engine command (R265), group fill read (R278) -/
  | copyRead
  | copyWrite
  | fill
  deriving DecidableEq, Repr

/-- One lane's bytes within a request's line: offset in the line, position in the lane's value, bytes to write, compare
bytes, and bytes returned. A part of an aligned lane-private access of several words names that access's width as its unit, and
carries all of its operand bytes (R169, R186). -/
structure Part where
  lane : Nat
  off  : Nat
  pos  : Nat
  len  : Nat
  data : List Byte
  cmp  : List Byte
  res  : List Byte
  unit : Nat := 0
  deriving DecidableEq, Repr

/-- Causes of parking (R231). -/
inductive Cause where
  | notMapped | permission | world | poison | tierFail
  deriving DecidableEq, Repr

/-- Where a request stands (R183, R206, R230). -/
inductive Stage where
  /-- waits for its translation (R176) -/
  | walk
  /-- translated, in the core's path to its home (R206) -/
  | home
  /-- at a channel controller or basin bank (R354) -/
  | ctrl
  /-- in a slice's spill queue (R359), or stopped at the crossbar because that is full -/
  | spill
  | stopped
  /-- held for a lower-tier granule (R181) -/
  | tier
  /-- held by a DSPLIT, a first-touch release or a released extent (R343, R356, R362) -/
  | hold
  /-- answered with a replay reply (R344) -/
  | replay
  /-- queued for a scale-up link (R363) -/
  | link
  /-- in a park store, with its park sequence, the request it is chained behind, and whether it is spilled (R230, R162) -/
  | parked (cause : Cause) (seq : Nat) (chain : Option Nat) (spilled : Bool)
  /-- performed: its value is fixed -/
  | done
  deriving DecidableEq, Repr

/-- Leaf attributes a request is translated by (R174). -/
structure Leaf where
  basin : Nat
  first : Bool
  dom   : Nat
  tier  : Bool
  w     : Bool
  /-- bytes of the page whose entry translated the request; 0 where none did (R175, R179) -/
  size  : Nat
  deriving DecidableEq, Repr

/-- Who a request belongs to: a gang, or an agent of the hub die (R201, R230). -/
inductive Agent where
  | gang (key : Nat)
  | hub
  deriving DecidableEq, Repr

/-- One request: the part of one instruction's accesses in one 64-byte line (R230). -/
structure Req where
  agent : Agent
  /-- gangs whose program order it belongs to (R213) -/
  before : List Nat
  access : Option Nat
  cmd   : Option Nat
  /-- the census (0, id), or the graph node (1, 65536 launch + node), that a hub unit awaits it for -/
  unit  : Option (Nat × Nat)
  core  : Nat
  ctx   : Nat
  world : BitVec 16
  asid  : BitVec 16
  seq   : W32
  kind  : ReqKind
  space : Space
  /-- address of the line as issued, bits [5:0] clear -/
  va    : W64
  /-- physical address of the line, once translated -/
  pa    : Nat
  leaf  : Leaf
  order : Order
  scope : Nat
  urgent : Bool
  parts : List Part
  stage : Stage
  /-- order in which it entered the core's path to its home (R206) -/
  entered : Nat
  /-- the home slice that holds it (R355) -/
  slice : Nat
  /-- its home has accepted it: it completes there (R343) -/
  accepted : Bool := false
  /-- it would park, and waits because the store is full (R232) -/
  storeWait : Bool := false
  /-- its place in the spill ring, when it is parked there (R230) -/
  spillAt : Nat := 0
  /-- order in which it came to the slice it stands at (R359) -/
  arrived : Nat := 0
  /-- its core's L1 was discarded after it left for another device: its line does not fill L1 (R198, R208) -/
  noFill : Bool := false
  /-- the line that another device answered, of a lane-private access whose requests are performed as one (R186) -/
  line : Option Line := none
  /-- the core that issued it, whose die's store keeps it, also once its block is restored on another core (R230) -/
  born : Nat := 0
  /-- a release has replayed it: it is performed at its home (R214, R236) -/
  replayed : Bool := false
  /-- resent by its port after a replay reply, and not yet accepted by its home (R344) -/
  resent : Bool := false
  deriving DecidableEq, Repr

end Sys2Proof.Machine
end

