-- ==== Sys2Proof/Syntax.lean ====
section
/-! DEFINITION. The syntax: one constructor for each row of the opcode table. Rows with a word carry the fields of that word
(R44 to R49); rows without one are whole steps of a unit or agent and carry what the step is about. -/

namespace Sys2Proof

/-- The fields of a lane instruction other than class and op (R47). -/
structure Lane where
  guard : BitVec 3
  neg   : Bool
  nwb   : Bool
  keep  : BitVec 2
  ty    : BitVec 4
  mod   : BitVec 10
  dst   : BitVec 9
  a     : BitVec 10
  b     : BitVec 10
  kd    : BitVec 3
  c     : BitVec 10
  imm   : BitVec 22
  deriving DecidableEq, Repr

/-- A register of the system window or of a core's debug window, with its index arguments (R108, R180, R255, R282,
R329, R347, R364, R376, R386, R388, R391, R392, R395). -/
inductive SysReg where
  | xlinva | xlinvc | xlinvs | devnum
  | ctxbase | pkctl | pkspill (d : Nat) | pkstat (d : Nat) | pksteer (i : Nat)
  | pkringBase (n : Nat) | pkringSeq (n : Nat) | pkop | pkopva | pkops
  | grptim (s : Nat) | grpcnt (s : Nat)
  | lqbase (n : Nat) | lqctl (n : Nat) | lqptr (n : Nat) | ydead
  | dcqbase (d : Nat) | dcqctl (d : Nat) | dcqstat (d : Nat)
  | basctl (s : Nat) | dmemb (d k : Nat) | dhash (d k i : Nat) | ftrel (d : Nat) | ftstat (d : Nat)
  | repctl (d : Nat) | pfctl (d : Nat) | slspill (d : Nat) | slspstat (d : Nat) | plaincfg (d : Nat)
  | tierr (n : Nat) | migcmd | migframe | migstat | linkstat (l : Nat) | sealstat (l : Nat)
  | eqbase (p d q : Nat) | eqctl (p d q : Nat) | eqptr (p d q : Nat)
  | epctl (p : Nat) | ecnt0 (p : Nat) | ecnt1 (p : Nat) | ecnt2 (p : Nat)
  | sqbase (p q : Nat) | sqctl (p q : Nat) | sqptr (p q : Nat) | scnt (p : Nat)
  | mbqbase | mbrbase | mbdb | mbctl
  | ibqbase (n : Nat) | ibrbase (n : Nat) | ibdb (n : Nat) | ibctl (n : Nat)
  | evringBase (n : Nat) | evringSeq (n : Nat) | evsys
  /-- Offset `off` of core `core`'s debug window (R108). -/
  | debug (core off : Nat)
  deriving DecidableEq, Repr

/-- Power states of R389. -/
inductive PowerState where
  | d0 | dIdle | dRetain | dOff
  deriving DecidableEq, Repr

/-- Usages of a key slot (R369). -/
inductive KeyUsage where
  | eth | nvme | tier | link | worldlink | wrap | sign
  deriving DecidableEq, Repr

/-- What SA_BIND binds a handle to (R370, R385). -/
inductive BindTarget where
  | ethSa (port : Nat) (index : Byte) (receive : Bool) (window : Nat) (sci : W64) (an : BitVec 2) (queue : Nat)
  | namespaceKey (drive : Nat) (nsid : W32) (unit4096 : Bool)
  | worldTier
  | worldLink
  deriving DecidableEq, Repr

/-- What the lower tier answers to a request (R181, R371, R374): the line as the device sealed it; nothing, for it cannot serve the
granule; or other sealed bytes, with the counter that their metadata holds. -/
inductive TierAnswer where
  | intact
  | failed
  | altered (sealed : List Byte) (counter : W32)
  deriving DecidableEq, Repr

/-- What another device asks of a line of this one (R172, R220): bytes are read, written, or changed by an atomic operation (0 ADD,
1 MIN, 2 MAX, 3 AND, 4 OR, 5 XOR, 6 exchange) on a type, or compared with the first half of `data` and replaced by the second. -/
inductive PeerOp where
  | read
  | fetch
  | write
  | rmw (op : BitVec 3) (ty : Nat)
  | cas
  deriving DecidableEq, Repr

/-- A request of another device for a line of this one, in a world (R172, R220, R366). -/
structure PeerReq where
  world : BitVec 16
  op    : PeerOp
  pa    : Nat
  len   : Nat
  data  : List Byte
  /-- BASIN, HOME = FIRST and DOM of the leaf that the other device translated it with (R174, R220) -/
  basin : BitVec 2 := 2
  first : Bool := false
  dom   : BitVec 3 := 0
  deriving DecidableEq, Repr

/-- Why the home of a line on another device does not serve a request, so that it parks at its requester (R220, R231). -/
inductive Refused where
  | world
  | poison
  deriving DecidableEq, Repr

/-- A received scale-up flit: its 256 bytes (R375), and what its routing and payload say, whose layout is not given: the request of this
device that it answers, with the line that came back or the cause for which its home does not serve it, or the request that it brings;
whether the other end has met a seal failure, and below which counter it has accepted this end's flits (R231, R363, R376; log 36). -/
structure FlitIn where
  bytes   : List Byte
  answers : Option Nat
  data    : Line
  refused : Option Refused := none
  asks    : Option PeerReq
  sealed  : Bool
  accepted : W64
  deriving DecidableEq, Repr

/-- A received Ethernet frame (R385). -/
structure FrameIn where
  fcsOk  : Bool
  secTag : Option (W64 × BitVec 2 × W64)
  bytes  : List Byte
  deriving DecidableEq, Repr

/-- What KEY_EXCHANGE opens a session for: the management path, the device at the other end of a link, with which the island is the
responder or, where `asks`, the requester, or the other device of a world's migration, of which it is the requester (R376, R379, R381). -/
inductive SpdmPeer where
  | management
  | link (l : BitVec 5) (asks : Bool := false)
  | migration (world : BitVec 16)
  deriving DecidableEq, Repr

/-- A world as it travels in a migration session: the hash of its tenant's key and the version of the last policy used, frames sealed,
each with the virtual address that names it, key slots wrapped, and bindings (R380, R381); with the images in its frames go the saved
blocks and gangs as the dispatcher holds them (log 35). -/
structure MigratedWorld where
  keyHash : BitVec 512
  policy  : W64
  blocks  : List (Nat × Machine.Block)
  gangs   : List (Nat × Machine.Gang)
  frames  : List (Nat × List Byte)
  keys    : List (KeyUsage × List Byte)
  binds   : List (BitVec 16 × W64 × Bool × Byte)
  deriving DecidableEq, Repr

/-- A command of a host core for a world (R370, R381). -/
structure WorldAsk where
  host  : BitVec 5
  world : BitVec 16
  deriving DecidableEq, Repr

/-- The sequence number of a management request, and whether the request came by the management pins or connector and not by the
mailbox (R390, R391). -/
structure PathSeq where
  pins : Bool
  seq  : W32
  deriving DecidableEq, Repr

/-- What a COMMIT step is (R381): COMMIT reaches the destination; a PENDING destination asks again on a new session; that question
reaches the source; the source's tombstone is acknowledged. -/
inductive CommitStep where
  | commit
  | askAgain
  | asked
  | acknowledged
  deriving DecidableEq, Repr

/-- A register, and the host core that writes it, if one does (R392). -/
structure RegAsk where
  host : Option (BitVec 5)
  reg  : SysReg
  deriving DecidableEq, Repr

/-- The images a boot verifies and measures (R377), the configuration of the island and that of the device (R378), with the place of the
tier's metadata area (R374) and whether x16 ports 2 and 3 are in PCIe mode (R383). -/
structure BootImages where
  islandKeySlot  : BitVec 2
  islandKey      : List Byte
  islandImage    : List Byte
  islandSig      : List Byte
  mgmtKey        : List Byte
  mgmtImage      : List Byte
  mgmtSig        : List Byte
  dispKey        : List Byte
  dispImage      : List Byte
  dispSig        : List Byte
  hostImage      : List Byte
  config         : List Byte
  device         : List Byte
  tierArea       : W64
  pcie           : BitVec 2
  romState       : List Byte
  deriving DecidableEq, Repr

/-- The instructions and steps of the opcode table. -/
inductive Instr where
  /-- NOP: Has no effect and occupies one turn of the gang (R96). -/
  | nop
  /-- EXIT: Retires every lane of the executing fragment and frees its split-table entry; this is a switch point (R94). -/
  | exit
  /-- BRA: Unconditional jump to PC + 4 x sext(off16) (R80). -/
  | bra (off : BitVec 16)
  /-- JAL: Jumps by off16 and writes PC + 4 to sd (R80). -/
  | jal (sd : BitVec 6) (off : BitVec 16)
  /-- JALR: Jumps to (S(sa) + sext(imm10)) with bits [1:0] cleared and writes PC + 4 to sd (R80). -/
  | jalr (sd sa : BitVec 6) (imm : BitVec 10)
  /-- BEQ: Branches by off10 when S(sa) equals S(sb) (R80). -/
  | beq (sa sb : BitVec 6) (off : BitVec 10)
  /-- BNE: Branches by off10 when S(sa) differs from S(sb) (R80). -/
  | bne (sa sb : BitVec 6) (off : BitVec 10)
  /-- BLT: Branches by off10 when S(sa) < S(sb), compared as signed (R80). -/
  | blt (sa sb : BitVec 6) (off : BitVec 10)
  /-- BGE: Branches by off10 when S(sa) >= S(sb), compared as signed (R80). -/
  | bge (sa sb : BitVec 6) (off : BitVec 10)
  /-- BLTN: Branches by off10 when S(sa) < S(sb), compared as unsigned (R80). -/
  | bltn (sa sb : BitVec 6) (off : BitVec 10)
  /-- BGEN: Branches by off10 when S(sa) >= S(sb), compared as unsigned (R80). -/
  | bgen (sa sb : BitVec 6) (off : BitVec 10)
  /-- BANY: Branches when the predicate is true in some non-helper lane of the fragment (R80). -/
  | bany (p : BitVec 3) (off : BitVec 10)
  /-- BALL: Branches when the predicate is true in every non-helper lane of the fragment (R80). -/
  | ball (p : BitVec 3) (off : BitVec 10)
  /-- BNONE: Branches when the predicate is true in no non-helper lane of the fragment (R80). -/
  | bnone (p : BitVec 3) (off : BitVec 10)
  /-- JOIN: Adds the fragment's lanes to its join record and waits for fusion, or acts as a no-operation (R27). -/
  | join
  /-- YIELD: A switch point that also acknowledges a pending cooperative yield request (R89). -/
  | yield
  /-- PAUSE: Leaves the gang's slot empty for its next n turns (R24). -/
  | pause (n : BitVec 16)
  /-- PAUSE_EXPIRY: The pause count of n turns runs out and the gang becomes able to issue again (R24). -/
  | pauseExpiry (gang : Nat)
  /-- WIDE: Blocking wait until every fragment waits at this WIDE; then opens a bracket of all live non-helper lanes (R31). -/
  | wide
  /-- ENDW: Waits for every live lane of the bracket, then clears GSTAT.WIDE and restores the saved fragments (R32). -/
  | endw
  /-- REGROUP: Blocking wait that compacts the selected lanes of the PAIR or BLOCK participants into fewer gangs (R35). -/
  | regroup (vfirst vlast : BitVec 9) (k : BitVec 3) (block : Bool)
  /-- REGROUP_PROCEED: Once every participant has arrived and every pending result has landed, the regroup moves the lanes and retires the surplus gangs (R34). -/
  | regroupProceed (gang : Nat)
  /-- BSYNC: Blocking wait until every live gang of the block has reached a BSYNC; the arrival acts as a release at block scope (R91). -/
  | bsync
  /-- TSYNC: Blocking wait until every live gang of every block of the team has reached a TSYNC (R91). -/
  | tsync
  /-- BARRIER_RELEASE: Releases the waiting gangs of a BSYNC or TSYNC once all have arrived and their earlier accesses have been performed (R92). -/
  | barrierRelease (gang : Nat)
  /-- RETC: Ends a native continuation: sets GSTAT.CONT and continues at CPC (R95). -/
  | retc
  /-- SADD: Scalar add, wrapping modulo 2^64 (R73). -/
  | sadd (sd sa sb : BitVec 6)
  /-- SSUB: Scalar subtract, wrapping (R73). -/
  | ssub (sd sa sb : BitVec 6)
  /-- SMUL: Low 64 bits of the scalar product (R73). -/
  | smul (sd sa sb : BitVec 6)
  /-- SMULH: High 64 bits of the signed 128-bit product (R73). -/
  | smulh (sd sa sb : BitVec 6)
  /-- SMULHN: High 64 bits of the unsigned 128-bit product (R73). -/
  | smulhn (sd sa sb : BitVec 6)
  /-- SAND: Scalar bitwise AND (R73). -/
  | sand (sd sa sb : BitVec 6)
  /-- SOR: Scalar bitwise OR (R73). -/
  | sor (sd sa sb : BitVec 6)
  /-- SXOR: Scalar bitwise XOR (R73). -/
  | sxor (sd sa sb : BitVec 6)
  /-- SSHL: Scalar shift left by S(sb)[5:0] (R73). -/
  | sshl (sd sa sb : BitVec 6)
  /-- SSHR: Scalar logical shift right (R73). -/
  | sshr (sd sa sb : BitVec 6)
  /-- SSRA: Scalar arithmetic shift right (R73). -/
  | ssra (sd sa sb : BitVec 6)
  /-- SMIN: Signed scalar minimum (R73). -/
  | smin (sd sa sb : BitVec 6)
  /-- SMAX: Signed scalar maximum (R73). -/
  | smax (sd sa sb : BitVec 6)
  /-- SMINN: Unsigned scalar minimum (R73). -/
  | sminn (sd sa sb : BitVec 6)
  /-- SMAXN: Unsigned scalar maximum (R73). -/
  | smaxn (sd sa sb : BitVec 6)
  /-- SSLT: 1 if S(sa) < S(sb) as signed, else 0 (R73). -/
  | sslt (sd sa sb : BitVec 6)
  /-- SSLTN: 1 if S(sa) < S(sb) as unsigned, else 0 (R73). -/
  | ssltn (sd sa sb : BitVec 6)
  /-- SCLZ: Counts the leading zero bits of S(sa) (R73). -/
  | sclz (sd sa : BitVec 6)
  /-- SPOPC: Counts the one bits of S(sa) (R73). -/
  | spopc (sd sa : BitVec 6)
  /-- SADDI: Adds the sign-extended imm10 (R74). -/
  | saddi (sd sa : BitVec 6) (imm : BitVec 10)
  /-- SANDI: ANDs with the sign-extended imm10 (R74). -/
  | sandi (sd sa : BitVec 6) (imm : BitVec 10)
  /-- SORI: ORs with the zero-extended imm10 (R74). -/
  | sori (sd sa : BitVec 6) (imm : BitVec 10)
  /-- SXORI: XORs with the zero-extended imm10 (R74). -/
  | sxori (sd sa : BitVec 6) (imm : BitVec 10)
  /-- SSHLI: Shifts left by imm10[5:0] (R74). -/
  | sshli (sd sa : BitVec 6) (n : BitVec 6)
  /-- SSHRI: Shifts right logically by imm10[5:0] (R74). -/
  | sshri (sd sa : BitVec 6) (n : BitVec 6)
  /-- SSRAI: Shifts right arithmetically by imm10[5:0] (R74). -/
  | ssrai (sd sa : BitVec 6) (n : BitVec 6)
  /-- SSLTI: 1 if S(sa) < sext(imm10) as signed, else 0 (R74). -/
  | sslti (sd sa : BitVec 6) (imm : BitVec 10)
  /-- SLUI: Writes sext(imm16 x 0x1_0000, 32) (R74). -/
  | slui (sd : BitVec 6) (imm : BitVec 16)
  /-- SADDPC: Writes PC + 4 x sext(imm16) (R74). -/
  | saddpc (sd : BitVec 6) (imm : BitVec 16)
  /-- SMOVI: Writes sext(imm16) (R74). -/
  | smovi (sd : BitVec 6) (imm : BitVec 16)
  /-- SINS16: Shifts sd left by 16 and inserts imm16 (R74). -/
  | sins16 (sd : BitVec 6) (imm : BitVec 16)
  /-- SLDW: Scalar 4-byte global load, zero-extended, relaxed at dev scope (R75). -/
  | sldw (sd sa : BitVec 6) (imm : BitVec 10)
  /-- SLDD: Scalar 8-byte global load (R75). -/
  | sldd (sd sa : BitVec 6) (imm : BitVec 10)
  /-- SSTW: Scalar 4-byte global store (R75). -/
  | sstw (sd sa : BitVec 6) (imm : BitVec 10)
  /-- SSTD: Scalar 8-byte global store (R75). -/
  | sstd (sd sa : BitVec 6) (imm : BitVec 10)
  /-- SLDK: Loads a 32-bit word into predicate kn of the fragment's lanes, bit l to lane l (R75). -/
  | sldk (k : BitVec 3) (sa : BitVec 6) (imm : BitVec 10)
  /-- SLDP: Scalar 8-byte pad load (R75). -/
  | sldp (sd sa : BitVec 6) (imm : BitVec 10)
  /-- SSTP: Scalar 8-byte pad store (R75). -/
  | sstp (sd sa : BitVec 6) (imm : BitVec 10)
  /-- SRD: Reads a system register into sd (R243). -/
  | srd (sd : BitVec 6) (reg : BitVec 10)
  /-- SWR: Writes the writable fields of a system register from sd (R243). -/
  | swr (sd : BitVec 6) (reg : BitVec 10)
  /-- SSETB: ORs sd into the writable fields of a system register (R243). -/
  | ssetb (sd : BitVec 6) (reg : BitVec 10)
  /-- SCLRB: Clears the bits of sd in the writable fields of a system register (R243). -/
  | sclrb (sd : BitVec 6) (reg : BitVec 10)
  /-- TRAP: Raises a trap with cause TRAP and the code as TVAL (R245). -/
  | trap (code : BitVec 16)
  /-- ERET: Clears GSTAT.TM and returns the fragment to TPC (R247). -/
  | eret
  /-- FENCE: Waits until the predecessor-set accesses are performed at scope and orders the successor-set accesses after them (R196). -/
  | fence (pred succ : BitVec 6) (scope : BitVec 3)
  /-- SWAIT: Blocking wait until the chosen path counter falls to S(sa) or below (R194). -/
  | swait (sa : BitVec 6) (path : BitVec 2)
  /-- MONW: Arms the gang's one monitor on an 8-byte global word (R197). -/
  | monw (sa : BitVec 6) (imm : BitVec 10)
  /-- MWAITV: Reads the monitored word with acquire at sys until it has reached S(sa) in sequence order (R197). -/
  | mwaitv (sd sa : BitVec 6)
  /-- MONITOR_WAKE: A write to the monitored line wakes MWAITV to read the word again (R197). -/
  | monitorWake (gang : Nat)
  /-- MWAITV_REREAD: After 4,096 cycles without a write, MWAITV reads the word again (R197). -/
  | mwaitvReread (gang : Nat)
  /-- CMO: Cleans and/or invalidates the global lines of a range (R198). -/
  | cmo (sa sb : BitVec 6) (kind : BitVec 2)
  /-- DBGB: Halts the block for the debugger when enabled, else traps with cause DBGB (R104). -/
  | dbgb (code : BitVec 16)
  /-- SRDX: Reads the system register numbered S(sa) + base, or 0 if that number is unassigned (R244). -/
  | srdx (sd sa : BitVec 6) (reg : BitVec 10)
  /-- TCOPY: Checks a copy descriptor in the pad and starts a copy on the core's copy engine (R265). -/
  | tcopy (sa : BitVec 6)
  /-- TCOPYM: Starts a copy into the pad with a follow-on MMAT (R266). -/
  | tcopym (sa : BitVec 6)
  /-- BARINIT: Atomically initialises a byte barrier in the pad (R272). -/
  | barinit (sa sb : BitVec 6)
  /-- BARARR: Atomically adds bytes and optionally one arrival to a barrier, as a release at block scope (R273). -/
  | bararr (sa sb : BitVec 6) (arr : Bool)
  /-- BARWAIT: Blocking wait until the barrier's phase differs from S(sb)[0]; on return it acts as an acquire (R274). -/
  | barwait (sa sb : BitVec 6)
  /-- MBATCH: Closes the gang's open matrix batch and returns its number (R297). -/
  | mbatch (sd : BitVec 6)
  /-- MWAIT: Waits until the named closed batches have executed; on return it acts as an acquire (R298). -/
  | mwait (sa : BitVec 6)
  /-- GENROL: Asks to enrol the block in a multicast group and returns a status (R276). -/
  | genrol (sd sa sb : BitVec 6)
  /-- GLEAVE: Ends the block's membership of a group (R277). -/
  | gleave (sa : BitVec 6)
  /-- GLOAD: Asks for a group load into the pad and takes part in the group's round (R279). -/
  | gload (sd sa sb : BitVec 6)
  /-- GPUT: Pushes pad bytes to every other member of the group (R280). -/
  | gput (sd sa sb : BitVec 6)
  /-- SOLICIT: Releases the asker's accesses and broadcasts a key to the cores of the scope; the census id goes to sd (R311). -/
  | solicit (sd sa sb : BitVec 6)
  /-- CWAIT: Waits for the census to complete, returns the responder count and frees the id (R318). -/
  | cwait (sd sa : BitVec 6)
  /-- RESPOND: Sends the responder's four 32-bit fields up the col network (R315). -/
  | respond (sa sb : BitVec 6)
  /-- DIRADD: Adds a HOME entry to the core's solicit directory (R309). -/
  | diradd (sd sa sb : BitVec 6)
  /-- DIRDEL: Frees the lowest-numbered HOME entry of the key (R309). -/
  | dirdel (sd sa : BitVec 6)
  /-- DIRMOV: Marks an entry LEAVING and asks the destination core to reserve an entry (R307). -/
  | dirmov (sd sa sb : BitVec 6)
  /-- DIR_DEPARTURE: At the lowest common col node, ownership of the entry passes to the destination's ARRIVING entry (R307). -/
  | dirDeparture (handoff : Nat)
  /-- DIR_INSTALL: The destination installs the entry as HOME and DIRMOV's status is written (R307). -/
  | dirInstall (handoff : Nat)
  /-- DEPARTURE_AT_SOURCE: The departure reaches the source core, which frees its entry (R307). -/
  | departureAtSource (handoff : Nat)
  /-- IADD: Lane integer add, wrapping or saturating (R135). -/
  | iadd (f : Lane)
  /-- ISUB: Lane integer subtract (R135). -/
  | isub (f : Lane)
  /-- IMUL: Low half of the lane integer product (R135). -/
  | imul (f : Lane)
  /-- IMULH: High 32 bits of the lane integer product (R135). -/
  | imulh (f : Lane)
  /-- IMAD: Lane integer multiply-add (R135). -/
  | imad (f : Lane)
  /-- IADD3: Adds three 32-bit lane integers (R135). -/
  | iadd3 (f : Lane)
  /-- IABS: Lane integer absolute value (R135). -/
  | iabs (f : Lane)
  /-- INEG: Lane integer negation (R135). -/
  | ineg (f : Lane)
  /-- IMIN: Lane integer minimum (R135). -/
  | imin (f : Lane)
  /-- IMAX: Lane integer maximum (R135). -/
  | imax (f : Lane)
  /-- IAND: Lane bitwise AND (R135). -/
  | iand (f : Lane)
  /-- IOR: Lane bitwise OR (R135). -/
  | ior (f : Lane)
  /-- IXOR: Lane bitwise XOR (R135). -/
  | ixor (f : Lane)
  /-- INOT: Lane bitwise complement (R135). -/
  | inot (f : Lane)
  /-- TERN: Three-input bitwise truth-table operation (R135). -/
  | tern (f : Lane)
  /-- ISHL: Lane shift left with a clamped count (R136). -/
  | ishl (f : Lane)
  /-- ISHR: Lane logical shift right with a clamped count (R136). -/
  | ishr (f : Lane)
  /-- ISRA: Lane arithmetic shift right with a clamped count (R136). -/
  | isra (f : Lane)
  /-- SHF: Lane funnel shift (R136). -/
  | shf (f : Lane)
  /-- POPC: Counts the one bits of a lane value (R135). -/
  | popc (f : Lane)
  /-- CLZ: Counts the leading zero bits of a lane value (R135). -/
  | clz (f : Lane)
  /-- BREV: Reverses the bits of a lane value (R135). -/
  | brev (f : Lane)
  /-- BFE: Extracts a bit field (R137). -/
  | bfe (f : Lane)
  /-- BFI: Inserts a bit field (R137). -/
  | bfi (f : Lane)
  /-- PRMT: Permutes bytes (R137). -/
  | prmt (f : Lane)
  /-- ICMP: Integer compare into a predicate (R138). -/
  | icmp (f : Lane)
  /-- FCMP: Floating compare into a predicate (R138). -/
  | fcmp (f : Lane)
  /-- KLOP: Two-input logic on predicates (R139). -/
  | klop (f : Lane)
  /-- KMOV: Sets a predicate from a nonzero value (R139). -/
  | kmov (f : Lane)
  /-- KTOV: Writes the lane's predicates as a word (R139). -/
  | ktov (f : Lane)
  /-- SEL: Selects one of two values by a predicate (R140). -/
  | sel (f : Lane)
  /-- MOV: Lane move (R140). -/
  | mov (f : Lane)
  /-- MOVI: Moves a 32-bit immediate into a lane register (R140). -/
  | movi (f : Lane)
  /-- FADD: Floating add (R141). -/
  | fadd (f : Lane)
  /-- FSUB: Floating subtract (R141). -/
  | fsub (f : Lane)
  /-- FMUL: Floating multiply (R141). -/
  | fmul (f : Lane)
  /-- FFMA: Fused multiply-add, rounded once (R141). -/
  | ffma (f : Lane)
  /-- FMIN: Floating minimum (R142). -/
  | fmin (f : Lane)
  /-- FMAX: Floating maximum (R142). -/
  | fmax (f : Lane)
  /-- FABS: Floating absolute value (R142). -/
  | fabs (f : Lane)
  /-- FNEG: Floating negation (R142). -/
  | fneg (f : Lane)
  /-- FRCP: Reciprocal within 1 ulp (R143). -/
  | frcp (f : Lane)
  /-- FRSQ: Reciprocal square root (R143). -/
  | frsq (f : Lane)
  /-- FSQRT: Correctly rounded square root (R143). -/
  | fsqrt (f : Lane)
  /-- FEXP2: Base-2 exponential (R143). -/
  | fexp2 (f : Lane)
  /-- FLOG2: Base-2 logarithm (R143). -/
  | flog2 (f : Lane)
  /-- FSIN: Sine (R143). -/
  | fsin (f : Lane)
  /-- FCOS: Cosine (R143). -/
  | fcos (f : Lane)
  /-- FTANH: Hyperbolic tangent (R143). -/
  | ftanh (f : Lane)
  /-- FDIV: Correctly rounded division (R143). -/
  | fdiv (f : Lane)
  /-- FRND: Rounds to an integral value (R144). -/
  | frnd (f : Lane)
  /-- FCLASS: Classifies a floating value (R144). -/
  | fclass (f : Lane)
  /-- CVT: Converts between integer and floating types (R145). -/
  | cvt (f : Lane)
  /-- CVTP: Packs converted elements into one register (R146). -/
  | cvtp (f : Lane)
  /-- CVTU: Unpacks one element into s32 or f32 (R147). -/
  | cvtu (f : Lane)
  /-- QDEC: Decodes a 4-bit nibble to f32 (R148). -/
  | qdec (f : Lane)
  /-- QENC: Encodes f32 into a 4-bit nibble (R148). -/
  | qenc (f : Lane)
  /-- SCLE: Decodes or encodes an E5M4 scale (R148). -/
  | scle (f : Lane)
  /-- SHFL: Reads a register from another lane within a segment (R151). -/
  | shfl (f : Lane)
  /-- QXCH: Exchanges values within a quad (R152). -/
  | qxch (f : Lane)
  /-- VOTE: Gang-wide all, any, ballot or uniformity vote (R153). -/
  | vote (f : Lane)
  /-- MATCH: Mask of the lanes holding equal values (R154). -/
  | matchLanes (f : Lane)
  /-- REDUX: Tree reduction over the contributing lanes (R155). -/
  | redux (f : Lane)
  /-- SCAN: Prefix scan over the contributing lanes (R156). -/
  | scan (f : Lane)
  /-- LTOS: Copies a lane value into a scalar register (R157). -/
  | ltos (f : Lane)
  /-- LD: Lane load in any space (R188). -/
  | ld (f : Lane)
  /-- ST: Lane store in any space (R188). -/
  | st (f : Lane)
  /-- ATOM: Atomic read-modify-write performed at the home, returning the old value (R189). -/
  | atom (f : Lane)
  /-- RED: Atomic reduction with no returned value (R190). -/
  | red (f : Lane)
  /-- CAS: Compare and swap (R191). -/
  | cas (f : Lane)
  /-- PREF: Prefetches lines into L1 and L2 (R192). -/
  | pref (f : Lane)
  /-- BRL: Lane branch taken where the guard is true; splits the fragment by next PC (R84). -/
  | brl (f : Lane)
  /-- BRXL: Indirect lane branch through per-lane target addresses (R84). -/
  | brxl (f : Lane)
  /-- LAUNCH: Releases the gang's accesses and sends launch records from the pad to a device-fed queue (R337). -/
  | launch (f : Lane)
  /-- LAUNCH_ENQUEUE: The hub writes the received records into the queue in lane order and returns the statuses (R337). -/
  | launchEnqueue
  /-- MMA: Queues a matrix multiply-accumulate from lane registers (R291). -/
  | mma (f : Lane)
  /-- MMAT: Queues a matrix multiply-accumulate from the pad (R291). -/
  | mmat (f : Lane)
  /-- MMAZ: Queues a matrix multiply-accumulate with a zero-block bitmap (R292). -/
  | mmaz (f : Lane)
  /-- MZERO: Queues the clearing of an accumulator tile (R295). -/
  | mzero (f : Lane)
  /-- MLD: Queues a load of a tile from the pad (R295). -/
  | mld (f : Lane)
  /-- MST: Queues a store of a tile to the pad (R295). -/
  | mst (f : Lane)
  /-- MOUT: Queues the conversion of a tile to narrow results in the pad (R296). -/
  | mout (f : Lane)
  /-- MATRIX_EXECUTE: The array executes the entry at the head of the core's matrix queue and releases its operand holds (R291). -/
  | matrixExecute (core : Nat)
  /-- EMPTY_TURN: A turn on which the gang issues nothing: exactly one stall counter increments and the slot handover is searched (R106). -/
  | emptyTurn
  /-- INSTRUCTION_FETCH: Instruction words arrive for the slot-holding fragment from L1 or beyond (R43). -/
  | instructionFetch (req : Nat)
  /-- TRANSLATION_WALK: A page walk completes and the request either translates or parks with the first failing cause (R176). -/
  | translationWalk (req : Nat)
  /-- PARK_RECORD_WRITE: After PKCTL.DELAY cycles, and once its ring has room, an open park record is written to its ring and closed (R233). -/
  | parkRecordWrite (die : Nat) (ring : Nat)
  /-- MEM_REQUEST_AT_HOME: A request is served at its home slice: read, written or performed atomically, or parked as POISON or WORLD (R206). -/
  | memRequestAtHome (req : Nat)
  /-- ACCESS_COMPLETE: A completion reaches the gang: values are written, pending bits are cleared and the path counter is lowered (R193). -/
  | accessComplete (access : Nat)
  /-- LATE_COMPLETION_DELIVERY: A completion held through a save or restore is applied to the core or to the image (R253). -/
  | lateCompletionDelivery (access : Nat)
  /-- CONTROLLER_SERVICE: A channel controller, or basin bank b as number 32 + b, serves its next request, urgent first (R354). -/
  | controllerService (stack channel : Nat)
  /-- BASIN_WINDOW_END: A bank's FILTER miss count reaches WINDOW, and the filter and the count are cleared (R352). -/
  | basinWindowEnd (stack bank : Nat)
  /-- SPILL_FETCH: A slice fetches spilled requests back from HBM in arrival order (R359). -/
  | spillFetch (die slice : Nat)
  /-- PORT_REPLAY: A port receives a replay reply and resends the request whole to its new home (R344). -/
  | portReplay (req : Nat)
  /-- COPY_COMPLETE: Every destination byte is performed; the barrier is updated, the stamp is advanced, the entry and lock are freed and path 3 is lowered (R269). -/
  | copyComplete (cmd : Nat)
  /-- GROUP_TIMER_EXPIRY: The group timer expires and triggers the merged fill of the round (R278). -/
  | groupTimerExpiry (sector group : Nat)
  /-- GROUP_FILL_COMPLETE: The fill's bytes are performed in a member's pad, LEN is added to its barrier and the command completes (R279). -/
  | groupFillComplete (cmd : Nat)
  /-- GPUT_DELIVERY: A receiver's bytes are performed; LEN is added to its RBAR and an acknowledgement is sent (R280). -/
  | gputDelivery (cmd : Nat) (receiver : Nat)
  /-- GPUT_ACK: An acknowledgement adds one arrival to SBAR; the last one completes the GPUT (R280). -/
  | gputAck (cmd : Nat) (receiver : Nat)
  /-- SOLICIT_AT_ROOT: The root assigns a census id when fewer than 1,024 are open and starts the broadcast (R311). -/
  | solicitAtRoot
  /-- CORE_REPORT: The broadcast reaches a core, which looks up its directory and reports its matches and deferred counts (R312). -/
  | coreReport (census core : Nat)
  /-- RESPONDER_START: A queued match starts a one-gang responder block when a block index, a slot and registers are free (R313). -/
  | responderStart (core : Nat)
  /-- RESPONSE_COMBINE: A col network node combines responses and passes one partial result upward (R316). -/
  | responseCombine (census index : Nat)
  /-- CENSUS_COMPLETE: The root writes the 16-byte combined result when every report and response is in (R317). -/
  | censusComplete (census : Nat)
  /-- CENSUS_TIMEOUT: TIMEOUT cycles pass with the census incomplete (R319). -/
  | censusTimeout (census : Nat)
  /-- LAUNCH_RECORD_TAKE: The dispatcher takes a queue's head record, checks it and gives it a launch number or refuses it (R324). -/
  | launchRecordTake (queue : Nat)
  /-- PLACE_UNIT: The dispatcher places the next block or team of a launch on the first core that fits (R330). -/
  | placeUnit
  /-- YIELD_DEADLINE: The yield timer expires before every gang has acknowledged (R332). -/
  | yieldDeadline
  /-- PARKTH_CHECK: Every 1,024 cycles the dispatcher compares a context's share of parked gangs with PARKTH (R239). -/
  | parkthCheck
  /-- SAVE_IMAGE_WRITE: After matrix batches drain, the cores write the save image and STATE becomes saved (R250). -/
  | saveImageWrite (ctx : Nat)
  /-- CONTEXT_RESTORE: The dispatcher places a saved context's blocks, reloads the image and makes STATE resident (R252). -/
  | contextRestore (ctx : Nat)
  /-- BLOCK_RETIRE: The block retires once its gangs, commands and matrix entries are done, and frees its resources (R40). -/
  | blockRetire (block : Nat)
  /-- LAUNCH_RETIRE: Every unit of the grid has retired, and the launch retires (R325). -/
  | launchRetire (launch : Nat)
  /-- LQPTR_TAIL_WRITE: Software writes a host-fed queue's TAIL, making new records available (R326). -/
  | lqptrTailWrite (queue : Nat) (tail : W32)
  /-- GRAPH_NODE_START: A graph node whose incoming edges are resolved runs, or is skipped (R334). -/
  | graphNodeStart (launch node : Nat)
  /-- GRAPH_NODE_FINISH: A running node finishes and its outgoing edges are taken or skipped (R334). -/
  | graphNodeFinish (launch node : Nat)
  /-- SLWB: A domain command that writes back, and optionally removes, the lines of a range in the named slices (R342). -/
  | slwb (die : Nat)
  /-- DSPLIT: A domain command that holds the domain's requests, cleans the upper-half slices, switches the masks and releases the held requests (R343). -/
  | dsplit (die : Nat)
  /-- DSPLIT_COMPLETE: Every port reports no unanswered old-mask request; STATUS is written and DONE advances (R343). -/
  | dsplitComplete (die : Nat)
  /-- FIRST_TOUCH_RELEASE: An FTREL write cleans a region's lines and frees its first-touch entry (R356). -/
  | firstTouchRelease (die : Nat) (region : Nat)
  /-- PLAIN_CARVE: A PLAINCFG write changes a die's plain carve or owner, writing back or clearing as needed (R360). -/
  | plainCarve (die : Nat) (value : W64)
  /-- MIGRATION_DONE: The move completes, the granule's state switches and MIGSTAT.DONE (and FAIL if it failed) is set (R361). -/
  | migrationDone (tierOk : Bool)
  /-- DC_RELEASE_ACK: After write-back and moving back, the device acknowledges and further requests park as TIERFAIL (R362). -/
  | dcReleaseAck (base : Nat)
  /-- TIER_RESEAL: A line's write counter would wrap, and the granule is resealed under the next epoch (R374). -/
  | tierReseal (granule : Nat)
  /-- LINK_RETRY_EXHAUSTED: After 16 consecutive failed resends the link goes down (R363). -/
  | linkRetryExhausted (link : BitVec 5)
  /-- SLEEP_PREP: Pre-empts every context, writes back L2, suspends sessions and wraps the keys for D-retain (R382). -/
  | sleepPrep (host : BitVec 5)
  /-- IDENTITY: Management request returning the ordering code, DEVNUM and firmware versions (R390). -/
  | identity (seq : PathSeq) (ack : W32)
  /-- POWER: Management request to change the power state (R389). -/
  | power (seq : PathSeq) (ack : W32) (target : PowerState)
  /-- ERRCOUNT: Management request returning, and optionally clearing, a unit's CE and UE counters (R398). -/
  | errcount (seq : PathSeq) (ack : W32) (clear : Byte) (unit : W32)
  /-- RESYNC: Management request that resynchronises the sequence numbers after a crash (R390). -/
  | resync (seq : PathSeq) (ack : W32)
  /-- TX_DESCRIPTOR: An Ethernet port takes a transmit descriptor and sends, seals or refuses the frame (R384). -/
  | txDescriptor (port queue : Nat)
  /-- STORAGE_REQUEST: The storage engine takes a request and forms sealed NVMe commands, or refuses it (R387). -/
  | storageRequest (port queue : Nat)
  /-- DEBUG_HALT: DHALT.HALT stops the named block at instruction boundaries (R99). -/
  | debugHalt (core : Nat)
  /-- HALT_COMPLETE: Every gang of the block has stopped and the halt record is written (R100). -/
  | haltComplete (block : Nat)
  /-- DEBUG_RESUME: DHALT.RESUME lets the halted block's gangs issue again (R101). -/
  | debugResume (core : Nat)
  /-- DEBUG_STEP: DHALT.STEP runs one gang for n issued instructions and halts it again (R101). -/
  | debugStep (core : Nat)
  /-- PROGRAM_BUFFER_GO: DBUFCTL.GO runs the stuffed entries in a halted gang's slot (R105). -/
  | programBufferGo (core : Nat)
  /-- DEBUG_SAMPLE: Every DSAMP.PERIOD cycles the debug unit writes a sample of the next occupied slot (R107). -/
  | debugSample (core : Nat)
  /-- HANDOFF_FAILURE: The destination of a DIRMOV has no free entry, so the source entry returns to HOME, DIRMOV's status is FULL, and attached solicits are answered at the source (R307). -/
  | handoffFailure (handoff : Nat)
  /-- LOWER_TIER_SERVICE: The CXL tier answers a request held for a LOWER granule, which is then served, or parks as TIERFAIL when the tier cannot serve it (R181). -/
  | lowerTierService (req : Nat) (answer : TierAnswer)
  /-- DC_RELEASE_REQUEST: The fabric manager asks to release a dynamic-capacity extent; requests to it are held while it is cleaned (R362). -/
  | dcReleaseRequest (base size : Nat)
  /-- DC_FORCED_RELEASE: A forced release poisons the lines still dirty (R362). -/
  | dcForcedRelease (base size : Nat)
  /-- FLIT_RECEIVE: A scale-up flit is checked by CRC and both tags, then accepted, resent or failed (R375). -/
  | flitReceive (link : BitVec 5) (flit : FlitIn)
  /-- FLIT_RESEND: A flit that failed or did not arrive is resent from the retry buffer as the same bits (R363). -/
  | flitResend (link : BitVec 5)
  /-- LINK_RETRAIN: A scale-up link that went down is retrained, clearing LINKSTAT.DOWN so that the requests waiting for it can go again (R363). -/
  | linkRetrain (link : BitVec 5)
  /-- WORLD_CREATE: Island command that creates a world bound to the tenant key hash (R370). -/
  | worldCreate (host : BitVec 5) (keyHash : BitVec 512)
  /-- WORLD_DESTROY: Cancels a world's contexts, reclaims its frames and zeroes its slots (R370). -/
  | worldDestroy (host : BitVec 5) (world : BitVec 16)
  /-- CTX_BIND: Binds a ctx.id to a world, a ROOT, debug permission and a compat threshold (R367). -/
  | ctxBind (host : BitVec 5) (ctx : BitVec 16) (root : W64) (debug : Bool) (parkth : Byte)
  /-- FRAME_ASSIGN: Gives free frames to a world (R368). -/
  | frameAssign (host : BitVec 5) (world : BitVec 16) (frame count : Nat)
  /-- FRAME_RECLAIM: Cleans, zeroes and frees a world's frames (R368). -/
  | frameReclaim (host : BitVec 5) (world : BitVec 16) (frame count : Nat)
  /-- KEY_IMPORT: Installs a wrapped key and returns a handle (R369). -/
  | keyImport (host : BitVec 5) (wrap : W32) (usage : KeyUsage) (blob : List Byte)
  /-- KEY_DESTROY: Frees a key slot and advances its generation (R369). -/
  | keyDestroy (host : BitVec 5) (handle : W32)
  /-- SA_BIND: Binds a handle to an Ethernet SA, an NVMe namespace or a tier or link key (R385). -/
  | saBind (host : BitVec 5) (handle : W32) (target : BindTarget)
  /-- WORLD_REPORT: Returns a signed report of the measurements (R370). -/
  | worldReport (host : BitVec 5)
  /-- WMR_EXTEND: Extends the world's measurement, or for world 0 register 16 + mr of R378 (R370, log 33). -/
  | wmrExtend (host : BitVec 5) (mr : BitVec 4) (digest : BitVec 512)
  /-- MIGRATE_OUT: Moves a saved world to an attested destination and commits (R381). -/
  | migrateOut (host : BitVec 5) (policy : List Byte) (tenantKey : List Byte) (destRegs : List (BitVec 512)) (ready : Bool) (session : BitVec 512)
  /-- MIGRATE_IN: Receives a migrating world as PENDING and makes it active on COMMIT (R381). -/
  | migrateIn (world : WorldAsk) (image : MigratedWorld) (session : BitVec 512)
  /-- GET_VERSION: SPDM request for the supported versions (R379). -/
  | getVersion
  /-- GET_CAPABILITIES: SPDM request for the capabilities (R379). -/
  | getCapabilities
  /-- GET_DIGESTS: SPDM request for the certificate digests (R379). -/
  | getDigests
  /-- NEGOTIATE_ALGORITHMS: SPDM negotiation of the algorithm set (R379). -/
  | negotiateAlgorithms (request : List Byte)
  /-- GET_CERTIFICATE: SPDM request for a certificate chain (R379). -/
  | getCertificate (request : List Byte)
  /-- CHALLENGE: SPDM challenge authentication (R379). -/
  | challenge (request : List Byte)
  /-- GET_MEASUREMENTS: SPDM request for measurement blocks 1 to 32 (R379). -/
  | getMeasurements (block : Nat)
  /-- KEY_EXCHANGE: SPDM key exchange for a session (R379). -/
  | keyExchange (peer : SpdmPeer) (request : List Byte)
  /-- FINISH: Completes an SPDM session; for a link in SEALFAIL it restores UP (R379). -/
  | finish (session : Nat) (request : List Byte)
  /-- KEY_UPDATE: SPDM session key update (R379). -/
  | keyUpdate (session : Nat)
  /-- END_SESSION: Ends an SPDM session (R379). -/
  | endSession (session : Nat)
  /-- DEVICE_RESET: Reset starts the chain of trust from the island ROM and measures each verified image (R377). -/
  | deviceReset (images : BootImages)
  /-- CORRECTED_ERROR: A corrected ECC error is corrected and counted (R397). -/
  | correctedError (unit : W32)
  /-- UNCORRECTED_DATA_ERROR: An uncorrectable data error poisons the line (R397). -/
  | uncorrectedDataError (unit : W32) (pa : Nat)
  /-- UNCORRECTED_CONTROL_ERROR: An uncorrectable error in control state halts the unit (R397). -/
  | uncorrectedControlError (unit : W32) (cause : Byte) (ctx : W32)
  /-- RX_FRAME: A received frame is checked, decrypted and written to at most one queue, or dropped (R385). -/
  | rxFrame (port : Nat) (frame : FrameIn)
  /-- DRIVE_COMPLETION: A drive completion arrives and the request's STATUS is written (R387). -/
  | driveCompletion (tag : Nat) (status : BitVec 16) (cdw0 : W32) (data : List Byte)
  /-- REGISTER_WRITE: A write to a register that has no row of its own sets its RW fields and clears its W1C bits (R7). -/
  | registerWrite (reg : RegAsk) (value : W64)
  /-- COMMIT: A COMMIT message reaches a destination holding a migrating world as PENDING, which then makes the world active; it also covers a PENDING destination asking again and the source answering from its tombstone (R381). -/
  | commit (what : CommitStep) (world : BitVec 16) (session : BitVec 512)
  /-- POWER_LOSS: Supply or retention power is lost, so the wrapped key store can no longer be decrypted and confidential worlds, or a migrating world without an acknowledged tombstone, are lost (R382). -/
  | powerLoss (retention : Bool)
  /-- CONFIDENTIAL_VM_ENTRY: Island firmware sets a host core's world when the core enters a confidential VM (R365). -/
  | confidentialVmEntry (host : BitVec 5) (world : BitVec 16)
  /-- CONFIDENTIAL_VM_EXIT: Island firmware restores a host core's world when the core leaves a confidential VM (R365). -/
  | confidentialVmExit (host : BitVec 5)
  /-- MIGRATION_MOVE: A MIGCMD write with GO starts moving a granule up to HBM or down to the tier (R361). -/
  | migrationMove
  /-- PARK_RELEASE: A PKOP write with OP RELEASE replays, in park order, the parked entries of the range (R236). -/
  | parkRelease
  /-- PARK_CANCEL: A PKOP write with OP CANCEL destroys a context's gangs and outstanding work and marks it cancelled (R237). -/
  | parkCancel
  /-- INVALIDATION: A write of XLINVC with GO starts an invalidation of cached translations (R179). -/
  | invalidation
  /-- INVALIDATION_DONE: No covered entry is cached and every affected request is performed or parked; XLINVS.DONE is set (R179). -/
  | invalidationDone
  /-- HEARTBEAT: The management core sends a heartbeat event every 10 ms (R399). -/
  | heartbeat
  /-- D_IDLE_ENTRY: With no ready queue head for 1 ms the device enters D-idle (R389). -/
  | dIdleEntry
  deriving DecidableEq, Repr

end Sys2Proof
end

