-- ==== Sys2Proof/Machine/Encoding.lean ====
section
/-! DEFINITION. The opcode map as data: what each lane op reads and writes (R61), and the checks that an instruction's
words decide alone, steps 4 to 7 of R59. -/

namespace Sys2Proof.Machine

/-- How a lane op uses a source field (R50, R51, R185, R290). -/
inductive SrcUse where
  /-- not read: must be zero (R132) -/
  | unused
  /-- an ordinary source of the type's width -/
  | val
  /-- a source read as 32 bits under every type (R151) -/
  | val32
  /-- a 64-bit source that is a pair, a latch or a code with one value for every lane (R157) -/
  | bcast
  /-- an address operand (R51) -/
  | addr
  /-- data at the access width (R185) -/
  | data
  /-- an operation code, not a source (R49) -/
  | opcode
  /-- four consecutive lane registers from a multiple of 4 (R146) -/
  | quad
  /-- a 32-register matrix operand (R286) -/
  | mat32
  /-- the B operand of a matrix pairing, 32 or 16 registers (R285) -/
  | matB
  /-- a scalar register or zr (R290) -/
  | scal
  /-- the zero-block bitmap of MMAZ (R290) -/
  | bitmap
  /-- the scale of MOUT (R290) -/
  | scale
  /-- the target of BRXL (R83) -/
  | target
  /-- the descriptor offset of LAUNCH (R336) -/
  | offset
  /-- part of an offset or immediate (R49) -/
  | raw
  deriving DecidableEq, Repr

/-- How a lane op uses its dst field (R47, R49). -/
inductive DstUse where
  | unused
  /-- a lane register, a pair under a 64-bit type -/
  | typed
  /-- one lane register under every type -/
  | one
  /-- as many registers as the access width takes (R188) -/
  | width
  /-- a scalar register (LTOS) -/
  | scalar
  /-- an accumulator tile -/
  | tile
  /-- part of an offset -/
  | raw
  deriving DecidableEq, Repr

/-- One row of the lane opcode map (R61). -/
structure LaneRow where
  cls   : Nat
  op    : Nat
  types : List Nat
  dst   : DstUse
  a     : SrcUse
  b     : SrcUse
  c     : SrcUse
  /-- the op writes predicate kd -/
  kd    : Bool
  /-- the op pushes a result into the latches (R53) -/
  push  : Bool
  deriving DecidableEq, Repr

/-- Integer types of both widths, n32 s32 n64 s64. -/
def tInt : List Nat := [0, 1, 2, 3]
/-- b32, with the 32-bit integer codes R133 adds in class 0x0. -/
def tBits : List Nat := [12, 0, 1]
/-- b32 and n64, with the codes R133 adds in class 0x0. -/
def tBits64 : List Nat := [12, 0, 1, 2, 3]
/-- f32 f64 f16x2 bf16x2. -/
def tFloat : List Nat := [4, 5, 6, 7]

/-- Classes 0x0 and 0x1 of R61. -/
def laneRowsInt : List LaneRow := [
  ⟨0, 0, tInt, .typed, .val, .val, .unused, false, true⟩,
  ⟨0, 1, tInt, .typed, .val, .val, .unused, false, true⟩,
  ⟨0, 2, tInt, .typed, .val, .val, .unused, false, true⟩,
  ⟨0, 3, [0, 1], .typed, .val, .val, .unused, false, true⟩,
  ⟨0, 4, tInt, .typed, .val, .val, .val, false, true⟩,
  ⟨0, 5, [0, 1], .typed, .val, .val, .val, false, true⟩,
  ⟨0, 6, [1, 3], .typed, .val, .unused, .unused, false, true⟩,
  ⟨0, 7, [1, 3], .typed, .val, .unused, .unused, false, true⟩,
  ⟨0, 8, tInt, .typed, .val, .val, .unused, false, true⟩,
  ⟨0, 9, tInt, .typed, .val, .val, .unused, false, true⟩,
  ⟨0, 10, tBits64, .typed, .val, .val, .unused, false, true⟩,
  ⟨0, 11, tBits64, .typed, .val, .val, .unused, false, true⟩,
  ⟨0, 12, tBits64, .typed, .val, .val, .unused, false, true⟩,
  ⟨0, 13, tBits64, .typed, .val, .unused, .unused, false, true⟩,
  ⟨0, 14, tBits, .typed, .val, .val, .val, false, true⟩,
  ⟨0, 15, tInt, .typed, .val, .val, .unused, false, true⟩,
  ⟨0, 16, tInt, .typed, .val, .val, .unused, false, true⟩,
  ⟨0, 17, tInt, .typed, .val, .val, .unused, false, true⟩,
  ⟨0, 18, tBits, .typed, .val, .val, .val, false, true⟩,
  ⟨0, 19, tBits, .typed, .val, .unused, .unused, false, true⟩,
  ⟨0, 20, tBits, .typed, .val, .unused, .unused, false, true⟩,
  ⟨0, 21, tBits, .typed, .val, .unused, .unused, false, true⟩,
  ⟨0, 22, [0, 1], .typed, .val, .val, .unused, false, true⟩,
  ⟨0, 23, tBits, .typed, .val, .val, .val, false, true⟩,
  ⟨0, 24, tBits, .typed, .val, .val, .val, false, true⟩,
  ⟨1, 0, tInt, .unused, .val, .val, .unused, true, false⟩,
  ⟨1, 1, [4, 5], .unused, .val, .val, .unused, true, false⟩,
  ⟨1, 2, [12], .unused, .unused, .unused, .unused, true, false⟩,
  ⟨1, 3, [12], .unused, .val, .unused, .unused, true, false⟩,
  ⟨1, 4, [12], .typed, .unused, .unused, .unused, false, true⟩,
  ⟨1, 5, [12, 2], .typed, .val, .val, .unused, false, true⟩,
  ⟨1, 6, [12, 2], .typed, .val, .unused, .unused, false, true⟩,
  ⟨1, 7, [12], .typed, .unused, .unused, .raw, false, true⟩]

/-- Classes 0x2 and 0x3 of R61. -/
def laneRowsFloat : List LaneRow := [
  ⟨2, 0, tFloat, .typed, .val, .val, .unused, false, true⟩,
  ⟨2, 1, tFloat, .typed, .val, .val, .unused, false, true⟩,
  ⟨2, 2, tFloat, .typed, .val, .val, .unused, false, true⟩,
  ⟨2, 3, tFloat, .typed, .val, .val, .val, false, true⟩,
  ⟨2, 4, tFloat, .typed, .val, .val, .unused, false, true⟩,
  ⟨2, 5, tFloat, .typed, .val, .val, .unused, false, true⟩,
  ⟨2, 6, tFloat, .typed, .val, .unused, .unused, false, true⟩,
  ⟨2, 7, tFloat, .typed, .val, .unused, .unused, false, true⟩,
  ⟨2, 8, [4], .typed, .val, .unused, .unused, false, true⟩,
  ⟨2, 9, [4], .typed, .val, .unused, .unused, false, true⟩,
  ⟨2, 10, [4, 5], .typed, .val, .unused, .unused, false, true⟩,
  ⟨2, 11, [4], .typed, .val, .unused, .unused, false, true⟩,
  ⟨2, 12, [4], .typed, .val, .unused, .unused, false, true⟩,
  ⟨2, 13, [4], .typed, .val, .unused, .unused, false, true⟩,
  ⟨2, 14, [4], .typed, .val, .unused, .unused, false, true⟩,
  ⟨2, 15, [4], .typed, .val, .unused, .unused, false, true⟩,
  ⟨2, 16, [4, 5], .typed, .val, .val, .unused, false, true⟩,
  ⟨2, 17, tFloat, .typed, .val, .unused, .unused, false, true⟩,
  ⟨2, 18, [4, 5], .one, .val, .unused, .unused, false, true⟩,
  ⟨3, 0, [0, 1, 2, 3, 4, 5], .typed, .val, .unused, .unused, false, true⟩,
  ⟨3, 1, [6, 7, 8, 9, 10, 11], .one, .val, .val, .unused, false, true⟩,
  ⟨3, 2, [6, 7, 8, 9, 10, 11], .one, .val, .unused, .unused, false, true⟩,
  ⟨3, 3, [4], .one, .val, .unused, .unused, false, true⟩,
  ⟨3, 4, [12], .one, .val, .val, .unused, false, true⟩,
  ⟨3, 5, [4], .one, .val, .unused, .unused, false, true⟩]

/-- Classes 0x4 to 0x7 of R61. -/
def laneRowsRest : List LaneRow := [
  ⟨4, 0, [12, 2], .typed, .val, .val32, .unused, false, true⟩,
  ⟨4, 1, [12, 2], .typed, .val, .unused, .unused, false, true⟩,
  ⟨4, 2, [12], .one, .unused, .unused, .unused, true, true⟩,
  ⟨4, 3, [12, 2], .one, .val, .unused, .unused, false, true⟩,
  ⟨4, 4, [0, 1, 4, 12], .one, .val, .unused, .unused, false, true⟩,
  ⟨4, 5, [0, 1, 4, 12], .one, .val, .unused, .unused, false, true⟩,
  ⟨4, 6, [12, 2], .scalar, .val, .unused, .unused, false, false⟩,
  ⟨5, 0, [12, 0, 1, 2], .width, .addr, .unused, .unused, false, false⟩,
  ⟨5, 1, [12, 0, 1, 2], .unused, .addr, .data, .unused, false, false⟩,
  ⟨5, 2, [0, 1, 2, 3, 4, 12], .width, .addr, .data, .opcode, false, false⟩,
  ⟨5, 3, [0, 1, 2, 3, 4, 12], .unused, .addr, .data, .opcode, false, false⟩,
  ⟨5, 4, [12, 2], .width, .addr, .data, .data, false, false⟩,
  ⟨5, 5, [12], .unused, .addr, .unused, .unused, false, false⟩,
  ⟨6, 0, [12], .raw, .raw, .raw, .unused, false, false⟩,
  ⟨6, 1, [12], .unused, .target, .unused, .unused, false, false⟩,
  ⟨6, 2, [12], .one, .offset, .unused, .unused, false, false⟩,
  ⟨7, 0, [4, 1], .tile, .mat32, .matB, .unused, false, false⟩,
  ⟨7, 1, [4, 1], .tile, .scal, .scal, .scal, false, false⟩,
  ⟨7, 2, [4, 1], .tile, .mat32, .matB, .bitmap, false, false⟩,
  ⟨7, 3, [12], .tile, .unused, .unused, .unused, false, false⟩,
  ⟨7, 4, [12], .tile, .scal, .unused, .unused, false, false⟩,
  ⟨7, 5, [12], .tile, .scal, .unused, .unused, false, false⟩,
  ⟨7, 6, [12], .tile, .scal, .scale, .unused, false, false⟩]

/-- The lane opcode map (R61). -/
def laneRows : List LaneRow := laneRowsInt ++ laneRowsFloat ++ laneRowsRest

/-- The row of an assigned class and op. -/
def laneRow? (cls op : Nat) : Option LaneRow :=
  laneRows.find? fun r => r.cls == cls && r.op == op

/-- Bits `hi` to `lo` of a natural number (R67). -/
def bitsN (x hi lo : Nat) : Nat := x / 2 ^ lo % 2 ^ (hi + 1 - lo)

/-- One bit of a natural number. -/
def bitN (x i : Nat) : Bool := x / 2 ^ i % 2 == 1

/-- A 64-bit type: n64, s64 or f64 (R57). -/
def is64 (ty : Nat) : Bool := ty == 2 || ty == 3 || ty == 5

/-- Access width in bytes of a memory op (R186). -/
def accessWidth (ty mod : Nat) : Nat :=
  match bitsN mod 9 8 with
  | 1 => 1
  | 2 => 2
  | 3 => 16
  | _ => if ty == 2 || ty == 3 then 8 else 4

/-- Element formats of matrix operands, in bits (R65). -/
def formatBits (f : Nat) : Nat := if f ≤ 1 then 16 else if f ≤ 4 then 8 else 4

/-- A pairing is legal when both codes are assigned and B is no wider than A (R285). -/
def pairingOk (fa fb : Nat) : Bool := fa ≤ 7 && fb ≤ 7 && formatBits fb ≤ formatBits fa

/-- The accumulator of a pairing is s32 when both formats are s8, s4 or h4 (R65). -/
def pairingS32 (fa fb : Nat) : Bool :=
  (fa == 4 || fa == 6 || fa == 7) && (fb == 4 || fb == 6 || fb == 7)

/-- A narrow B operand holds 16 registers (R285). -/
def narrowB (fa fb : Nat) : Bool := formatBits fb < formatBits fa

/-- The mod field of a class 0x0 op (R61, R135). -/
def modOkInt (op ty m : Nat) : Bool :=
  match op with
  | 0 | 1 => m == 0 || (m == 1 && !(ty == 2 || ty == 3))
  | 5 | 6 | 7 => m ≤ 1
  | 14 => m < 256
  | 18 => m < 4
  | _ => m == 0

/-- The mod field of a class 0x1 op (R62, R138 to R140). -/
def modOkCmp (op m : Nat) : Bool :=
  match op with
  | 0 => m ≤ 5
  | 1 => m < 16 && bitsN m 2 0 ≤ 5
  | 2 => true
  | 5 => m < 16
  | _ => m == 0

/-- The mod field of a class 0x2 op (R62, R141 to R144). -/
def modOkFloat (op m : Nat) : Bool :=
  match op with
  | 0 | 1 | 2 | 3 | 10 | 16 | 17 => m ≤ 5
  | _ => m == 0

/-- The mod field of a class 0x3 op (R145 to R148). A type outside the op's column is left to step 5. -/
def modOkConv (op ty m : Nat) : Bool :=
  match op with
  | 0 =>
    m < 256 && bitsN m 3 0 ≤ 5 && bitsN m 6 4 ≤ 5 &&
    !(bitsN m 3 0 ≤ 3 && ty ≤ 3 && bitsN m 6 4 != 0) && !(bitN m 7 && (ty == 4 || ty == 5))
  | 1 =>
    m < 256 && (bitsN m 3 0 == 1 || bitsN m 3 0 == 4) && bitsN m 6 4 ≤ 5 &&
    !(bitsN m 3 0 == 1 && (ty == 10 || ty == 11) && bitsN m 6 4 != 0)
  | 2 =>
    (bitsN m 3 0 == 1 || bitsN m 3 0 == 4) && bitsN m 7 4 == 0 &&
    !(bitsN m 9 8 > 1 && (ty == 6 || ty == 7))
  | 3 | 4 => m < 32 && bitsN m 1 0 != 3
  | _ => m ≤ 1

/-- The mod field of a class 0x4 op (R63, R151 to R157). -/
def modOkExch (op ty m : Nat) : Bool :=
  match op with
  | 0 => m < 32 && bitsN m 4 2 ≤ 5
  | 1 => m ≤ 2
  | 2 => m < 32
  | 3 => m ≤ 1
  | 4 => m ≤ 5 && !((m ≤ 2) && ty == 12) && !((3 ≤ m) && (ty == 0 || ty == 1 || ty == 4))
  | 5 =>
    m < 16 && bitsN m 2 0 ≤ 5 && !((bitsN m 2 0 ≤ 2) && ty == 12) &&
    !((3 ≤ bitsN m 2 0) && (ty == 0 || ty == 1 || ty == 4))
  | 6 => m < 32 * 2 && (bitN m 5 || bitsN m 4 0 == 0)
  | _ => m == 0

/-- The sizes R64 allows LD and ST with a type. -/
def sizeOk (ty m : Nat) : Bool :=
  match bitsN m 9 8 with
  | 1 | 2 => !(ty == 12 || ty == 2)
  | 3 => !(ty == 0 || ty == 1 || ty == 2)
  | _ => true

/-- Operation codes and types of ATOM and RED (R184). -/
def atomOpOk (op ty : Nat) (isRed : Bool) : Bool :=
  match op with
  | 0 => ty != 12
  | 1 | 2 => ty != 4 && ty != 12
  | 3 | 4 | 5 => !(ty ≤ 4)
  | 6 => !isRed && !(ty ≤ 4)
  | _ => false

/-- The mod field and operation code of a class 0x5 op (R64, R184). -/
def modOkMem (op ty m c : Nat) : Bool :=
  let base := bitsN m 2 0 ≤ 4 && bitsN m 7 5 ≤ 5
  match op with
  | 0 => base && bitsN m 4 3 ≤ 1 && sizeOk ty m
  | 1 => base && (bitsN m 4 3 == 0 || bitsN m 4 3 == 2) && sizeOk ty m
  | 2 => base && bitsN m 9 8 == 0 && atomOpOk c ty false
  | 3 => base && (bitsN m 4 3 == 0 || bitsN m 4 3 == 2) && bitsN m 9 8 == 0 && atomOpOk c ty true
  | 4 => base && (bitsN m 9 8 == 0 || (bitsN m 9 8 == 3 && ty != 2))
  | _ => m ≤ 4

/-- The mod field of a class 0x7 op (R65, R285, R288, R290). -/
def modOkMat (op ty m imm : Nat) : Bool :=
  match op with
  | 0 | 1 | 2 =>
    let fa := bitsN m 3 0
    let fb := bitsN m 7 4
    pairingOk fa fb && !bitN m 8 &&
    !(ty == 4 && pairingS32 fa fb) && !(ty == 1 && !pairingS32 fa fb) &&
    (!bitN m 9 || (!pairingS32 fa fb && formatBits fb == 4 && imm % 16 == 0))
  | 6 => m < 32 && bitsN m 3 0 ≤ 2
  | _ => m == 0

/-- mod bits, mod codes and their combination with type, operation code and immediate (step 4 of R59). -/
def modOk (cls op ty m c imm : Nat) : Bool :=
  match cls with
  | 0 => modOkInt op ty m
  | 1 => modOkCmp op m
  | 2 => modOkFloat op m
  | 3 => modOkConv op ty m
  | 4 => modOkExch op ty m
  | 5 => modOkMem op ty m c
  | 6 => if op == 2 then m < 64 else m == 0
  | _ => modOkMat op ty m imm

/-- VOTE.ballot is the VOTE kind that writes a lane register (R63, R153). -/
def isBallot (m : Nat) : Bool := bitsN m 1 0 == 2

/-- The row with VOTE resolved by its kind, CVTP by its destination width, LTOS by its type, and the MOUT scale by mod[4].
CVTP has srcB as a source only under the x2 types: under any other type a nonzero srcB is an unused field (log 13). -/
def laneUse (r : LaneRow) (ty m : Nat) : LaneRow :=
  if r.cls == 4 && r.op == 2 then
    if isBallot m then { r with kd := false } else { r with dst := .unused, push := false }
  else if r.cls == 3 && r.op == 1 then
    if ty == 6 || ty == 7 then r else { r with a := .quad, b := .unused }
  else if r.cls == 4 && r.op == 6 then
    if ty == 2 then { r with a := .bcast } else r
  else if r.cls == 7 && r.op == 6 then
    if bitN m 4 then r else { r with b := .unused }
  else r

/-- A source code R50 assigns: not reserved. -/
def codeAssigned (x : Nat) : Bool :=
  x ≤ 0x206 || (0x240 ≤ x && x ≤ 0x27F) || (0x2C0 ≤ x && x ≤ 0x2D1)

/-- A source code the operand accepts (step 6 of R59). -/
def srcCodeOk (u : SrcUse) (x m : Nat) : Bool :=
  match u with
  | .unused | .opcode | .raw => true
  | .val | .val32 => codeAssigned x
  | .bcast => codeAssigned x && !(0x2C0 ≤ x && x ≤ 0x2C2)
  | .addr => x ≤ 0x204 || (0x240 ≤ x && x ≤ 0x27F)
  | .data => if bitsN m 9 8 == 3 then x < 512 && x % 4 == 0 else codeAssigned x
  | .quad => x < 512
  | .mat32 | .matB => x < 512
  | .scal => x == 0x204 || (0x240 ≤ x && x ≤ 0x27F)
  | .bitmap => x < 512 || x == 0x204 || (0x240 ≤ x && x ≤ 0x27F)
  | .scale => x == 0x204 || x == 0x206 || (0x240 ≤ x && x ≤ 0x27F)
  | .target => x < 0x204 || (0x240 ≤ x && x ≤ 0x27F)
  | .offset => x ≤ 0x204 || (0x240 ≤ x && x ≤ 0x27F)

/-- The field is a source that the op reads by a source code. -/
def isSource (u : SrcUse) : Bool :=
  match u with
  | .unused | .opcode | .raw => false
  | _ => true

/-- A source code that the operand accepts and that takes its value from imm22 (R50, R132). -/
def usesImm (u : SrcUse) (x m : Nat) : Bool := isSource u && (x == 0x205 || x == 0x206) && srcCodeOk u x m

/-- imm22 is used by the instruction (R132). -/
def immUsed (r : LaneRow) (f : Lane) : Bool :=
  r.cls == 5 || (r.cls == 6 && r.op ≤ 1) || (r.cls == 1 && r.op == 7) ||
  (r.cls == 7 && r.op ≤ 2 && bitN f.mod.toNat 9) ||
  usesImm r.a f.a.toNat f.mod.toNat || usesImm r.b f.b.toNat f.mod.toNat || usesImm r.c f.c.toNat f.mod.toNat

/-- Unused fields are zero, and fields with a fixed layout keep it (step 4 of R59, R49, R132). -/
def fieldsOk (r : LaneRow) (f : Lane) : Bool :=
  (r.a != .unused || f.a == 0) && (r.b != .unused || f.b == 0) && (r.c != .unused || f.c == 0) &&
  (r.kd || f.kd == 0) &&
  (match r.dst with
   | .unused => f.dst == 0
   | .scalar => f.dst.toNat < 64
   | .tile => f.dst.toNat < 16
   | _ => true) &&
  (immUsed r f || f.imm == 0) &&
  (!(r.cls == 6 && r.op == 0) || f.b.toNat % 128 == 0) &&
  (r.cls != 7 || (f.guard == 0 && !f.neg)) &&
  (!(r.dst == .width && bitsN f.mod.toNat 9 8 == 3) || f.dst.toNat % 4 == 0)

/-- The first of steps 4 to 7 of R59 that a lane instruction fails, or 0 (R59). -/
def laneCheck (row : LaneRow) (f : Lane) : Nat :=
  let ty := f.ty.toNat
  let m := f.mod.toNat
  let r := laneUse row ty m
  if !fieldsOk r f || !modOk r.cls r.op ty m f.c.toNat f.imm.toNat then 4
  else if !r.types.contains ty then 5
  else if !srcCodeOk r.a f.a.toNat m || !srcCodeOk r.b f.b.toNat m || !srcCodeOk r.c f.c.toNat m then 6
  else if f.nwb && !r.push then 7
  else 0

/-- System register numbers R240 assigns. -/
def sysNumberAssigned (n : Nat) : Bool :=
  n ≤ 0x00A || n == 0x00C || n == 0x00D || (0x010 ≤ n && n ≤ 0x01F)

end Sys2Proof.Machine
end

