-- ==== Sys2Proof/WellFormed.lean ====
section
/-! DEFINITION. Well-formed instructions: those whose own fields pass every check that the words decide alone (R59). -/

namespace Sys2Proof

open Sys2Proof.Machine

/-- The first of steps 4 to 7 of R59 that a scalar instruction's fields fail, or 0. -/
def scalarCheck (i : Instr) : Nat :=
  match i with
  | .pause n => if n.toNat = 0 ∨ 1023 < n.toNat then 4 else 0
  | .regroup vfirst vlast _ _ => if vlast.toNat < vfirst.toNat then 4 else 0
  | .srd _ reg => if sysNumberAssigned reg.toNat then 0 else 4
  | .swr _ reg => if sysNumberAssigned reg.toNat then 0 else 4
  | .ssetb _ reg => if sysNumberAssigned reg.toNat then 0 else 4
  | .sclrb _ reg => if sysNumberAssigned reg.toNat then 0 else 4
  | .srdx _ _ reg => if sysNumberAssigned reg.toNat then 0 else 4
  | .fence _ _ scope => if scope.toNat ≤ 5 then 0 else 4
  | .cmo _ _ kind => if kind.toNat = 3 then 4 else 0
  | _ => 0

end Sys2Proof
end

