-- ==== Sys2Proof/Decode.lean ====
section
/-! DEFINITION. The decoder (R42, R44 to R49, R59 to R61), total on any words, and the encoder. A word that is no
instruction is rejected with the step of R59 it fails: the machine then takes the illegal-instruction trap. -/

namespace Sys2Proof

open Sys2Proof.Machine

/-- Field of `n` bits from bit `lo` of a word (R44, R47). -/
def fld (w : W32) (lo n : Nat) : BitVec n := w.extractLsb' lo n

/-- W0[21:0], the operand bits of a scalar word (R44). -/
def low22 (w : W32) : BitVec 22 := fld w 0 22

/-- Scalar class 0x0 of R60: the instruction of an op, and whether its unused fields are zero. -/
def scalarControl? (op : Nat) (w : W32) : Option (Instr × Bool) :=
  match op with
  | 0 => some (.nop, low22 w == 0)
  | 1 => some (.exit, low22 w == 0)
  | 2 => some (.bra (fld w 0 16), fld w 16 6 == 0)
  | 3 => some (.jal (fld w 16 6) (fld w 0 16), true)
  | 4 => some (.jalr (fld w 16 6) (fld w 10 6) (fld w 0 10), true)
  | 5 => some (.beq (fld w 16 6) (fld w 10 6) (fld w 0 10), true)
  | 6 => some (.bne (fld w 16 6) (fld w 10 6) (fld w 0 10), true)
  | 7 => some (.blt (fld w 16 6) (fld w 10 6) (fld w 0 10), true)
  | 8 => some (.bge (fld w 16 6) (fld w 10 6) (fld w 0 10), true)
  | 9 => some (.bltn (fld w 16 6) (fld w 10 6) (fld w 0 10), true)
  | 10 => some (.bgen (fld w 16 6) (fld w 10 6) (fld w 0 10), true)
  | 11 => some (.bany (fld w 16 3) (fld w 0 10), fld w 10 6 == 0 && fld w 19 3 == 0)
  | 12 => some (.ball (fld w 16 3) (fld w 0 10), fld w 10 6 == 0 && fld w 19 3 == 0)
  | 13 => some (.bnone (fld w 16 3) (fld w 0 10), fld w 10 6 == 0 && fld w 19 3 == 0)
  | 14 => some (.join, low22 w == 0)
  | 15 => some (.yield, low22 w == 0)
  | 16 => some (.pause (fld w 0 16), fld w 16 6 == 0)
  | 17 => some (.wide, low22 w == 0)
  | 18 => some (.endw, low22 w == 0)
  | 19 => some (.regroup (fld w 13 9) (fld w 4 9) (fld w 1 3) (w.getLsbD 0), true)
  | 20 => some (.bsync, low22 w == 0)
  | 21 => some (.tsync, low22 w == 0)
  | 22 => some (.retc, low22 w == 0)
  | _ => none

/-- Scalar class 0x1 of R60: the instruction of an op, and whether its unused fields are zero. -/
def scalarInteger? (op : Nat) (w : W32) : Option (Instr × Bool) :=
  match op with
  | 0 => some (.sadd (fld w 16 6) (fld w 10 6) (fld w 4 6), fld w 0 4 == 0)
  | 1 => some (.ssub (fld w 16 6) (fld w 10 6) (fld w 4 6), fld w 0 4 == 0)
  | 2 => some (.smul (fld w 16 6) (fld w 10 6) (fld w 4 6), fld w 0 4 == 0)
  | 3 => some (.smulh (fld w 16 6) (fld w 10 6) (fld w 4 6), fld w 0 4 == 0)
  | 4 => some (.smulhn (fld w 16 6) (fld w 10 6) (fld w 4 6), fld w 0 4 == 0)
  | 5 => some (.sand (fld w 16 6) (fld w 10 6) (fld w 4 6), fld w 0 4 == 0)
  | 6 => some (.sor (fld w 16 6) (fld w 10 6) (fld w 4 6), fld w 0 4 == 0)
  | 7 => some (.sxor (fld w 16 6) (fld w 10 6) (fld w 4 6), fld w 0 4 == 0)
  | 8 => some (.sshl (fld w 16 6) (fld w 10 6) (fld w 4 6), fld w 0 4 == 0)
  | 9 => some (.sshr (fld w 16 6) (fld w 10 6) (fld w 4 6), fld w 0 4 == 0)
  | 10 => some (.ssra (fld w 16 6) (fld w 10 6) (fld w 4 6), fld w 0 4 == 0)
  | 11 => some (.smin (fld w 16 6) (fld w 10 6) (fld w 4 6), fld w 0 4 == 0)
  | 12 => some (.smax (fld w 16 6) (fld w 10 6) (fld w 4 6), fld w 0 4 == 0)
  | 13 => some (.sminn (fld w 16 6) (fld w 10 6) (fld w 4 6), fld w 0 4 == 0)
  | 14 => some (.smaxn (fld w 16 6) (fld w 10 6) (fld w 4 6), fld w 0 4 == 0)
  | 15 => some (.sslt (fld w 16 6) (fld w 10 6) (fld w 4 6), fld w 0 4 == 0)
  | 16 => some (.ssltn (fld w 16 6) (fld w 10 6) (fld w 4 6), fld w 0 4 == 0)
  | 17 => some (.sclz (fld w 16 6) (fld w 10 6), fld w 0 10 == 0)
  | 18 => some (.spopc (fld w 16 6) (fld w 10 6), fld w 0 10 == 0)
  | _ => none

/-- Scalar class 0x2 of R60: the instruction of an op, and whether its unused fields are zero. -/
def scalarImmediate? (op : Nat) (w : W32) : Option (Instr × Bool) :=
  match op with
  | 0 => some (.saddi (fld w 16 6) (fld w 10 6) (fld w 0 10), true)
  | 1 => some (.sandi (fld w 16 6) (fld w 10 6) (fld w 0 10), true)
  | 2 => some (.sori (fld w 16 6) (fld w 10 6) (fld w 0 10), true)
  | 3 => some (.sxori (fld w 16 6) (fld w 10 6) (fld w 0 10), true)
  | 4 => some (.sshli (fld w 16 6) (fld w 10 6) (fld w 0 6), fld w 6 4 == 0)
  | 5 => some (.sshri (fld w 16 6) (fld w 10 6) (fld w 0 6), fld w 6 4 == 0)
  | 6 => some (.ssrai (fld w 16 6) (fld w 10 6) (fld w 0 6), fld w 6 4 == 0)
  | 7 => some (.sslti (fld w 16 6) (fld w 10 6) (fld w 0 10), true)
  | 8 => some (.slui (fld w 16 6) (fld w 0 16), true)
  | 9 => some (.saddpc (fld w 16 6) (fld w 0 16), true)
  | 10 => some (.smovi (fld w 16 6) (fld w 0 16), true)
  | 11 => some (.sins16 (fld w 16 6) (fld w 0 16), true)
  | _ => none

/-- Scalar class 0x3 of R60: the instruction of an op, and whether its unused fields are zero. -/
def scalarMemory? (op : Nat) (w : W32) : Option (Instr × Bool) :=
  match op with
  | 0 => some (.sldw (fld w 16 6) (fld w 10 6) (fld w 0 10), true)
  | 1 => some (.sldd (fld w 16 6) (fld w 10 6) (fld w 0 10), true)
  | 2 => some (.sstw (fld w 16 6) (fld w 10 6) (fld w 0 10), true)
  | 3 => some (.sstd (fld w 16 6) (fld w 10 6) (fld w 0 10), true)
  | 4 => some (.sldk (fld w 16 3) (fld w 10 6) (fld w 0 10), fld w 19 3 == 0)
  | 5 => some (.sldp (fld w 16 6) (fld w 10 6) (fld w 0 10), true)
  | 6 => some (.sstp (fld w 16 6) (fld w 10 6) (fld w 0 10), true)
  | _ => none

/-- Scalar class 0x4 of R60: the instruction of an op, and whether its unused fields are zero. -/
def scalarSystem? (op : Nat) (w : W32) : Option (Instr × Bool) :=
  match op with
  | 0 => some (.srd (fld w 16 6) (fld w 0 10), fld w 10 6 == 0)
  | 1 => some (.swr (fld w 16 6) (fld w 0 10), fld w 10 6 == 0)
  | 2 => some (.ssetb (fld w 16 6) (fld w 0 10), fld w 10 6 == 0)
  | 3 => some (.sclrb (fld w 16 6) (fld w 0 10), fld w 10 6 == 0)
  | 4 => some (.trap (fld w 0 16), fld w 16 6 == 0)
  | 5 => some (.eret, low22 w == 0)
  | 6 => some (.fence (fld w 0 6) (fld w 6 6) (fld w 12 3), fld w 16 6 == 0 && !w.getLsbD 15)
  | 7 => some (.swait (fld w 10 6) (fld w 0 2), fld w 16 6 == 0 && fld w 2 8 == 0)
  | 8 => some (.monw (fld w 10 6) (fld w 0 10), fld w 16 6 == 0)
  | 9 => some (.mwaitv (fld w 16 6) (fld w 10 6), fld w 0 10 == 0)
  | 10 => some (.cmo (fld w 10 6) (fld w 4 6) (fld w 0 2), fld w 16 6 == 0 && fld w 2 2 == 0)
  | 11 => some (.dbgb (fld w 0 16), fld w 16 6 == 0)
  | 12 => some (.srdx (fld w 16 6) (fld w 10 6) (fld w 0 10), true)
  | _ => none

/-- Scalar class 0x5 of R60: the instruction of an op, and whether its unused fields are zero. -/
def scalarEngine? (op : Nat) (w : W32) : Option (Instr × Bool) :=
  match op with
  | 0 => some (.tcopy (fld w 10 6), fld w 16 6 == 0 && fld w 0 10 == 0)
  | 1 => some (.tcopym (fld w 10 6), fld w 16 6 == 0 && fld w 0 10 == 0)
  | 2 => some (.barinit (fld w 10 6) (fld w 4 6), fld w 16 6 == 0 && fld w 0 4 == 0)
  | 3 => some (.bararr (fld w 10 6) (fld w 4 6) (w.getLsbD 0), fld w 16 6 == 0 && fld w 1 3 == 0)
  | 4 => some (.barwait (fld w 10 6) (fld w 4 6), fld w 16 6 == 0 && fld w 0 4 == 0)
  | 5 => some (.mbatch (fld w 16 6), fld w 0 16 == 0)
  | 6 => some (.mwait (fld w 10 6), fld w 16 6 == 0 && fld w 0 10 == 0)
  | 7 => some (.genrol (fld w 16 6) (fld w 10 6) (fld w 4 6), fld w 0 4 == 0)
  | 8 => some (.gleave (fld w 10 6), fld w 16 6 == 0 && fld w 0 10 == 0)
  | 9 => some (.gload (fld w 16 6) (fld w 10 6) (fld w 4 6), fld w 0 4 == 0)
  | 10 => some (.gput (fld w 16 6) (fld w 10 6) (fld w 4 6), fld w 0 4 == 0)
  | 11 => some (.solicit (fld w 16 6) (fld w 10 6) (fld w 4 6), fld w 0 4 == 0)
  | 12 => some (.cwait (fld w 16 6) (fld w 10 6), fld w 0 10 == 0)
  | 13 => some (.respond (fld w 10 6) (fld w 4 6), fld w 16 6 == 0 && fld w 0 4 == 0)
  | 14 => some (.diradd (fld w 16 6) (fld w 10 6) (fld w 4 6), fld w 0 4 == 0)
  | 15 => some (.dirdel (fld w 16 6) (fld w 10 6), fld w 0 10 == 0)
  | 16 => some (.dirmov (fld w 16 6) (fld w 10 6) (fld w 4 6), fld w 0 4 == 0)
  | _ => none

/-- The lane instruction of an assigned class and op (R61). -/
def laneInstr? (cls op : Nat) : Option (Lane → Instr) :=
  match cls, op with
  | 0, 0 => some .iadd
  | 0, 1 => some .isub
  | 0, 2 => some .imul
  | 0, 3 => some .imulh
  | 0, 4 => some .imad
  | 0, 5 => some .iadd3
  | 0, 6 => some .iabs
  | 0, 7 => some .ineg
  | 0, 8 => some .imin
  | 0, 9 => some .imax
  | 0, 10 => some .iand
  | 0, 11 => some .ior
  | 0, 12 => some .ixor
  | 0, 13 => some .inot
  | 0, 14 => some .tern
  | 0, 15 => some .ishl
  | 0, 16 => some .ishr
  | 0, 17 => some .isra
  | 0, 18 => some .shf
  | 0, 19 => some .popc
  | 0, 20 => some .clz
  | 0, 21 => some .brev
  | 0, 22 => some .bfe
  | 0, 23 => some .bfi
  | 0, 24 => some .prmt
  | 1, 0 => some .icmp
  | 1, 1 => some .fcmp
  | 1, 2 => some .klop
  | 1, 3 => some .kmov
  | 1, 4 => some .ktov
  | 1, 5 => some .sel
  | 1, 6 => some .mov
  | 1, 7 => some .movi
  | 2, 0 => some .fadd
  | 2, 1 => some .fsub
  | 2, 2 => some .fmul
  | 2, 3 => some .ffma
  | 2, 4 => some .fmin
  | 2, 5 => some .fmax
  | 2, 6 => some .fabs
  | 2, 7 => some .fneg
  | 2, 8 => some .frcp
  | 2, 9 => some .frsq
  | 2, 10 => some .fsqrt
  | 2, 11 => some .fexp2
  | 2, 12 => some .flog2
  | 2, 13 => some .fsin
  | 2, 14 => some .fcos
  | 2, 15 => some .ftanh
  | 2, 16 => some .fdiv
  | 2, 17 => some .frnd
  | 2, 18 => some .fclass
  | 3, 0 => some .cvt
  | 3, 1 => some .cvtp
  | 3, 2 => some .cvtu
  | 3, 3 => some .qdec
  | 3, 4 => some .qenc
  | 3, 5 => some .scle
  | 4, 0 => some .shfl
  | 4, 1 => some .qxch
  | 4, 2 => some .vote
  | 4, 3 => some .matchLanes
  | 4, 4 => some .redux
  | 4, 5 => some .scan
  | 4, 6 => some .ltos
  | 5, 0 => some .ld
  | 5, 1 => some .st
  | 5, 2 => some .atom
  | 5, 3 => some .red
  | 5, 4 => some .cas
  | 5, 5 => some .pref
  | 6, 0 => some .brl
  | 6, 1 => some .brxl
  | 6, 2 => some .launch
  | 7, 0 => some .mma
  | 7, 1 => some .mmat
  | 7, 2 => some .mmaz
  | 7, 3 => some .mzero
  | 7, 4 => some .mld
  | 7, 5 => some .mst
  | 7, 6 => some .mout
  | _, _ => none

/-- Class, op and fields of a lane instruction (R61). -/
def laneParts? (i : Instr) : Option (Nat × Nat × Lane) :=
  match i with
  | .iadd f => some (0, 0, f)
  | .isub f => some (0, 1, f)
  | .imul f => some (0, 2, f)
  | .imulh f => some (0, 3, f)
  | .imad f => some (0, 4, f)
  | .iadd3 f => some (0, 5, f)
  | .iabs f => some (0, 6, f)
  | .ineg f => some (0, 7, f)
  | .imin f => some (0, 8, f)
  | .imax f => some (0, 9, f)
  | .iand f => some (0, 10, f)
  | .ior f => some (0, 11, f)
  | .ixor f => some (0, 12, f)
  | .inot f => some (0, 13, f)
  | .tern f => some (0, 14, f)
  | .ishl f => some (0, 15, f)
  | .ishr f => some (0, 16, f)
  | .isra f => some (0, 17, f)
  | .shf f => some (0, 18, f)
  | .popc f => some (0, 19, f)
  | .clz f => some (0, 20, f)
  | .brev f => some (0, 21, f)
  | .bfe f => some (0, 22, f)
  | .bfi f => some (0, 23, f)
  | .prmt f => some (0, 24, f)
  | .icmp f => some (1, 0, f)
  | .fcmp f => some (1, 1, f)
  | .klop f => some (1, 2, f)
  | .kmov f => some (1, 3, f)
  | .ktov f => some (1, 4, f)
  | .sel f => some (1, 5, f)
  | .mov f => some (1, 6, f)
  | .movi f => some (1, 7, f)
  | .fadd f => some (2, 0, f)
  | .fsub f => some (2, 1, f)
  | .fmul f => some (2, 2, f)
  | .ffma f => some (2, 3, f)
  | .fmin f => some (2, 4, f)
  | .fmax f => some (2, 5, f)
  | .fabs f => some (2, 6, f)
  | .fneg f => some (2, 7, f)
  | .frcp f => some (2, 8, f)
  | .frsq f => some (2, 9, f)
  | .fsqrt f => some (2, 10, f)
  | .fexp2 f => some (2, 11, f)
  | .flog2 f => some (2, 12, f)
  | .fsin f => some (2, 13, f)
  | .fcos f => some (2, 14, f)
  | .ftanh f => some (2, 15, f)
  | .fdiv f => some (2, 16, f)
  | .frnd f => some (2, 17, f)
  | .fclass f => some (2, 18, f)
  | .cvt f => some (3, 0, f)
  | .cvtp f => some (3, 1, f)
  | .cvtu f => some (3, 2, f)
  | .qdec f => some (3, 3, f)
  | .qenc f => some (3, 4, f)
  | .scle f => some (3, 5, f)
  | .shfl f => some (4, 0, f)
  | .qxch f => some (4, 1, f)
  | .vote f => some (4, 2, f)
  | .matchLanes f => some (4, 3, f)
  | .redux f => some (4, 4, f)
  | .scan f => some (4, 5, f)
  | .ltos f => some (4, 6, f)
  | .ld f => some (5, 0, f)
  | .st f => some (5, 1, f)
  | .atom f => some (5, 2, f)
  | .red f => some (5, 3, f)
  | .cas f => some (5, 4, f)
  | .pref f => some (5, 5, f)
  | .brl f => some (6, 0, f)
  | .brxl f => some (6, 1, f)
  | .launch f => some (6, 2, f)
  | .mma f => some (7, 0, f)
  | .mmat f => some (7, 1, f)
  | .mmaz f => some (7, 2, f)
  | .mzero f => some (7, 3, f)
  | .mld f => some (7, 4, f)
  | .mst f => some (7, 5, f)
  | .mout f => some (7, 6, f)
  | _ => none

/-- Class, op and low 22 bits of a scalar instruction (R44, R45, R60). -/
def scalarParts? (i : Instr) : Option (BitVec 4 × BitVec 5 × BitVec 22) :=
  match i with
  | .nop => some (0, 0, (0 : BitVec 22))
  | .exit => some (0, 1, (0 : BitVec 22))
  | .join => some (0, 14, (0 : BitVec 22))
  | .yield => some (0, 15, (0 : BitVec 22))
  | .wide => some (0, 17, (0 : BitVec 22))
  | .endw => some (0, 18, (0 : BitVec 22))
  | .bsync => some (0, 20, (0 : BitVec 22))
  | .tsync => some (0, 21, (0 : BitVec 22))
  | .retc => some (0, 22, (0 : BitVec 22))
  | .bra o => some (0, 2, (0 : BitVec 6) ++ o)
  | .jal d o => some (0, 3, d ++ o)
  | .jalr d a i => some (0, 4, d ++ a ++ i)
  | .beq a b o => some (0, 5, a ++ b ++ o)
  | .bne a b o => some (0, 6, a ++ b ++ o)
  | .blt a b o => some (0, 7, a ++ b ++ o)
  | .bge a b o => some (0, 8, a ++ b ++ o)
  | .bltn a b o => some (0, 9, a ++ b ++ o)
  | .bgen a b o => some (0, 10, a ++ b ++ o)
  | .bany p o => some (0, 11, (0 : BitVec 3) ++ p ++ (0 : BitVec 6) ++ o)
  | .ball p o => some (0, 12, (0 : BitVec 3) ++ p ++ (0 : BitVec 6) ++ o)
  | .bnone p o => some (0, 13, (0 : BitVec 3) ++ p ++ (0 : BitVec 6) ++ o)
  | .pause n => some (0, 16, (0 : BitVec 6) ++ n)
  | .regroup vf vl k m => some (0, 19, vf ++ vl ++ k ++ BitVec.ofBool m)
  | .sadd d a b => some (1, 0, d ++ a ++ b ++ (0 : BitVec 4))
  | .ssub d a b => some (1, 1, d ++ a ++ b ++ (0 : BitVec 4))
  | .smul d a b => some (1, 2, d ++ a ++ b ++ (0 : BitVec 4))
  | .smulh d a b => some (1, 3, d ++ a ++ b ++ (0 : BitVec 4))
  | .smulhn d a b => some (1, 4, d ++ a ++ b ++ (0 : BitVec 4))
  | .sand d a b => some (1, 5, d ++ a ++ b ++ (0 : BitVec 4))
  | .sor d a b => some (1, 6, d ++ a ++ b ++ (0 : BitVec 4))
  | .sxor d a b => some (1, 7, d ++ a ++ b ++ (0 : BitVec 4))
  | .sshl d a b => some (1, 8, d ++ a ++ b ++ (0 : BitVec 4))
  | .sshr d a b => some (1, 9, d ++ a ++ b ++ (0 : BitVec 4))
  | .ssra d a b => some (1, 10, d ++ a ++ b ++ (0 : BitVec 4))
  | .smin d a b => some (1, 11, d ++ a ++ b ++ (0 : BitVec 4))
  | .smax d a b => some (1, 12, d ++ a ++ b ++ (0 : BitVec 4))
  | .sminn d a b => some (1, 13, d ++ a ++ b ++ (0 : BitVec 4))
  | .smaxn d a b => some (1, 14, d ++ a ++ b ++ (0 : BitVec 4))
  | .sslt d a b => some (1, 15, d ++ a ++ b ++ (0 : BitVec 4))
  | .ssltn d a b => some (1, 16, d ++ a ++ b ++ (0 : BitVec 4))
  | .sclz d a => some (1, 17, d ++ a ++ (0 : BitVec 10))
  | .spopc d a => some (1, 18, d ++ a ++ (0 : BitVec 10))
  | .saddi d a i => some (2, 0, d ++ a ++ i)
  | .sandi d a i => some (2, 1, d ++ a ++ i)
  | .sori d a i => some (2, 2, d ++ a ++ i)
  | .sxori d a i => some (2, 3, d ++ a ++ i)
  | .sshli d a n => some (2, 4, d ++ a ++ (0 : BitVec 4) ++ n)
  | .sshri d a n => some (2, 5, d ++ a ++ (0 : BitVec 4) ++ n)
  | .ssrai d a n => some (2, 6, d ++ a ++ (0 : BitVec 4) ++ n)
  | .sslti d a i => some (2, 7, d ++ a ++ i)
  | .slui d i => some (2, 8, d ++ i)
  | .saddpc d i => some (2, 9, d ++ i)
  | .smovi d i => some (2, 10, d ++ i)
  | .sins16 d i => some (2, 11, d ++ i)
  | .sldw d a i => some (3, 0, d ++ a ++ i)
  | .sldd d a i => some (3, 1, d ++ a ++ i)
  | .sstw d a i => some (3, 2, d ++ a ++ i)
  | .sstd d a i => some (3, 3, d ++ a ++ i)
  | .sldp d a i => some (3, 5, d ++ a ++ i)
  | .sstp d a i => some (3, 6, d ++ a ++ i)
  | .sldk k a i => some (3, 4, (0 : BitVec 3) ++ k ++ a ++ i)
  | .srd d r => some (4, 0, d ++ (0 : BitVec 6) ++ r)
  | .swr d r => some (4, 1, d ++ (0 : BitVec 6) ++ r)
  | .ssetb d r => some (4, 2, d ++ (0 : BitVec 6) ++ r)
  | .sclrb d r => some (4, 3, d ++ (0 : BitVec 6) ++ r)
  | .trap n => some (4, 4, (0 : BitVec 6) ++ n)
  | .dbgb n => some (4, 11, (0 : BitVec 6) ++ n)
  | .eret => some (4, 5, (0 : BitVec 22))
  | .fence p s c => some (4, 6, (0 : BitVec 6) ++ (0 : BitVec 1) ++ c ++ s ++ p)
  | .swait a p => some (4, 7, (0 : BitVec 6) ++ a ++ (0 : BitVec 8) ++ p)
  | .monw a i => some (4, 8, (0 : BitVec 6) ++ a ++ i)
  | .mwaitv d a => some (4, 9, d ++ a ++ (0 : BitVec 10))
  | .cmo a b k => some (4, 10, (0 : BitVec 6) ++ a ++ b ++ (0 : BitVec 2) ++ k)
  | .srdx d a i => some (4, 12, d ++ a ++ i)
  | .tcopy a => some (5, 0, (0 : BitVec 6) ++ a ++ (0 : BitVec 10))
  | .tcopym a => some (5, 1, (0 : BitVec 6) ++ a ++ (0 : BitVec 10))
  | .barinit a b => some (5, 2, (0 : BitVec 6) ++ a ++ b ++ (0 : BitVec 4))
  | .barwait a b => some (5, 4, (0 : BitVec 6) ++ a ++ b ++ (0 : BitVec 4))
  | .bararr a b m => some (5, 3, (0 : BitVec 6) ++ a ++ b ++ (0 : BitVec 3) ++ BitVec.ofBool m)
  | .mbatch d => some (5, 5, d ++ (0 : BitVec 16))
  | .mwait a => some (5, 6, (0 : BitVec 6) ++ a ++ (0 : BitVec 10))
  | .genrol d a b => some (5, 7, d ++ a ++ b ++ (0 : BitVec 4))
  | .gleave a => some (5, 8, (0 : BitVec 6) ++ a ++ (0 : BitVec 10))
  | .gload d a b => some (5, 9, d ++ a ++ b ++ (0 : BitVec 4))
  | .gput d a b => some (5, 10, d ++ a ++ b ++ (0 : BitVec 4))
  | .solicit d a b => some (5, 11, d ++ a ++ b ++ (0 : BitVec 4))
  | .cwait d a => some (5, 12, d ++ a ++ (0 : BitVec 10))
  | .respond a b => some (5, 13, (0 : BitVec 6) ++ a ++ b ++ (0 : BitVec 4))
  | .diradd d a b => some (5, 14, d ++ a ++ b ++ (0 : BitVec 4))
  | .dirdel d a => some (5, 15, d ++ a ++ (0 : BitVec 10))
  | .dirmov d a b => some (5, 16, d ++ a ++ b ++ (0 : BitVec 4))
  | _ => none
/-- The op of a scalar class (R60); none for an unassigned op, and `none` for an unassigned class. -/
def scalarOp? (cls op : Nat) (w : W32) : Option (Option (Instr × Bool)) :=
  match cls with
  | 0 => some (scalarControl? op w)
  | 1 => some (scalarInteger? op w)
  | 2 => some (scalarImmediate? op w)
  | 3 => some (scalarMemory? op w)
  | 4 => some (scalarSystem? op w)
  | 5 => some (scalarEngine? op w)
  | _ => none

/-- The fields of a lane instruction (R47). -/
def laneFields (w0 w1 w2 : W32) : Lane where
  guard := fld w0 14 3
  neg := w0.getLsbD 13
  nwb := w0.getLsbD 12
  keep := fld w0 10 2
  ty := fld w0 17 4
  mod := fld w0 0 10
  dst := fld w1 23 9
  a := fld w1 13 10
  b := fld w1 3 10
  kd := fld w1 0 3
  c := fld w2 22 10
  imm := fld w2 0 22

/-- What the decoder answers: an instruction, or the step of R59 at which the words fail (2 to 7). -/
inductive Decoded where
  | instr (i : Instr)
  | illegal (step : Nat)
  deriving DecidableEq, Repr

/-- Decode a scalar word, W0[31] = 0 (R44, R59). -/
def decodeScalar (w : W32) : Decoded :=
  match scalarOp? (fld w 27 4).toNat (fld w 22 5).toNat w with
  | none => .illegal 2
  | some none => .illegal 3
  | some (some (i, zeros)) =>
    if !zeros then .illegal 4
    else match scalarCheck i with
      | 0 => .instr i
      | step => .illegal step

/-- Decode a lane triple, W0[31] = 1 (R47, R59). -/
def decodeLane (w0 w1 w2 : W32) : Decoded :=
  let cls := (fld w0 27 4).toNat
  let op := (fld w0 21 6).toNat
  if 8 ≤ cls then .illegal 2
  else match laneInstr? cls op, laneRow? cls op with
    | some mk, some row =>
      let f := laneFields w0 w1 w2
      match laneCheck row f with
      | 0 => .instr (mk f)
      | step => .illegal step
    | _, _ => .illegal 3

/-- Decode the words of one instruction; a scalar instruction uses the first alone (R42). -/
def decodeWords (w0 w1 w2 : W32) : Decoded :=
  if w0.getLsbD 31 then decodeLane w0 w1 w2 else decodeScalar w0

/-- A little-endian 32-bit word of a byte list (R4, R42). -/
def wordOfBytes (b : List Byte) : W32 :=
  b.getD 3 0 ++ b.getD 2 0 ++ b.getD 1 0 ++ b.getD 0 0

/-- The bytes of a word as memory holds it (R4). -/
def bytesOfWord (w : W32) : List Byte :=
  [w.extractLsb' 0 8, w.extractLsb' 8 8, w.extractLsb' 16 8, w.extractLsb' 24 8]

/-- Decode an instruction from the bytes at its address; missing bytes read as zero (R42). -/
def decodeBytes (b : List Byte) : Decoded :=
  decodeWords (wordOfBytes b) (wordOfBytes (b.drop 4)) (wordOfBytes (b.drop 8))

/-- The words of a number whose bit 0 is the least significant bit of the first word. -/
def wordsOfNat (w : Nat) : List W32 := [BitVec.ofNat 32 w, BitVec.ofNat 32 (w / 2 ^ 32), BitVec.ofNat 32 (w / 2 ^ 64)]

/-- The bytes, as memory holds them, of an instruction of `nbits` bits whose bits are `w`; bits above are zero. -/
def tableBytes (nbits w : Nat) : List Byte :=
  (wordsOfNat (w % 2 ^ nbits)).flatMap bytesOfWord

/-- The instruction the decoder reads from an instruction whose bits are `w`. -/
def decodeTableWord (nbits w : Nat) : Option Instr :=
  match decodeBytes (tableBytes nbits w) with
  | .instr i => some i
  | .illegal _ => none

/-- W0 of a scalar instruction (R44). -/
def scalarWord (cls : BitVec 4) (op : BitVec 5) (low : BitVec 22) : W32 := (0 : BitVec 1) ++ cls ++ op ++ low

/-- The three words of a lane instruction (R47). -/
def laneWords (cls : BitVec 4) (op : BitVec 6) (f : Lane) : List W32 :=
  [(1 : BitVec 1) ++ cls ++ op ++ f.ty ++ f.guard ++ BitVec.ofBool f.neg ++ BitVec.ofBool f.nwb ++ f.keep ++ f.mod,
   f.dst ++ f.a ++ f.b ++ f.kd,
   f.c ++ f.imm]

/-- The words of an instruction (R42 to R49); a step of a unit or agent has none. -/
def encode (i : Instr) : List W32 :=
  match laneParts? i with
  | some (cls, op, f) => laneWords (BitVec.ofNat 4 cls) (BitVec.ofNat 6 op) f
  | none =>
    match scalarParts? i with
    | some (cls, op, low) => [scalarWord cls op low]
    | none => []

/-- The instruction has words: it is no step of a unit or agent. -/
def hasWords (i : Instr) : Bool := (laneParts? i).isSome || (scalarParts? i).isSome

/-- The first check of R59, steps 4 to 7, that an instruction fails, or 0. -/
def checkStep (i : Instr) : Nat :=
  match laneParts? i with
  | some (cls, op, f) =>
    match laneRow? cls op with
    | some row => laneCheck row f
    | none => 3
  | none => scalarCheck i

/-- A well-formed instruction passes every check that its words decide alone (R59). -/
def wellFormed (i : Instr) : Bool := checkStep i == 0

end Sys2Proof
end

