-- ==== Sys2Proof/Machine/Float.lean ====
section
/-! DEFINITION. Floating formats, exact values, rounding and its flags (R111 to R125). -/

namespace Sys2Proof.Machine

/-- The exception flags of one operation (R126). -/
structure FFlags where
  nx : Bool
  uf : Bool
  of : Bool
  dz : Bool
  nv : Bool
  deriving DecidableEq, Repr

def noFlags : FFlags := ⟨false, false, false, false, false⟩
def flagNv : FFlags := ⟨false, false, false, false, true⟩
def flagDz : FFlags := ⟨false, false, false, true, false⟩
def flagNx : FFlags := ⟨true, false, false, false, false⟩
def flagUfNx : FFlags := ⟨true, true, false, false, false⟩
def flagOfNx : FFlags := ⟨true, false, true, false, false⟩

/-- Flags of two operations together. -/
def orFlags (a b : FFlags) : FFlags := ⟨a.nx || b.nx, a.uf || b.uf, a.of || b.of, a.dz || b.dz, a.nv || b.nv⟩

/-- A binary format: exponent bits, fraction bits, bias, and whether it has infinities (R112). -/
structure Fmt where
  ebits : Nat
  fbits : Nat
  bias  : Nat
  ieee  : Bool
  deriving DecidableEq, Repr

def f64 : Fmt := ⟨11, 52, 1023, true⟩
def f32 : Fmt := ⟨8, 23, 127, true⟩
def bf16 : Fmt := ⟨8, 7, 127, true⟩
def f16 : Fmt := ⟨5, 10, 15, true⟩
def e5m2 : Fmt := ⟨5, 2, 15, true⟩
def e4m3 : Fmt := ⟨4, 3, 7, false⟩

/-- Bits of a format below the sign. -/
def fmtBits (t : Fmt) : Nat := t.ebits + t.fbits

/-- Canonical NaN (R114). -/
def canonNan (t : Fmt) : Nat := if t.ieee then (2 ^ (t.ebits + 1) - 1) * 2 ^ (t.fbits - 1) else 2 ^ fmtBits t - 1

/-- Sign bit in place. -/
def signBit (t : Fmt) (neg : Bool) : Nat := if neg then 2 ^ fmtBits t else 0

/-- Infinity of a sign. -/
def infBits (t : Fmt) (neg : Bool) : Nat := signBit t neg + (2 ^ t.ebits - 1) * 2 ^ t.fbits

/-- Largest finite value of a sign (R112). -/
def maxBits (t : Fmt) (neg : Bool) : Nat :=
  signBit t neg + (if t.ieee then (2 ^ t.ebits - 1) * 2 ^ t.fbits - 1 else 2 ^ fmtBits t - 2)

/-- The value of a floating pattern: a finite nonzero value is (-1)^neg m 2^e with m positive. -/
inductive FVal where
  | nan (signalling : Bool)
  | inf (neg : Bool)
  | zero (neg : Bool)
  | fin (neg : Bool) (m : Nat) (e : Int)
  deriving DecidableEq, Repr

/-- The value of a pattern (R112 to R114). -/
def fval (t : Fmt) (x : Nat) : FVal :=
  let neg := x / 2 ^ fmtBits t % 2 == 1
  let ex := x / 2 ^ t.fbits % 2 ^ t.ebits
  let m := x % 2 ^ t.fbits
  if t.ieee && ex == 2 ^ t.ebits - 1 then
    if m = 0 then .inf neg else .nan (m / 2 ^ (t.fbits - 1) % 2 == 0)
  else if !t.ieee && ex == 2 ^ t.ebits - 1 && m == 2 ^ t.fbits - 1 then .nan false
  else if ex = 0 then
    if m = 0 then .zero neg else .fin neg m (1 - (t.bias : Int) - t.fbits)
  else .fin neg (2 ^ t.fbits + m) ((ex : Int) - t.bias - t.fbits)

/-- A pattern is a nonzero subnormal. -/
def isSubnormal (t : Fmt) (x : Nat) : Bool := x / 2 ^ t.fbits % 2 ^ t.ebits == 0 && x % 2 ^ t.fbits != 0

/-- A subnormal pattern read as a zero of its sign, under a flush bit (R123). -/
def flushIn (t : Fmt) (fz : Bool) (x : Nat) : Nat := if fz && isSubnormal t x then x / 2 ^ fmtBits t * 2 ^ fmtBits t else x

/-- A subnormal result replaced by a zero of its sign, with UF and NX, under a flush bit (R123). -/
def flushOut (t : Fmt) (fz : Bool) (r : Nat × FFlags) : Nat × FFlags :=
  if fz && isSubnormal t r.1 then (r.1 / 2 ^ fmtBits t * 2 ^ fmtBits t, orFlags r.2 flagUfNx) else r

/-- m 2^e as an integer multiple of 2^q: quotient and remainder over a power of two 2^d. -/
def scaleTo (m : Nat) (e q : Int) : Nat × Nat × Nat :=
  if q ≤ e then (m * 2 ^ (e - q).toNat, 0, 1)
  else (m / 2 ^ (q - e).toNat, m % 2 ^ (q - e).toNat, 2 ^ (q - e).toNat)

/-- Round a magnitude n + r/d to an integer by mode (R119); modes outside 2 to 5 act as RNE. -/
def roundMag (mode : Nat) (neg : Bool) (n r d : Nat) : Nat :=
  match mode with
  | 2 => n
  | 3 => if r ≠ 0 ∧ !neg then n + 1 else n
  | 4 => if r ≠ 0 ∧ neg then n + 1 else n
  | 5 => if d ≤ 2 * r ∧ r ≠ 0 then n + 1 else n
  | _ => if d < 2 * r ∨ (d = 2 * r ∧ n % 2 = 1) then n + 1 else n

/-- The pattern of n 2^q, n at most 2^(fbits+1), q the spacing exponent; its exponent field may lie above the format. -/
def packMag (t : Fmt) (n : Nat) (q : Int) : Nat :=
  if n < 2 ^ t.fbits then n
  else if n = 2 ^ (t.fbits + 1) then ((q + t.fbits + t.bias + 1).toNat) * 2 ^ t.fbits
  else (q + t.fbits + t.bias).toNat * 2 ^ t.fbits + (n - 2 ^ t.fbits)

/-- Result of an overflow by mode and sign (R119). -/
def overflowTo (t : Fmt) (mode : Nat) (neg : Bool) : Nat :=
  if mode = 2 ∨ (mode = 3 ∧ neg) ∨ (mode = 4 ∧ !neg) then maxBits t neg
  else if t.ieee then infBits t neg else canonNan t

/-- round(x, fmt, mode) of x = (-1)^neg m 2^e, m positive (R119). -/
def roundFin (t : Fmt) (mode : Nat) (neg : Bool) (m : Nat) (e : Int) : Nat × FFlags :=
  let top : Int := (m.log2 : Int) + e
  let emin : Int := 1 - t.bias
  let q : Int := max top emin - t.fbits
  let (n, r, d) := scaleTo m e q
  let k := roundMag mode neg n r d
  let (n', r', d') := scaleTo m e (top - t.fbits)
  let k' := roundMag mode neg n' r' d'
  let tiny : Bool := decide (top < emin) && !(decide (top + 1 = emin) && k' == 2 ^ (t.fbits + 1))
  let mag := packMag t k q
  if maxBits t false < mag then (overflowTo t mode neg, flagOfNx)
  else (signBit t neg + mag, if r = 0 then noFlags else if tiny then flagUfNx else flagNx)

/-- round of any value (R119). -/
def roundVal (t : Fmt) (mode : Nat) (x : FVal) : Nat × FFlags :=
  match x with
  | .nan sn => (canonNan t, if sn then flagNv else noFlags)
  | .inf neg => if t.ieee then (infBits t neg, noFlags) else (canonNan t, flagNv)
  | .zero neg => (signBit t neg, noFlags)
  | .fin neg m e => roundFin t mode neg m e

/-- A conversion with SAT: overflow and infinities give the largest finite value (R120). -/
def roundSat (t : Fmt) (mode : Nat) (x : FVal) : Nat × FFlags :=
  match x with
  | .inf neg => (maxBits t neg, flagOfNx)
  | .fin neg m e =>
    let r := roundFin t mode neg m e
    if r.2.of then (maxBits t neg, r.2) else r
  | .nan sn => (canonNan t, if sn then flagNv else noFlags)
  | .zero neg => (signBit t neg, noFlags)

/-- Any signalling NaN among values. -/
def anySnan (xs : List FVal) : Bool := xs.any fun x => x == .nan true

/-- Any NaN among values. -/
def anyNan (xs : List FVal) : Bool := xs.any fun x => match x with | .nan _ => true | _ => false

/-- The canonical NaN of an operation with a NaN operand: NV for a signalling one (R114, R125). -/
def nanResult (t : Fmt) (xs : List FVal) : Nat × FFlags := (canonNan t, if anySnan xs then flagNv else noFlags)

/-- The canonical NaN of an invalid operation (R125). -/
def invalidResult (t : Fmt) : Nat × FFlags := (canonNan t, flagNv)

/-- Change the sign of a value. -/
def negVal (x : FVal) : FVal :=
  match x with
  | .nan s => .nan s
  | .inf n => .inf !n
  | .zero n => .zero !n
  | .fin n m e => .fin (!n) m e

/-- Sign of a value that is no NaN. -/
def valNeg (x : FVal) : Bool :=
  match x with
  | .nan _ => false
  | .inf n => n
  | .zero n => n
  | .fin n _ _ => n

/-- The signed integer (-1)^neg m. -/
def signedInt (neg : Bool) (m : Nat) : Int := if neg then -(m : Int) else m

/-- The exact value of a signed integer times 2^e; zero takes the given sign. -/
def valOfInt (i : Int) (e : Int) (zneg : Bool) : FVal :=
  if i = 0 then .zero zneg else .fin (decide (i < 0)) i.natAbs e

/-- Exact sum of two values that are no NaN; opposite infinities have none. An exact zero of opposite signs is +0, or −0
under RD (R119). -/
def sumVal (mode : Nat) (a b : FVal) : Option FVal :=
  match a, b with
  | .inf x, .inf y => if x = y then some (.inf x) else none
  | .inf x, _ => some (.inf x)
  | _, .inf y => some (.inf y)
  | .zero x, .zero y => some (.zero (if x = y then x else mode == 4))
  | .zero _, y => some y
  | x, .zero _ => some x
  | .fin n1 m1 e1, .fin n2 m2 e2 =>
    let e := min e1 e2
    some (valOfInt (signedInt n1 (m1 * 2 ^ (e1 - e).toNat) + signedInt n2 (m2 * 2 ^ (e2 - e).toNat)) e (mode == 4))
  | _, _ => none

/-- Exact product of two values that are no NaN; infinity times zero has none. -/
def mulVal (a b : FVal) : Option FVal :=
  let neg := valNeg a != valNeg b
  match a, b with
  | .inf _, .zero _ => none
  | .zero _, .inf _ => none
  | .inf _, _ => some (.inf neg)
  | _, .inf _ => some (.inf neg)
  | .zero _, _ => some (.zero neg)
  | _, .zero _ => some (.zero neg)
  | .fin _ m1 e1, .fin _ m2 e2 => some (.fin neg (m1 * m2) (e1 + e2))
  | _, _ => none

/-- FADD of two patterns (R125, R141). -/
def faddBits (t : Fmt) (mode : Nat) (x y : FVal) : Nat × FFlags :=
  if anyNan [x, y] then nanResult t [x, y]
  else match sumVal mode x y with
    | some r => roundVal t mode r
    | none => invalidResult t

/-- FMUL of two values (R125, R141). -/
def fmulBits (t : Fmt) (mode : Nat) (x y : FVal) : Nat × FFlags :=
  if anyNan [x, y] then nanResult t [x, y]
  else match mulVal x y with
    | some r => roundVal t mode r
    | none => invalidResult t

/-- FFMA of three values: one rounding; infinity times zero is invalid even beside a quiet NaN (R125, R141). -/
def ffmaBits (t : Fmt) (mode : Nat) (x y z : FVal) : Nat × FFlags :=
  if anyNan [x, y] then nanResult t [x, y, z]
  else match mulVal x y with
    | none => invalidResult t
    | some p =>
      if anyNan [z] then nanResult t [z]
      else match sumVal mode p z with
        | some r => roundVal t mode r
        | none => invalidResult t

/-- FDIV of two values, correctly rounded (R125, R143). -/
def fdivBits (t : Fmt) (mode : Nat) (x y : FVal) : Nat × FFlags :=
  if anyNan [x, y] then nanResult t [x, y]
  else
    let neg := valNeg x != valNeg y
    match x, y with
    | .inf _, .inf _ => invalidResult t
    | .zero _, .zero _ => invalidResult t
    | .inf _, _ => (infBits t neg, noFlags)
    | _, .inf _ => (signBit t neg, noFlags)
    | .zero _, _ => (signBit t neg, noFlags)
    | _, .zero _ => (infBits t neg, flagDz)
    | .fin _ m1 e1, .fin _ m2 e2 =>
      let sh := m2.log2 + t.fbits + 4
      let n := m1 * 2 ^ sh
      roundFin t mode neg (2 * (n / m2) + (if n % m2 = 0 then 0 else 1)) (e1 - e2 - sh - 1)
    | _, _ => invalidResult t

/-- Integer square root by bits from `n` down. -/
def isqrt (x n r : Nat) : Nat :=
  match n with
  | 0 => r
  | n + 1 => if (r + 2 ^ n) * (r + 2 ^ n) ≤ x then isqrt x n (r + 2 ^ n) else isqrt x n r

/-- FSQRT of a value, correctly rounded; FSQRT(−0) is −0 (R125, R143). -/
def fsqrtBits (t : Fmt) (mode : Nat) (x : FVal) : Nat × FFlags :=
  match x with
  | .nan _ => nanResult t [x]
  | .zero n => (signBit t n, noFlags)
  | .inf n => if n then invalidResult t else (infBits t false, noFlags)
  | .fin n m e =>
    if n then invalidResult t
    else
      let sh := 2 * (t.fbits + 3) + (if e % 2 = 0 then 0 else 1)
      let y := m * 2 ^ sh
      let r := isqrt y (y.log2 / 2 + 2) 0
      roundFin t mode false (2 * r + (if r * r = y then 0 else 1)) ((e - sh) / 2 - 1)

/-- Strictly less, of values that are no NaN; −0 equals +0. -/
def ltVal (a b : FVal) : Bool :=
  match a, b with
  | .nan _, _ => false
  | _, .nan _ => false
  | .inf x, .inf y => x && !y
  | .inf x, _ => x
  | _, .inf y => !y
  | .zero _, .zero _ => false
  | .zero _, .fin n _ _ => !n
  | .fin n _ _, .zero _ => n
  | .fin n1 m1 e1, .fin n2 m2 e2 =>
    let e := min e1 e2
    decide (signedInt n1 (m1 * 2 ^ (e1 - e).toNat) < signedInt n2 (m2 * 2 ^ (e2 - e).toNat))

/-- FMIN and FMAX of two patterns (R142). -/
def fminmaxBits (t : Fmt) (isMax : Bool) (x y : Nat) : Nat × FFlags :=
  let a := fval t x
  let b := fval t y
  let nv := if anySnan [a, b] then flagNv else noFlags
  match a, b with
  | .nan _, .nan _ => (canonNan t, nv)
  | .nan _, _ => (y, nv)
  | _, .nan _ => (x, nv)
  | .zero n, .zero m => (signBit t (if isMax then n && m else n || m), nv)
  | _, _ => (if ltVal a b != isMax then x else y, nv)

/-- Round a value to an integer by mode: the integer and whether it was inexact (R121, R144). -/
def toInt (mode : Nat) (x : FVal) : Int × Bool :=
  match x with
  | .fin neg m e =>
    let (n, r, d) := scaleTo m e 0
    (signedInt neg (roundMag mode neg n r d), r != 0)
  | _ => (0, false)

/-- Wrap an integer to `w` bits. -/
def wrapInt (w : Nat) (i : Int) : Nat := (i % (2 ^ w : Nat)).toNat

/-- Lowest and highest value of an integer type of `w` bits. -/
def intLo (w : Nat) (signed : Bool) : Int := if signed then -(2 ^ (w - 1) : Nat) else 0
def intHi (w : Nat) (signed : Bool) : Int := if signed then (2 ^ (w - 1) : Nat) - 1 else (2 ^ w : Nat) - 1

/-- The nearest end of a range, or the value inside it. -/
def clampInt (w : Nat) (signed : Bool) (i : Int) : Int := max (intLo w signed) (min (intHi w signed) i)

/-- Rounding to an integer type (R121). -/
def floatToInt (w : Nat) (signed sat : Bool) (mode : Nat) (x : FVal) : Nat × FFlags :=
  match x with
  | .nan _ => (0, flagNv)
  | .inf neg => (if sat then wrapInt w (if neg then intLo w signed else intHi w signed) else 0, flagNv)
  | .zero _ => (0, noFlags)
  | .fin _ _ _ =>
    let (i, inexact) := toInt mode x
    if intLo w signed ≤ i ∧ i ≤ intHi w signed then (wrapInt w i, if inexact then flagNx else noFlags)
    else (wrapInt w (if sat then clampInt w signed i else i), flagNv)

/-- FRND: the integral value nearest in the direction of a mode, in the same format; only NV is ever set (R144). -/
def frndBits (t : Fmt) (mode : Nat) (x : Nat) : Nat × FFlags :=
  match fval t x with
  | .nan sn => (canonNan t, if sn then flagNv else noFlags)
  | .inf _ => (x, noFlags)
  | .zero _ => (x, noFlags)
  | .fin neg m e => ((roundVal t 1 (valOfInt (toInt mode (.fin neg m e)).1 0 neg)).1, noFlags)

/-- FCLASS: one of bits 0 to 9 (R144). -/
def fclassBits (t : Fmt) (x : Nat) : Nat :=
  match fval t x with
  | .nan sn => if sn then 2 ^ 8 else 2 ^ 9
  | .inf neg => if neg then 1 else 2 ^ 7
  | .zero neg => if neg then 2 ^ 3 else 2 ^ 4
  | .fin neg _ _ =>
    if isSubnormal t x then (if neg then 2 ^ 2 else 2 ^ 5) else if neg then 2 else 2 ^ 6

/-- Widen an f32 pattern to f64 exactly; a NaN becomes the canonical NaN only where an operation says so (R50). -/
def widen32 (x : Nat) : Nat :=
  let s := x / 2 ^ 31 % 2
  match fval f32 x with
  | .nan _ => s * 2 ^ 63 + 2047 * 2 ^ 52 + x % 2 ^ 23 * 2 ^ 29
  | v => (roundVal f64 1 v).1

/-- Value of an E5M4 scale: 0, or m 2^e (R116). -/
def scaleVal (x : Nat) : FVal :=
  let e := x / 16 % 32
  if e = 0 then .zero false else .fin false (16 + x % 16) ((e : Int) - 19)

/-- Encoding a value to E5M4: always RNE over 0 and the normal values (R118). -/
def scaleEnc (x : FVal) : Nat × FFlags :=
  match x with
  | .nan _ => (0, flagNv)
  | .zero _ => (0, noFlags)
  | .inf neg => if neg then (0, flagNv) else (0x1FF, flagOfNx)
  | .fin neg m e =>
    if neg then (0, flagNv)
    else
      let top : Int := (m.log2 : Int) + e
      if top < -15 then (0, flagUfNx)
      else if top < -14 then (0x010, flagUfNx)
      else
        let (n, r, d) := scaleTo m e (top - 4)
        let k := roundMag 1 false n r d
        let code : Nat := if k = 32 then (top + 1 + 15).toNat * 16 else (top + 15).toNat * 16 + (k - 16)
        if 0x1FF < code ∨ (code = 0x1FF ∧ n = 31 ∧ r ≠ 0) then (0x1FF, flagOfNx)
        else (code, if r = 0 then noFlags else flagNx)

/-- Magnitudes of q4 in units of 1/256 (R115). -/
def q4Level (i : Nat) : Nat := [11, 33, 55, 80, 107, 139, 181, 256].getD i 0

/-- Exact value of a 4-bit code in a format: 0 q4, 1 h4, 2 s4 (R115, R148). -/
def nibbleVal (fmt c : Nat) : FVal :=
  let sgn : Int := if c % 16 < 8 then c % 16 else (c % 16 : Nat) - 16
  match fmt with
  | 0 => .fin (c % 16 / 8 == 1) (q4Level (c % 8)) (-8)
  | 1 => valOfInt (2 * sgn + 1) (-1) false
  | _ => valOfInt sgn 0 false

/-- The 4-bit code that QENC chooses (R122), with the flags of R122. -/
def nibbleEnc (fmt : Nat) (x : FVal) : Nat × FFlags :=
  match x with
  | .nan _ => (0, flagNv)
  | _ =>
    match fmt with
    | 2 =>
      let i : Int := match x with
        | .inf neg => if neg then -8 else 7
        | _ => max (-8) (min 7 (toInt 1 x).1)
      (wrapInt 4 i, if x == nibbleVal 2 (wrapInt 4 i) then noFlags
        else if ltVal x (valOfInt i 0 false) || ltVal (valOfInt i 0 false) x then flagNx else noFlags)
    | _ =>
      let neg := valNeg x
      let code (j : Nat) : Nat := if fmt = 0 then (if neg then 8 + j else j) else (if neg then 15 - j else j)
      let lev (j : Nat) : FVal := match nibbleVal fmt (code j) with
        | .fin _ m e => .fin false m e
        | v => v
      let mag : FVal := match x with
        | .fin _ m e => .fin false m e
        | .inf _ => .inf false
        | _ => .zero false
      -- the highest level whose lower midpoint does not exceed the magnitude
      let mid (j : Nat) : FVal := match sumVal 1 (lev j) (lev (j - 1)) with
        | some (.fin n m e) => .fin n m (e - 1)
        | _ => .zero false
      let j := ((List.range 8).filter fun j => j == 0 || !ltVal mag (mid j)).foldl max 0
      (code j, if ltVal mag (lev j) || ltVal (lev j) mag then flagNx else noFlags)

end Sys2Proof.Machine
end

