-- ==== Sys2Proof/Machine/UnitTypes.lean ====
section
/-! DEFINITION. The state of the units around the gangs: caches, park stores, copy engines, multicast groups, matrix queues,
the col network, the dispatcher, domain units, tiers, links, the security island, the ports and the management core. -/

namespace Sys2Proof.Machine

/-- A line held in a cache (R170, R171, R351): its bytes, whether it is dirty or poisoned, its frame's world. -/
structure CacheLine where
  data  : Line
  dirty : Bool
  poison : Bool
  world : BitVec 16
  /-- domain and basin policy of the leaf that filled it (R351, R343) -/
  dom   : Nat
  basin : Nat
  deriving DecidableEq, Repr

/-- A cached translation (R177): a micro-TLB entry of a core, or an entry of a sector's translation cache. -/
structure TlbEntry where
  sector : Bool
  unit   : Nat
  world  : BitVec 16
  asid   : BitVec 16
  /-- virtual base and bytes of the page; frame base -/
  va     : Nat
  size   : Nat
  pa     : Nat
  /-- word 0 of the leaf (R174) -/
  leaf   : W64
  deriving DecidableEq, Repr

/-- A write of a unit that does not wait for it, still to be performed at its line's home (R107, R229). -/
structure Post where
  pa    : Nat
  bytes : List Byte
  world : BitVec 16
  deriving DecidableEq, Repr

/-- Caches and translation (R170 to R179, R351 to R358). -/
structure Caches where
  /-- L1 line of core c at key 2^50 c + PA / 64 -/
  l1     : Tab CacheLine
  /-- L2 line of slice n (48 die + slice) at key 2^50 n + PA / 64 -/
  l2     : Tab CacheLine
  /-- read-only replica in sector c at key 2^50 c + PA / 64 (R357) -/
  replicas : Tab Unit
  /-- basin line at key PA / 64 -/
  basin  : Tab CacheLine
  /-- set filter bits of bank b of stack s at key 16384 (8 s + b) + bit (R352) -/
  filter : Tab Unit
  misses : Tab Nat
  /-- poisoned lines of HBM and the tier, at key PA / 64 (R397) -/
  poison : Tab Unit
  tlb    : List TlbEntry
  /-- an invalidation in progress: dies, world, ASID, VA, size (R179) -/
  inval  : Option (Nat × BitVec 16 × BitVec 16 × W64 × Nat)
  /-- urgent services in a row of a channel controller or a basin bank, at 40 x stack + its number (R354) -/
  urgents : Tab Nat
  /-- first-touch entries of die d at key 2^40 d + region: the slice (R356) -/
  first  : Tab Nat
  /-- regions homed by HASH because the table of their die was full, at key 2^40 d + region (R356) -/
  turnedAway : Tab Unit
  /-- regions being released, by die (R356) -/
  firstRel : List (Nat × Nat)
  /-- chip plain byte o of die d at key 2^26 d + o; unlisted 0 (R360) -/
  plain  : List Host.Cell
  /-- posted writes by physical address that their lines' homes have not taken, oldest first (R107, R229) -/
  posts  : List Post
  deriving DecidableEq, Repr

/-- An open park record (R233, R234). -/
structure ParkRec where
  die   : Nat
  ring  : Nat
  world : BitVec 16
  asid  : BitVec 16
  page  : W64
  cause : Cause
  since : Nat
  count : Nat
  cores : BitVec 72
  spilled : Bool
  hub   : Bool
  pa    : Nat
  ctx   : Nat
  deriving DecidableEq, Repr

/-- Park stores and releases (R230 to R237). -/
structure Parks where
  nextSeq : Nat
  records : List ParkRec
  /-- parked requests whose record opens when one of 1,024 closes, with cause and whether spilled (R233) -/
  waiting : List (Nat × Cause × Bool)
  /-- requests a release took that are not yet performed or parked again (R236) -/
  replay  : List Nat
  /-- the context that a cancel in progress destroys, and whether that is done and only its STATE is still to be written (R237) -/
  cancel  : Option (Nat × Bool)
  deriving DecidableEq, Repr

/-- A pad or memory hull held by a range lock (R268). -/
structure Hull where
  space : Space
  world : BitVec 16
  asid  : BitVec 16
  block : Nat
  lo    : Nat
  hi    : Nat
  deriving DecidableEq, Repr

/-- The range of a round (R278). -/
structure Range where
  va  : W64
  len : Nat
  ctl : Nat
  ext : List Nat
  str : List Int
  deriving DecidableEq, Repr

/-- What an engine command is (R265, R266, R279, R280). -/
inductive CmdKind where
  | copy
  | groupFill
  | gput
  deriving DecidableEq, Repr

/-- One engine command in a copy queue (R260 to R270). -/
structure Cmd where
  kind  : CmdKind
  gang  : Nat
  /-- gangs in whose program order it precedes what they issue next (R213) -/
  before : List Nat
  /-- its access on path 3 (R261) -/
  access : Nat
  block : Nat
  core  : Nat
  ssp   : Space
  dsp   : Space
  src   : W64
  dst   : W64
  esz   : Nat
  ext   : List Nat
  str   : List Int
  side  : Bool
  total : Nat
  bar   : Option Nat
  arr   : Bool
  stamp : Option W64
  /-- the follow-on MMAT's words and operands, and its batch (R266, R267) -/
  follow : Option (List W32 × List W32 × W32)
  locks : List Hull
  /-- group-table key, the barrier of a push's receivers, and blocks or commands still to be served (R279, R280) -/
  group : Nat
  rbar  : Nat
  /-- range of a group load's ask (R278) -/
  range : Option Range
  waiting : List Nat
  acks  : List Nat
  /-- bytes read and not yet written, by position in the dense order -/
  buf   : List Host.Cell
  /-- positions whose destination byte is performed -/
  landed : Nat
  started : Bool
  barDone : Bool
  stampDone : Bool
  /-- completed: it stays only for its follow-on (R267, R269) -/
  done : Bool
  /-- the hub's copy unit for a graph node: instance and node, and their context -/
  node  : Option (Nat × Nat)
  ctx   : Nat := 0
  refused : Bool
  /-- its instruction has set PADR (R166) -/
  padr  : Bool := false
  /-- the command whose merged fill a straggler's read comes after (R225) -/
  after : Option Nat := none
  deriving DecidableEq, Repr

/-- The open round of a group (R278): asks by command, who is served, whether triggered, cycles left of the timer. -/
structure Round where
  range : Range
  asks  : List Nat
  served : List Nat
  triggered : Bool
  timer : Option Nat
  deriving DecidableEq, Repr

/-- A group-table entry (R275). -/
structure Group where
  ctx   : Nat
  id    : BitVec 16
  count : Nat
  members : List Nat
  left  : Nat
  round : Option Round
  /-- asks held until the open round closes (R278) -/
  held  : List Nat
  deriving DecidableEq, Repr

/-- A matrix queue entry (R291, R293, R295). -/
structure MatEntry where
  id    : Nat
  gang  : Nat
  /-- gangs in whose program order it precedes what they issue next (R213) -/
  before : List Nat
  block : Nat
  batch : W32
  op    : Nat
  f     : Lane
  /-- operands read at issue: pad offsets and stride, bitmap, or MOUT scale -/
  x     : W64
  y     : W64
  z     : W64
  deriving DecidableEq, Repr

/-- State of a directory entry (R305). -/
inductive DirState where
  | home
  | leaving (handoff : Nat)
  | arriving (handoff : Nat)
  deriving DecidableEq, Repr

/-- A solicit directory entry (R305). -/
structure DirEntry where
  key    : W64
  handle : W64
  entry  : W64
  ctx    : Nat
  st     : DirState
  deriving DecidableEq, Repr

/-- A match waiting for a responder (R313). -/
structure Match where
  census : Nat
  ctx    : Nat
  key    : W64
  handle : W64
  entry  : W64
  query  : W64
  counted : Nat
  deferred : Bool
  deriving DecidableEq, Repr

/-- An entry on its way to another core (R307). -/
structure Handoff where
  gang  : Nat
  access : Nat
  ctx   : Nat
  src   : Nat
  srcIx : Nat
  dst   : Nat
  dstIx : Option Nat
  departed : Bool
  installed : Bool
  freed : Bool
  attached : List Match
  /-- censuses whose broadcast passed the departure node before the entry departed (R307, R314) -/
  behind : List Nat
  /-- when the entry departed, and the handoff that brought it to its source, while that has not freed its own source (R307, R314) -/
  left : Nat := 0
  prev : Option Nat := none
  /-- the next place in the root's order of censuses when DIRMOV's status was written (R301) -/
  told : Option Nat := none
  deriving DecidableEq, Repr

/-- A response on its way up: the core that counted it, its fields, whether it is empty, and the gang and access number whose
earlier accesses it releases (R315, R316, R226). -/
structure Response where
  counted : Nat
  fields : List W32
  empty  : Bool
  gang   : Nat
  bound  : Nat
  deriving DecidableEq, Repr

/-- A census (R311 to R319). -/
structure Census where
  gang   : Nat
  block  : Nat
  core   : Nat
  launch : Nat
  ctx    : Nat
  world  : BitVec 16
  key    : W64
  ctrl   : W64
  query  : W64
  result : W64
  timeout : W64
  issued : Nat
  /-- its place in the order in which the root gave out ids -/
  order  : Nat
  lateSent : Bool
  /-- cores the broadcast has still to reach; cores that have reported -/
  toReach : List Nat
  reported : List Nat
  counted : Nat
  responded : Nat
  /-- responses on their way up -/
  pending : List Response
  /-- partial results: responses combined, with COUNT and FIRST by field -/
  fields : List W32
  any    : Bool
  combined : Nat
  complete : Bool
  consumed : Bool
  /-- its block retired: free the id at completion (R318) -/
  orphan : Bool
  deriving DecidableEq, Repr

/-- A SOLICIT on its way to the root (R311). -/
structure Ask where
  gang   : Nat
  access : Nat
  census : Census
  deriving DecidableEq, Repr

/-- Context states (R229). -/
inductive CtxState where
  | idle | resident | saving | saved | restoring | cancelled
  deriving DecidableEq, Repr

/-- What the device holds of a context from its descriptor (R229). -/
structure Ctx where
  root   : Nat
  asid   : BitVec 16
  world  : BitVec 16
  trapv  : W64
  parkth : Nat
  evr    : Nat
  save   : W64
  saveSz : Nat
  poolBase : W64
  poolSize : Nat
  st     : CtxState
  /-- the last PARKTH check exceeded the threshold (R239) -/
  past   : Bool
  /-- switched out by PARKTH: eligible once a release replays one of its requests (R239) -/
  needsReplay : Bool
  /-- cores whose blocks are in the image, uids of the saved blocks -/
  saved  : List Nat
  deriving DecidableEq, Repr

/-- A launch the dispatcher has accepted (R323 to R330). -/
structure Launch where
  queue  : Nat
  slotSeq : Nat
  ctx    : Nat
  entry  : W64
  args   : W64
  x : Nat
  y : Nat
  z : Nat
  sx : Nat
  sy : Nat
  sz : Nat
  size   : Nat
  team   : Bool
  regs   : Nat
  gangs  : Nat
  pad    : Nat
  acc    : Nat
  copyq  : Nat
  zpriv  : Nat
  dies   : Nat
  done   : Option W64
  yieldw : Option W64
  prio   : Nat
  /-- units placed, blocks retired, uids of its blocks -/
  placed : Nat
  retired : Nat
  uids   : List Nat
  /-- graph instance and node that started it -/
  node   : Option (Nat × Nat)
  /-- regions that the L1s of its cores discard before a block of it starts (R227) -/
  regions : List (W64 × Nat)
  /-- a GRAPH record -/
  graph  : Bool
  deriving DecidableEq, Repr

/-- States of a graph node (R334). -/
inductive NodeState where
  | waiting | running | done | skipped
  deriving DecidableEq, Repr

/-- A graph instance (R334, R335), keyed by the launch number of its GRAPH record. -/
structure Graph where
  header : W64
  nodes  : W64
  nn     : Nat
  ne     : Nat
  edges  : W64
  /-- work area, 16 bytes a node (R333) -/
  work   : W64
  done   : Option W64
  started : Bool
  node   : Tab NodeState
  /-- incoming edges of a node that are resolved, and those of them that are taken -/
  seen   : Tab Nat
  taken  : Tab Nat
  /-- regions that the taken edges of a node list: base and length (R227) -/
  regions : Tab (List (W64 × Nat))
  /-- LOOP nodes under way; their trip counts stand in the work area -/
  looping : Tab Unit
  held   : Bool
  deriving DecidableEq, Repr

/-- An open yield request (R332). -/
structure YieldReq where
  queue  : Nat
  victim : Nat
  /-- cycle of the request, and YDEAD as it stood then -/
  since  : Nat
  limit  : Nat
  /-- its outcome was reported -/
  late   : Bool
  /-- gangs that were asked, and the cycle of the last acknowledgement so far -/
  asked  : List Nat := []
  last   : Nat := 0
  deriving DecidableEq, Repr

/-- Dispatcher (R323 to R335). -/
structure Disp where
  nextLaunch : W32
  launches : Tab Launch
  graphs : Tab Graph
  /-- core of the last placement (R330) -/
  cursor : Nat
  /-- queue served last, by priority (R328) -/
  rr     : Tab Nat
  yields : List YieldReq
  /-- graph records that wait for their header's running instance -/
  blocked : List Nat
  /-- launch records received by the hub, in order: gang, access, lane, queue, bytes (R337) -/
  incoming : List (Nat × Nat × Nat × Nat × List Byte)
  /-- contexts switched out, in the order they wait for restore -/
  restore : List Nat
  /-- cycle since which no queue has had a ready head (R389) -/
  idleSince : Nat
  /-- PARKTH checks made so far (R239) -/
  parkChecks : Nat
  deriving DecidableEq, Repr

/-- What the end of a command still has to do: its results and status, then its DONE, then to see that performed (R340). -/
inductive DomStep where
  | results | stamp | over
  deriving DecidableEq, Repr

/-- A die's domain unit (R340 to R344). -/
structure DomUnit where
  /-- how far the end of a command is -/
  step   : DomStep
  /-- the command in progress: context and header of its ring, and its slot (R340) -/
  cmd    : Option (Nat × W64 × W64)
  /-- the DSPLIT in progress: domain, new domain, slices that leave -/
  split  : Option (Nat × Nat × Nat)
  /-- requests routed under the old masks and not yet answered -/
  old    : List Nat
  /-- results of a DSPLIT that has switched its masks, and the accesses whose replay replies RES2 has counted (R343, R348) -/
  res    : List Nat
  counted : List Nat
  /-- the SLWB in progress: slices and lines still to be handled, whether it removes them, and its counts so far (R342) -/
  clean  : Option (List (Nat × Nat) × Bool × Nat × Nat)
  /-- results and status of a command that has executed, still to be written (R340, R346) -/
  ending : Option (List Nat × Nat)
  deriving DecidableEq, Repr

/-- State of a tiered granule (R361). -/
inductive Granule where
  | lower
  | upper (frame : Nat)
  /-- on its way up to a frame, or down from one -/
  | moving (up : Bool) (frame : Nat)
  deriving DecidableEq, Repr

/-- Tiers (R181, R361, R362, R374). -/
structure Tiers where
  /-- granule state at its number in the tier; unlisted LOWER -/
  granules : Tab Granule
  moving : Option Nat
  /-- extents being released and released: base, size, acknowledged -/
  extents : List (Nat × Nat × Bool)
  /-- write counter of a tier line, epoch of a granule (R374) -/
  counters : Tab W32
  epochs : Tab Nat
  resealing : List Nat
  /-- lines that a forced release poisoned, at key PA / 64 (R362) -/
  forced : Tab Unit
  deriving DecidableEq, Repr

/-- A sent flit: its counter, its world, the request it carries or none for an answer, its routing and payload before they are sealed,
and its bits (R363, R375, R376). -/
structure Flit where
  counter : W64
  world   : BitVec 16
  req     : Option Nat
  plain   : List Byte
  bytes   : List Byte
  deriving DecidableEq, Repr

/-- One scale-up link (R363, R375, R376). -/
structure LinkSt where
  down   : Bool
  /-- 0 UP, 1 SEALFAIL, 2 unkeyed -/
  sealSt : Nat
  /-- resends in a row of the flit at the head of the buffer, the oldest that the other end has not accepted; 17 once the sixteenth has
  failed too -/
  tries  : Nat
  sendCtr : W64
  recvCtr : W64
  /-- link sequence of the next flit, and how often the link has been keyed (R363, R375) -/
  seq    : W32
  keying : Nat
  /-- sent flits that the other end has not accepted, oldest first (R363) -/
  buffer : List Flit
  /-- requests in flits that it has accepted, still to be answered (R220) -/
  awaiting : List Nat
  deriving DecidableEq, Repr

/-- State of a world (R365, R381). -/
inductive WorldState where
  | active | pending | gone | lost
  deriving DecidableEq, Repr

/-- A world (R365, R370, R378). -/
structure World where
  st     : WorldState
  keyHash : BitVec 512
  wmr    : BitVec 512
  policy : W64
  /-- session whose COMMIT a PENDING world awaits; tombstone's transcript of a GONE world (R381) -/
  session : BitVec 512
  /-- handles of its tier and scale-up keys (R370) -/
  tierKey : Option W32
  linkKey : Option W32
  /-- the tombstone of a GONE world has been acknowledged (R381) -/
  acked  : Bool
  deriving DecidableEq, Repr

/-- Binding of a context (R367). -/
structure CtxBind where
  world  : BitVec 16
  root   : W64
  debug  : Bool
  parkth : Byte
  deriving DecidableEq, Repr

/-- A key slot in use (R369). -/
structure KeySlot where
  usage  : KeyUsage
  owner  : BitVec 16
  key    : List Byte
  deriving DecidableEq, Repr

/-- An Ethernet secure association (R372, R385). -/
structure EthSa where
  port   : Nat
  index  : Nat
  receive : Bool
  handle : W32
  world  : BitVec 16
  pn     : W64
  window : Nat
  sci    : W64
  an     : BitVec 2
  queue  : Nat
  deriving DecidableEq, Repr

/-- A namespace binding (R373). -/
structure NsBind where
  world  : BitVec 16
  drive  : Nat
  nsid   : W32
  handle : W32
  unit4096 : Bool
  deriving DecidableEq, Repr

/-- The security island (R365 to R382). -/
structure Island where
  worlds : Tab World
  /-- world of each host core; unlisted 0 -/
  hosts  : Tab (BitVec 16)
  /-- owner of each 64 KiB frame at PA / 65536; unlisted 0 (R366) -/
  frames : Tab (BitVec 16)
  binds  : Tab CtxBind
  slots  : Tab KeySlot
  gens   : Tab (BitVec 12)
  mregs  : Tab (BitVec 512)
  sas    : List EthSa
  nsBinds : List NsBind
  /-- SPDM sessions: number, peer, finished, key phase (R379) -/
  sessions : List (Nat × SpdmPeer × Bool × Nat)
  nextSession : Nat
  /-- negotiated on the management path: version, capabilities, algorithms (R379) -/
  spdmState : Nat
  /-- host core whose SLEEP_PREP runs (R382) -/
  preparing : Option (BitVec 5)
  /-- key of the frame ownership table, and the wrapping key in retention SRAM, each named by the boot that made it (R382) -/
  tableKey : Option Nat
  retention : Option Nat
  /-- SLEEP_PREP has run and the store is wrapped, under which key (R382) -/
  wrapped : Bool
  wrappedBy : Option Nat
  /-- what the wrapped store holds: key slots, the table's key and tier epochs, which nothing can use until it is unwrapped (R382) -/
  wrappedSlots : Tab KeySlot
  wrappedTable : Option Nat
  wrappedEpochs : Tab Nat
  /-- place of the tier's metadata area, set at boot (R374, R378), and how many boots there have been, each with its device key -/
  tierArea : W64
  boots    : Nat
  deriving DecidableEq, Repr

/-- A request at a drive (R387). -/
structure DriveReq where
  port   : Nat
  queue  : Nat
  slot   : Nat
  /-- the ring that it was taken from: base, slots and world -/
  base   : Nat
  size   : Nat
  world  : BitVec 16
  bytes  : List Byte
  deriving DecidableEq, Repr

/-- One side's sequence state of a mailbox (R390). -/
structure Mailbox where
  /-- highest contiguous sequence received, next sequence to send, highest of ours acknowledged -/
  got    : W32
  next   : W32
  acked  : W32
  /-- accepted doorbells whose requests are not all taken, oldest first: the last request that each named and the world it was written
  in (R391, R392) -/
  bells  : List (W32 × BitVec 16)
  /-- world of the last request taken (R392) -/
  world  : BitVec 16
  /-- last request beyond the one that follows that was answered under the oldest doorbell (R390) -/
  scanned : Option W32
  /-- replies that their slots' homes have not taken, oldest first: world of the command and message (R391, R392) -/
  replies : List (BitVec 16 × List Byte)
  deriving DecidableEq, Repr

/-- An input that waits for lines of memory that it touches: a received frame of a port, a drive's completion (R385, R387). -/
inductive LateIn where
  | frame (port : Nat) (frame : FrameIn)
  | drive (tag : Nat) (status : BitVec 16) (cdw0 : W32) (data : List Byte)
  deriving DecidableEq, Repr

/-- Ports and management (R383 to R399). -/
structure Mgmt where
  power  : PowerState
  booted : Bool
  recovery : Bool
  /-- x16 ports 2 and 3 in PCIe mode, fixed at boot (R383) -/
  pcie    : BitVec 2
  mailbox : Mailbox
  /-- the sequences on the management pins or connector (R391) -/
  pins    : Mailbox
  /-- mailboxes of the island, by host core -/
  island : Tab Mailbox
  /-- CE and UE counters by unit id (R398) -/
  ce     : Tab W32
  ue     : Tab W32
  /-- unit ids halted by a control error (R397) -/
  halted : List Nat
  beats  : Nat
  drives : Tab DriveReq
  /-- storage requests completed out of order: port, queue, slot sequence -/
  finished : List (Nat × Nat × Nat)
  /-- queues that signalled their host core since TAIL was last written, by their pointer register (R384, R387) -/
  signalled : List SysReg
  /-- inputs that wait for lines of memory they touch, oldest first (R181, R343, R359, R361, R397) -/
  late   : List LateIn
  deriving DecidableEq, Repr

/-- An event record before it has its ring sequence (R393). -/
structure Event where
  source : W32
  seq    : W32
  /-- world of the context that the event is about, 0 for the device's own; the record's layout has no place for it (R366, R393) -/
  world  : BitVec 16
  kind   : Nat
  ring   : Nat
  /-- records of the source lost just before it -/
  lost   : Nat
  payload : List Byte
  deriving DecidableEq, Repr

/-- Event sources (R393). -/
structure Events where
  /-- last source sequence used, by source id -/
  seqs   : Tab W32
  kept   : List Event
  /-- records lost since the last delivered one, by source id -/
  lost   : Tab Nat
  deriving DecidableEq, Repr

/-- A program buffer that runs (R105). -/
structure Stuffing where
  gang   : Nat
  entry  : Nat
  all    : Bool
  /-- entries issued so far, and entries in all -/
  next   : Nat
  count  : Nat
  /-- accesses from this number on are the buffer's -/
  first  : Nat
  latch  : Tab W64
  latchDue : List Nat
  deriving DecidableEq, Repr

/-- What a host core or the management core does to device memory (R201, R218, R221). -/
inductive HostKind where
  | load
  | store
  /-- load-reserved and store-conditional -/
  | lr
  | sc
  | amo (op : RmwOp) (ty : Nat)
  /-- the bytes are compared with the first half of the data and replaced by the second -/
  | cas
  /-- predecessor and successor sets: reads, writes -/
  | fence (predR predW succR succW : Bool)
  deriving DecidableEq, Repr

/-- One access of a host core, 0 to 31, of the management core, 32, or of the device at the other end of link l, 64 + l, then with
the world of its flit, at a physical address (R201, R220, R221). -/
structure HostAcc where
  core : Nat
  peer : Option (BitVec 16)
  kind : HostKind
  pa   : Nat
  len  : Nat
  data : List Byte
  aq   : Bool
  rl   : Bool
  /-- earlier accesses of the core that its address, its data or the branch before it depends on -/
  after : List Nat
  /-- an instruction fetch of another device (R366) -/
  fetch : Bool := false
  /-- the leaf that another device translated its request with; an access without one is homed as R408 says, and its basin policy, which
  is not stated, is NEVER (R174, R351, R408; DESIGN CHOICE, log 10) -/
  leaf : Leaf := { basin := 2, first := false, dom := 0, tier := false, w := true, size := 0 }
  deriving DecidableEq, Repr

/-- What leaves the device. The model keeps it; the spec only says that it is sent. -/
inductive Output where
  /-- a frame sent by a port (R384): sealed or not -/
  | frame (port : Nat) (sealed : Bool) (bytes : List Byte)
  /-- the interrupt controller signals a host core (R384, R391) -/
  | signal (host : Nat)
  /-- an NVMe command with the data sent with it (R387) -/
  | drive (port drive : Nat) (request : List Byte) (data : List Byte)
  /-- a flit on a link (R363) -/
  | flit (link : Nat) (flit : Flit)
  /-- a flit came damaged: its sender is asked for it again (R363, R375) -/
  | resendRequest (link : Nat)
  /-- a reply on the SPDM path (R379) or another message of the island or the management core -/
  | message (code : Nat) (bytes : List Byte)
  /-- a request of the island as SPDM requester, by its code (R379) -/
  | ask (code : Nat)
  /-- a world's frames and keys sent to a migration destination (R381) -/
  | migrated (world : BitVec 16) (image : MigratedWorld)
  /-- the acknowledgement of a dynamic-capacity release (R362) -/
  | extentAck (base : Nat)
  deriving DecidableEq, Repr

end Sys2Proof.Machine
end

