-- ==== Sys2Proof/Machine/State.lean ====
section
/-! DEFINITION. The state of the device, why a step can stop, and the state after reset. -/

namespace Sys2Proof.Machine

/-- Reasons a step faults. -/
inductive Fault where
  /-- Raised by every instruction that a gang issues when the state names no issuing gang, or names one whose gang, block or
  split-table entry is absent: nothing issues on the device then. Safe: no run of the machine reaches it through `step`. -/
  | noIssuingGang
  deriving DecidableEq, Repr

/-- Reasons the model refuses a step. -/
inductive Refusal where
  /-- Raised by the arm of an instruction that has no meaning in the model yet, with its mnemonic. Safe: nothing is claimed. -/
  | notModelled (mnemonic : String)
  deriving DecidableEq, Repr

/-- The state of one K3 device. -/
structure State where
  /-- cycles since device reset (R21, R240) -/
  cycle   : Nat
  /-- free choices made so far (log 1) -/
  tick    : Nat
  /-- inputs and steps still to come, first one next (log 1) -/
  agenda  : List Instr
  /-- gangs that still have their turn in this cycle (R21) -/
  turns   : List Nat
  /-- the instruction being issued -/
  cur     : Option Cur
  /-- bytes at physical addresses: HBM and CXL tier backing (R172) -/
  mem     : List Host.Cell
  /-- gangs at key 32 uid + gang.id, blocks at their uid -/
  gangs   : Tab Gang
  blocks  : Tab Block
  /-- blocks and gangs of saved contexts (R249) -/
  savedGangs  : Tab Gang
  savedBlocks : Tab Block
  /-- outstanding accesses and requests (R193, R206, R230) -/
  accs    : Tab Access
  reqs    : Tab Req
  /-- next number for blocks, accesses, requests and commands -/
  nextId  : Nat
  /-- registers of the system and debug windows that differ from their reset values (R7) -/
  sys     : List (SysReg × W64)
  caches  : Caches
  parks   : Parks
  /-- engine commands in flight (R260) -/
  cmds    : Tab Cmd
  /-- group-table entries at key 64 sector + entry, claims of the hub (R275) -/
  groups  : Tab Group
  claims  : List (Nat × BitVec 16 × Nat)
  /-- matrix queue of each core, head first (R293) -/
  mq      : Tab (List MatEntry)
  /-- directory entry i of core c at key 256 c + i (R305) -/
  dirs    : Tab DirEntry
  /-- solicit queue of each core and matches it holds back (R313) -/
  solicits : Tab (List Match)
  handoffs : Tab Handoff
  censuses : Tab Census
  asks    : List Ask
  nextCensus : Nat
  /-- matches of saved contexts (R320) -/
  deferred : List (Nat × Match)
  disp    : Disp
  ctxs    : Tab Ctx
  dom     : Tab DomUnit
  tiers   : Tiers
  links   : Tab LinkSt
  island  : Island
  mgmt    : Mgmt
  events  : Events
  /-- running program buffers by core (R105) -/
  stuffing : Tab Stuffing
  /-- debug units by core: records numbered so far, slot after the last sampled one, cycle of the last sample (R107) -/
  dbgSeq  : Tab W32
  dbgNext : Tab Nat
  dbgLast : Tab Nat
  /-- accesses of the host cores and the management core still to be performed, in program order of each core; values that performed
  ones returned; line each core's reservation names (R201, R221; log 5) -/
  hostAccs : Tab HostAcc
  hostVals : Tab (List Byte)
  hostResv : Tab Nat
  /-- what has left the device, oldest first -/
  out     : List Output
  deriving DecidableEq, Repr

/-- Caches after reset: nothing held (log 4). -/
def Caches.reset : Caches where
  l1 := []
  l2 := []
  replicas := []
  basin := []
  filter := []
  misses := []
  poison := []
  tlb := []
  inval := none
  urgents := []
  first := []
  turnedAway := []
  firstRel := []
  plain := []
  posts := []

/-- The dispatcher after reset: the next launch number is 1 (R325), the search starts at core 0 (R330). -/
def Disp.reset : Disp where
  nextLaunch := 1
  launches := []
  graphs := []
  cursor := 287
  rr := []
  yields := []
  blocked := []
  incoming := []
  restore := []
  idleSince := 0
  parkChecks := 0

/-- The security island after reset: measurement registers zero (R378), no world, no key (log 4). -/
def Island.reset : Island where
  worlds := []
  hosts := []
  frames := []
  binds := []
  slots := []
  gens := []
  mregs := []
  sas := []
  nsBinds := []
  sessions := []
  nextSession := 1
  spdmState := 0
  preparing := none
  tableKey := some 0
  retention := some 0
  wrapped := false
  wrappedBy := none
  wrappedSlots := []
  wrappedTable := none
  wrappedEpochs := []
  tierArea := 0
  boots := 0

/-- A mailbox after a restart of both sides: sequences from 1 (R390). -/
def Mailbox.reset : Mailbox where
  got := 0
  next := 1
  acked := 0
  bells := []
  world := 0
  scanned := none
  replies := []

/-- Ports and management after reset: power state D0 (R389), counters 0 (log 4). -/
def Mgmt.reset : Mgmt where
  power := .d0
  booted := false
  recovery := false
  pcie := 0
  mailbox := Mailbox.reset
  pins := Mailbox.reset
  island := []
  ce := []
  ue := []
  halted := []
  beats := 0
  drives := []
  finished := []
  signalled := []
  late := []

/-- The device right after reset: no block, no request, every register at its reset value (R7, R21, R325, R330). -/
def State.reset : State where
  cycle := 0
  tick := 0
  agenda := []
  turns := []
  cur := none
  mem := []
  gangs := []
  blocks := []
  savedGangs := []
  savedBlocks := []
  accs := []
  reqs := []
  nextId := 0
  sys := []
  caches := Caches.reset
  parks := { nextSeq := 0, records := [], waiting := [], replay := [], cancel := none }
  cmds := []
  groups := []
  claims := []
  mq := []
  dirs := []
  solicits := []
  handoffs := []
  censuses := []
  asks := []
  nextCensus := 1
  deferred := []
  disp := Disp.reset
  ctxs := []
  dom := []
  tiers := { granules := [], moving := none, extents := [], counters := [], epochs := [], resealing := [], forced := [] }
  links := []
  island := Island.reset
  mgmt := Mgmt.reset
  events := { seqs := [], kept := [], lost := [] }
  stuffing := []
  dbgSeq := []
  dbgNext := []
  dbgLast := []
  hostAccs := []
  hostVals := []
  hostResv := []
  out := []

end Sys2Proof.Machine
end

