-- ==== Sys2Proof/Machine/Regs.lean ====
section
/-! DEFINITION. The register windows: the fields of every register with their access codes (R7), reset values, and reading
and writing them (R108, R180, R255, R282, R329, R347, R364, R376, R386, R388, R391, R392, R395). -/

namespace Sys2Proof.Machine

/-- Access codes of R7; a bit of no listed field is RSV. -/
inductive FieldAccess where
  | rw | ro | w1c | wo
  deriving DecidableEq, Repr

/-- One field: high bit, low bit, access. -/
abbrev RegField := Nat × Nat × FieldAccess

/-- A ring base register: BASE and LOG (R255, R329, R386, R391, R395). -/
def ringFields : List RegField := [(55, 6, .rw), (60, 56, .rw)]

/-- Fields of a register of the debug window by offset (R108). -/
def debugFields (off : Nat) : List RegField :=
  if off = 0x000 then [(4, 0, .rw), (31, 16, .rw)]
  else if off = 0x008 then [(31, 0, .ro), (32, 32, .w1c), (33, 33, .w1c)]
  else if off = 0x010 then [(2, 0, .wo), (7, 3, .rw), (17, 8, .rw), (22, 18, .rw)]
  else if off = 0x018 then [(23, 0, .rw)]
  else if off = 0x020 then [(31, 0, .rw)]
  else if off = 0x028 then [(55, 5, .rw), (60, 56, .rw)]
  else if off = 0x030 then [(31, 0, .ro), (63, 32, .rw)]
  else if 0x040 ≤ off ∧ off < 0x0C0 then
    if off % 16 = 0 then [(63, 0, .rw)] else if off % 16 = 8 then [(2, 0, .rw), (63, 32, .rw)] else []
  else if 0x100 ≤ off ∧ off < 0x200 then
    if off % 16 = 0 ∨ off % 16 = 4 ∨ off % 16 = 8 then [(31, 0, .rw)] else []
  else if off = 0x200 then [(3, 0, .rw), (15, 5, .rw), (16, 16, .wo)]
  else if off = 0x208 then [(15, 0, .ro)]
  else if off = 0x210 ∨ off = 0x218 then [(63, 0, .rw)]
  else []

/-- The fields of a register (R7). -/
def regFields (r : SysReg) : List RegField :=
  match r with
  | .xlinva => [(56, 16, .rw)]
  | .xlinvc => [(37, 0, .rw), (38, 38, .wo)]
  | .xlinvs => [(0, 0, .ro), (1, 1, .w1c)]
  | .devnum => [(12, 0, .rw)]
  | .ctxbase => [(55, 7, .rw)]
  | .pkctl => [(0, 0, .rw), (23, 8, .rw)]
  | .pkspill _ => [(55, 0, .rw)]
  | .pkstat _ => [(12, 0, .ro), (48, 16, .ro), (49, 49, .w1c)]
  | .pksteer _ => [(4, 0, .rw)]
  | .pkringBase _ => ringFields
  | .pkringSeq _ => [(31, 0, .ro), (63, 32, .rw)]
  | .pkop => [(7, 0, .rw), (8, 8, .wo), (9, 9, .rw), (63, 16, .rw)]
  | .pkopva => [(56, 16, .rw)]
  | .pkops => [(0, 0, .ro), (1, 1, .w1c), (63, 32, .ro)]
  | .grptim _ => [(23, 0, .rw)]
  | .grpcnt _ => [(63, 0, .ro)]
  | .lqbase _ => ringFields
  | .lqctl _ => [(11, 0, .rw), (31, 16, .rw)]
  | .lqptr _ => [(31, 0, .rw), (63, 32, .ro)]
  | .ydead => [(31, 0, .rw)]
  | .dcqbase _ => [(60, 6, .rw)]
  | .dcqctl _ => [(0, 0, .rw), (31, 16, .rw)]
  | .dcqstat _ => [(32, 0, .ro)]
  | .basctl _ => [(24, 0, .rw)]
  | .dmemb _ _ => [(47, 0, .rw)]
  | .dhash _ _ _ => [(42, 6, .rw)]
  | .ftrel _ => [(55, 16, .wo)]
  | .ftstat _ => [(47, 0, .ro)]
  | .repctl _ => [(0, 0, .rw)]
  | .pfctl _ => [(0, 0, .rw)]
  | .slspill _ => [(55, 0, .rw)]
  | .slspstat _ => [(31, 0, .ro)]
  | .plaincfg _ => [(4, 0, .rw), (31, 16, .rw)]
  | .tierr _ => [(63, 0, .rw)]
  | .migcmd => [(56, 16, .rw), (57, 57, .wo)]
  | .migframe => [(55, 16, .rw)]
  | .migstat => [(0, 0, .ro), (2, 1, .w1c)]
  | .linkstat _ => [(0, 0, .ro), (31, 16, .ro)]
  | .sealstat _ => [(1, 0, .ro), (31, 16, .ro)]
  | .eqbase _ _ _ => ringFields
  | .eqctl _ _ _ => [(6, 0, .rw), (7, 7, .w1c), (45, 16, .rw)]
  | .eqptr _ _ _ => [(31, 0, .rw), (63, 32, .ro)]
  | .epctl _ => [(6, 0, .rw)]
  | .ecnt0 _ => [(63, 0, .ro)]
  | .ecnt1 _ => [(63, 0, .ro)]
  | .ecnt2 _ => [(63, 0, .ro)]
  | .sqbase _ _ => ringFields
  | .sqctl _ _ => [(6, 0, .rw), (7, 7, .w1c), (31, 16, .rw)]
  | .sqptr _ _ => [(31, 0, .rw), (63, 32, .ro)]
  | .scnt _ => [(63, 0, .ro)]
  | .mbqbase => ringFields
  | .mbrbase => ringFields
  | .mbdb => [(31, 0, .rw), (63, 32, .ro)]
  | .mbctl => [(6, 0, .rw)]
  | .ibqbase _ => ringFields
  | .ibrbase _ => ringFields
  | .ibdb _ => [(31, 0, .rw), (63, 32, .ro)]
  | .ibctl _ => [(6, 0, .rw), (7, 7, .w1c)]
  | .evringBase _ => ringFields
  | .evringSeq _ => [(31, 0, .ro), (63, 32, .rw)]
  | .evsys => [(4, 0, .rw)]
  | .debug _ off => debugFields off

/-- The value after device reset (the Reset columns). -/
def regReset (r : SysReg) : W64 :=
  match r with
  | .pkctl => 0x40000
  | .pksteer i => BitVec.ofNat 64 (i % 32)
  | .grptim _ => 0x1000
  | .ydead => 0x10000
  | .dcqstat _ => 1
  | .basctl _ => 0x10000
  | .repctl _ => 1
  | .pfctl _ => 1
  | .debug _ off => if off = 0x018 then 0x10000 else 0
  | _ => 0

/-- The stored value of a register. -/
def sysGet (l : List (SysReg × W64)) (r : SysReg) : W64 :=
  match l with
  | [] => regReset r
  | (q, v) :: t => if q = r then v else sysGet t r

/-- Set the stored value of a register. -/
def sysSet (l : List (SysReg × W64)) (r : SysReg) (v : W64) : List (SysReg × W64) :=
  match l with
  | [] => [(r, v)]
  | (q, w) :: t => if q = r then (r, v) :: t else (q, w) :: sysSet t r v

/-- The stored value of a register of the device. -/
def reg (s : State) (r : SysReg) : W64 := sysGet s.sys r

/-- Set a register of the device, as its unit does. -/
def setReg (s : State) (r : SysReg) (v : W64) : State := { s with sys := sysSet s.sys r v }

/-- A field of a register. -/
def regField (s : State) (r : SysReg) (hi lo : Nat) : Nat := wbits (reg s r) hi lo

/-- Set a field of a register, as its unit does. -/
def setField (s : State) (r : SysReg) (hi lo x : Nat) : State := setReg s r (wput (reg s r) hi lo x)

/-- Count one up in a field, saturating. -/
def countField (s : State) (r : SysReg) (hi lo : Nat) : State :=
  if regField s r hi lo + 1 < 2 ^ (hi + 1 - lo) then setField s r hi lo (regField s r hi lo + 1) else s

/-- What software's write of a value leaves in the fields of a register (R7). -/
def writeFields (fs : List RegField) (old new : W64) : W64 :=
  match fs with
  | [] => old
  | (hi, lo, .rw) :: t => writeFields t (wput old hi lo (wbits new hi lo)) new
  | (hi, lo, .w1c) :: t => writeFields t (wput old hi lo (wbits (old &&& ~~~new) hi lo)) new
  | (_, _, .ro) :: t => writeFields t old new
  | (_, _, .wo) :: t => writeFields t old new

/-- Software writes a register: RW fields take the value, W1C bits written 1 clear, others keep (R7). -/
def writeReg (s : State) (r : SysReg) (v : W64) : State := setReg s r (writeFields (regFields r) (reg s r) v)

/-- A ring of 2^LOG records: its base, and its size when LOG lies in the given range (R255, R329, R386, R395). -/
def ringOf (s : State) (r : SysReg) (lo hi : Nat) : Option (Nat × Nat) :=
  let log := regField s r 60 56
  if lo ≤ log ∧ log ≤ hi then some (regField s r 55 6 * 64, 2 ^ log) else none

/-- Entries in use between two 32-bit sequences (R235, R326). -/
def seqDiff (a b : Nat) : Nat := (a + 2 ^ 32 - b) % 2 ^ 32

end Sys2Proof.Machine
end

