-- ==== Sys2Proof/Machine/Home.lean ====
section
/-! DEFINITION. Physical addresses, the home slice of a line, and the data of a line in L2, the basin and memory (R171, R172,
R339, R350, R351, R355, R361, R408). -/

namespace Sys2Proof.Machine

/-- Byte `i` of a line. -/
def lineByte (x : Line) (i : Nat) : Byte := x.extractLsb' (8 * i) 8

/-- A line with byte `i` replaced. -/
def lineSet (x : Line) (i : Nat) (b : Byte) : Line :=
  (x &&& ~~~(BitVec.ofNat 512 (255 * 2 ^ (8 * i)))) ||| BitVec.ofNat 512 (b.toNat * 2 ^ (8 * i))

/-- A line with bytes from `i` on replaced. -/
def linePuts (x : Line) (i : Nat) (bs : List Byte) : Line :=
  match bs with
  | [] => x
  | b :: r => linePuts (lineSet x i b) (i + 1) r

/-- The 64 bytes of a line. -/
def lineBytes (x : Line) : List Byte := (List.range 64).map (lineByte x)

/-- Device number of a physical address, bits [55:43] (R172). -/
def paDevice (pa : Nat) : Nat := pa / 2 ^ 43

/-- Address within its device, bits [42:0] (R172). -/
def paLocal (pa : Nat) : Nat := pa % 2 ^ 43

/-- The frame lies in this device's CXL tier (R172). -/
def inTier (pa : Nat) : Bool := paDevice pa == 4608 || paDevice pa == 4609

/-- Tier byte of an address of the CXL tier (R172). -/
def tierByte (pa : Nat) : Nat := (paDevice pa - 4608) * 2 ^ 43 + paLocal pa

/-- Physical address of a tier byte (R172). -/
def tierPa (b : Nat) : Nat := (4608 + b / 2 ^ 43) * 2 ^ 43 + b % 2 ^ 43

/-- HBM of this device: 720 GiB (R172). -/
def inHbm (s : State) (pa : Nat) : Bool :=
  paDevice pa == regField s .devnum 12 0 && paLocal pa < 720 * 2 ^ 30

/-- Local memory of another device, reached over the scale-up links (R172). -/
def isRemote (s : State) (pa : Nat) : Bool :=
  paDevice pa < 4608 && paDevice pa != regField s .devnum 12 0

/-- Stack of an HBM address (R350). -/
def stackOf (pa : Nat) : Nat := paLocal pa / (60 * 2 ^ 30)

/-- Channel of an HBM address within its stack (R350). -/
def channelOf (pa : Nat) : Nat := (paLocal pa / 2 ^ 10 % 32) ^^^ (paLocal pa / 2 ^ 15 % 32)

/-- Basin bank of a line (R351). -/
def bankOf (pa : Nat) : Nat := pa / 64 % 8

/-- The die that homes a line: of its stack, or by 4 KiB of the tier (R355). -/
def homeDie (pa : Nat) : Nat := if inTier pa then pa / 4096 % 4 else stackOf pa / 3 % 4

/-- Members of a domain (R339). -/
def domMembers (s : State) (d k : Nat) : Nat := regField s (.dmemb d k) 47 0

/-- The exponent n of a domain of 2^n slices; none when it is empty or holds no power of two (R355). -/
def domLog (s : State) (d k : Nat) : Option Nat :=
  (List.range 6).find? fun n => countOnes (domMembers s d k) 48 == 2 ^ n

/-- The bit number of the (j + 1)-th lowest set bit of a mask of `n` bits from bit `i` (R339). -/
def nthBit (m i n j : Nat) : Nat :=
  match n with
  | 0 => i
  | n + 1 => if m % 2 = 1 then (if j = 0 then i else nthBit (m / 2) (i + 1) n (j - 1)) else nthBit (m / 2) (i + 1) n j

/-- Index of a line within a domain: one parity per mask (R339). -/
def domIndex (s : State) (d k pa n : Nat) : Nat :=
  ((List.range n).map fun i =>
    2 ^ i * (countOnes (pa % 2 ^ 43 &&& regField s (.dhash d k i) 42 6 * 64) 43 % 2)).foldl (· + ·) 0

/-- Home slice under HASH within die `d`; an unusable domain acts as domain 0, and that as slice 0 (R339, R355). -/
def hashSlice (s : State) (d k pa : Nat) : Nat :=
  match domLog s d k with
  | some n => nthBit (domMembers s d k) 0 48 (domIndex s d k pa n)
  | none =>
    match domLog s d 0 with
    | some n => nthBit (domMembers s d 0) 0 48 (domIndex s d 0 pa n)
    | none => 0

/-- The slice, 0 to 191, that homes a request without a leaf: domain 0 under HASH (R408). -/
def homeZero (s : State) (pa : Nat) : Nat := 48 * homeDie pa + hashSlice s (homeDie pa) 0 pa

/-- Sector of a core, 0 to 11 (R17). -/
def sectorOf (core : Nat) : Nat := core / 24

/-- Die of a core (R17). -/
def dieOf (core : Nat) : Nat := core / 72

/-- The slice that homes a translated line under HASH (R355). -/
def routeSlice (s : State) (pa : Nat) (l : Leaf) : Nat := 48 * homeDie pa + hashSlice s (homeDie pa) l.dom pa

/-- The domain whose members home a request: its leaf's when usable, else domain 0 (R355). -/
def usableDom (s : State) (die dom : Nat) : Nat := if (domLog s die dom).isSome then dom else 0

/-- Slice of the first touch of a region: the lowest member in the requester's sector, else the lowest; slice 0 when domain 0 is
unusable too (R355, R356). -/
def firstSlice (s : State) (die dom core : Nat) : Nat :=
  let d := usableDom s die dom
  let m := domMembers s die d
  if (domLog s die d).isNone then 0
  else match (List.range 48).find? fun i => m.testBit i && decide (dieOf core = die) && decide (i / 16 = sectorOf core % 3) with
    | some i => i
    | none => ((List.range 48).find? fun i => m.testBit i).getD 0

/-- Key of a region in the first-touch table of the die that homes it (R356). -/
def regionKey (pa : Nat) : Nat := homeDie pa * 2 ^ 40 + pa / 65536

/-- Entries that a die's first-touch table holds (R356). -/
def firstUsed (s : State) (die : Nat) : Nat := (s.caches.first.filter fun e => e.1 / 2 ^ 40 == die).length

/-- The slice that homes a line for a requester: HASH, or the first-touch table, or the slice a first touch now would give its
region. A region once homed by HASH because the table was full stays so (R355, R356, R408; log 26). -/
def homeOf (s : State) (pa : Nat) (l : Leaf) (core : Nat) : Nat :=
  if l.first then
    match tabFind s.caches.first (regionKey pa) with
    | some i => 48 * homeDie pa + i
    | none =>
      if (tabFind s.caches.turnedAway (regionKey pa)).isSome || decide (16384 ≤ firstUsed s (homeDie pa)) then routeSlice s pa l
      else 48 * homeDie pa + firstSlice s (homeDie pa) l.dom core
  else routeSlice s pa l

/-- The first request under FIRST for a region makes its entry, or counts the region as homed by HASH (R356, R364). -/
def noteFirst (s : State) (pa : Nat) (l : Leaf) (core : Nat) : State :=
  let die := homeDie pa
  if !l.first || (tabFind s.caches.first (regionKey pa)).isSome || (tabFind s.caches.turnedAway (regionKey pa)).isSome then s
  else if firstUsed s die < 16384 then
    countField { s with caches := { s.caches with
      first := tabPut s.caches.first (regionKey pa) (firstSlice s die l.dom core) } } (.ftstat die) 15 0
  else countField { s with caches := { s.caches with turnedAway := tabPut s.caches.turnedAway (regionKey pa) () } } (.ftstat die) 47 16

/-- Key of a line in a unit's table. -/
def lineKey (unit pa : Nat) : Nat := unit * 2 ^ 50 + pa / 64

/-- Granule number of a tier address (R361). -/
def granuleOf (pa : Nat) : Nat := tierByte pa / 65536

/-- The granule lies in a tiered range (R361, R364). -/
def inTieredRange (s : State) (pa : Nat) : Bool :=
  inTier pa && (List.range 8).any fun n =>
    decide (regField s (.tierr n) 31 0 ≤ granuleOf pa) &&
    decide (granuleOf pa < regField s (.tierr n) 31 0 + regField s (.tierr n) 63 32)

/-- State of the granule of a tier address; outside every range it never moves (R181, R361). -/
def granuleState (s : State) (pa : Nat) : Granule := tabGet s.tiers.granules (granuleOf pa) .lower

/-- Where the bytes of a line are backed: the HBM frame of an UPPER granule, else its own address; a granule that moves has its
lines removed, or is still backed by the tier (R181, R361). -/
def backAddr (s : State) (pa : Nat) : Nat :=
  if inTier pa then
    match granuleState s pa with
    | .upper f => f + pa % 65536
    | _ => pa
  else pa

/-- A line as memory holds it, below every cache. -/
def memLine (s : State) (pa : Nat) : Line := BitVec.ofNat 512 (leNat (memBytes s.mem (backAddr s pa / 64 * 64) 64))

/-- The line is poisoned in memory (R397). -/
def memPoison (s : State) (pa : Nat) : Bool := (tabFind s.caches.poison (backAddr s pa / 64)).isSome

/-- A line as the basin holds it, else memory: what an L2 miss reads (R351). -/
def backLine (s : State) (pa : Nat) : Line × Bool :=
  match tabFind s.caches.basin (backAddr s pa / 64) with
  | some c => (c.data, c.poison)
  | none => (memLine s pa, memPoison s pa)

/-- A line as its home slice would return it, with its poison (R171, R355). -/
def homeLine (s : State) (slice pa : Nat) : Line × Bool :=
  match tabFind s.caches.l2 (lineKey slice pa) with
  | some c => (c.data, c.poison)
  | none => backLine s pa

/-- Set a line of memory itself, with its poison mark. -/
def putMemLine (s : State) (pa : Nat) (x : Line) (poison : Bool) : State :=
  let a := backAddr s pa / 64 * 64
  { s with
    mem := memPuts s.mem a (lineBytes x)
    caches := { s.caches with poison := if poison then tabPut s.caches.poison (a / 64) () else tabDel s.caches.poison (a / 64) } }

/-- The tier unit is asked to seal a granule again under its next epoch (R374). -/
def askReseal (s : State) (g : Nat) : State :=
  { s with tiers := { s.tiers with resealing :=
      if s.tiers.resealing.contains g then s.tiers.resealing else s.tiers.resealing ++ [g] } }

/-- A write of a tier line counts up its write counter; one that would wrap makes the tier unit reseal the granule (R374). -/
def countLine (s : State) (pa : Nat) : State :=
  let k := tierByte pa / 64
  let n := tabGet s.tiers.counters k 0
  if n = BitVec.allOnes 32 then askReseal s (granuleOf pa)
  else { s with tiers := { s.tiers with counters := tabPut s.tiers.counters k (n + 1) } }

/-- A line that is written back to the tier is counted there (R374). -/
def countTierWrite (s : State) (pa : Nat) : State := if inTier pa && backAddr s pa == pa then countLine s pa else s

/-- The extent of a tier address that is released: acknowledged, or being released (R362). -/
def extentOf (s : State) (pa : Nat) : Option (Nat × Nat × Bool) :=
  if inTier pa then s.tiers.extents.find? fun e => decide (e.1 ≤ tierByte pa) && decide (tierByte pa < e.1 + e.2.1)
  else none

/-- The extent of a tier address has been released: nothing is written to it any more (R362). -/
def released (s : State) (pa : Nat) : Bool :=
  match extentOf s pa with
  | some (_, _, true) => true
  | _ => false

/-- The last epoch of a granule is used up: its writes are held until its world has a new key (R374). -/
def epochsUsed (s : State) (pa : Nat) : Bool := decide (2 ^ 24 ≤ tabGet s.tiers.epochs (granuleOf pa) 0)

/-- A write of a line to the tier would take its granule past its last epoch, or comes after one that would: it is held (R374). -/
def lineShut (s : State) (pa : Nat) : Bool :=
  inTier pa && decide (2 ^ 24 ≤ tabGet s.tiers.epochs (granuleOf pa) 0 + 1) &&
  (epochsUsed s pa || s.tiers.resealing.contains (granuleOf pa) || tabGet s.tiers.counters (tierByte pa / 64) 0 == BitVec.allOnes 32)

/-- A line of a granule is shut so. -/
def granuleShut (s : State) (g : Nat) : Bool :=
  let e := tabGet s.tiers.epochs g 0
  decide (2 ^ 24 ≤ e + 1) && (decide (2 ^ 24 ≤ e) || s.tiers.resealing.contains g ||
    s.tiers.counters.any fun c => c.1 / 1024 == g && c.2 == BitVec.allOnes 32)

/-- A slice cannot write its dirty line back now: the line goes to the tier, where its write is held (R374). -/
def heldLine (s : State) (slice pa : Nat) : Bool :=
  match tabFind s.caches.l2 (lineKey slice pa) with
  | some c => c.dirty && backAddr s pa == pa && !released s pa && lineShut s pa
  | none => false

/-- A basin line is evicted, written to DRAM first when dirty (R351). -/
def evictBasin (s : State) (key : Nat) : State :=
  match tabFind s.caches.basin key with
  | some b =>
    let s := if b.dirty then putMemLine s (key * 64) b.data b.poison else s
    { s with caches := { s.caches with basin := tabDel s.caches.basin key } }
  | none => s

/-- Put a line into the basin of its stack, within the stack's 256 MiB: a full basin evicts one line (R2, R351; log 7). -/
def putBasin (s : State) (key : Nat) (c : CacheLine) : State :=
  let mine := s.caches.basin.filter fun e => stackOf (e.1 * 64) == stackOf (key * 64)
  let s := if (tabFind s.caches.basin key).isSome || decide (mine.length < 4194304) then s
    else match mine[Config.freeIndex s.tick % mine.length]? with
      | some e => evictBasin { s with tick := s.tick + 1 } e.1
      | none => s
  { s with caches := { s.caches with basin := tabPut s.caches.basin key c } }

/-- An L2 line goes back to what lies below: the basin line when held, a new basin line under ALWAYS, else memory; never to a
released extent (R351, R362). -/
def writeBack (s : State) (pa : Nat) (c : CacheLine) : State :=
  let key := backAddr s pa / 64
  if released s pa then s else
  match tabFind s.caches.basin key with
  | some b => putBasin s key { b with data := c.data, dirty := true, poison := c.poison }
  | none =>
    if inHbm s (key * 64) && c.basin == 0 && regField s (.basctl (stackOf (key * 64))) 24 24 == 0 then
      putBasin s key { c with dirty := true }
    else putMemLine (countTierWrite s pa) pa c.data c.poison

/-- A dirty basin line is written to DRAM (R351). -/
def cleanBasin (s : State) (pa : Nat) : State :=
  let key := backAddr s pa / 64
  match tabFind s.caches.basin key with
  | some b =>
    if b.dirty then
      let s := putMemLine s (key * 64) b.data b.poison
      { s with caches := { s.caches with basin := tabPut s.caches.basin key { b with dirty := false } } }
    else s
  | none => s

/-- A line of a slice is written back when dirty and stays valid; one whose write is held stays dirty, and its granule asks for its next
epoch (R374). -/
def cleanSlice (s : State) (slice pa : Nat) : State :=
  match tabFind s.caches.l2 (lineKey slice pa) with
  | some c =>
    if heldLine s slice pa then askReseal s (granuleOf pa)
    else if c.dirty then
      let s := writeBack s pa c
      { s with caches := { s.caches with l2 := tabPut s.caches.l2 (lineKey slice pa) { c with dirty := false } } }
    else s
  | none => s

/-- A line is removed from a slice, written back first when dirty, with its replicas; one whose write is held stays (R374). -/
def dropSlice (s : State) (slice pa : Nat) : State :=
  if heldLine s slice pa then cleanSlice s slice pa else
  let s := cleanSlice s slice pa
  { s with caches := { s.caches with
      l2 := tabDel s.caches.l2 (lineKey slice pa)
      replicas := s.caches.replicas.filter fun e => e.1 % 2 ^ 50 != pa / 64 } }

/-- Lines a slice holds beside its carve of the chip plain: 1.5 MiB less C x 64 KiB (R355, R360). -/
def sliceLines (s : State) (slice : Nat) : Nat := 24576 - 1024 * min (regField s (.plaincfg (slice / 48)) 4 0) 16

/-- Make room for a line in a slice: one line is replaced when the slice is full, none whose write is held (R2, R355, R374; log 7). -/
def l2Room (s : State) (slice pa : Nat) : State :=
  let mine := s.caches.l2.filter fun e => e.1 / 2 ^ 50 == slice
  if (tabFind s.caches.l2 (lineKey slice pa)).isSome || decide (mine.length < sliceLines s slice) then s
  else
    let mine := mine.filter fun e => !heldLine s slice (e.1 % 2 ^ 50 * 64)
    match mine[Config.freeIndex s.tick % mine.length]? with
    | some e => dropSlice { s with tick := s.tick + 1 } slice (e.1 % 2 ^ 50 * 64)
    | none => s

/-- The lines a slice table holds of a range of physical addresses: slice and line address. -/
def l2LinesIn (s : State) (lo hi : Nat) : List (Nat × Nat) :=
  (s.caches.l2.map fun e => (e.1 / 2 ^ 50, e.1 % 2 ^ 50 * 64)).filter fun p => decide (lo ≤ p.2) && decide (p.2 < hi)

/-- The basin line addresses held of a range. -/
def basinLinesIn (s : State) (lo hi : Nat) : List Nat :=
  (s.caches.basin.map fun e => e.1 * 64).filter fun a => decide (lo ≤ a) && decide (a < hi)

/-- Write back and remove every L2 and basin line of a range (R360 to R362, R368). -/
def flushRange (s : State) (lo hi : Nat) : State :=
  let s := (l2LinesIn s lo hi).foldl (fun s p => dropSlice s p.1 p.2) s
  let s := (basinLinesIn s lo hi).foldl cleanBasin s
  { s with caches := { s.caches with
      basin := s.caches.basin.filter fun e => !(decide (lo ≤ e.1 * 64) && decide (e.1 * 64 < hi)) } }

/-- A write to a line wakes the gangs whose monitor reads it, and ends the host cores' reservations of it (R197, R221; log 5). -/
def wakeMonitors (s : State) (pa : Nat) : State :=
  { s with
    gangs := tabMap s.gangs fun g => if g.monPa == some (pa / 64) then { g with woken := true } else g
    hostResv := s.hostResv.filter fun e => e.2 != pa / 64 }

/-- A write at a home slice: the bytes enter the line there, every replica is invalidated, monitors wake (R171, R197). -/
def writeHome (s : State) (slice pa off : Nat) (bs : List Byte) (dom basin : Nat) (world : BitVec 16) : State :=
  let s := l2Room s slice pa
  let l := homeLine s slice pa
  let c : CacheLine :=
    { data := linePuts l.1 off bs, dirty := true, poison := l.2, world := world, dom := dom, basin := basin }
  let s := { s with caches := { s.caches with
      l2 := tabPut s.caches.l2 (lineKey slice pa) c
      replicas := s.caches.replicas.filter fun e => e.1 % 2 ^ 50 != pa / 64 } }
  wakeMonitors s pa

end Sys2Proof.Machine
end

