-- ==== Sys2Proof/Machine/Phys.lean ====
section
/-! DEFINITION. The queues of the slices, and the agents that reach memory by physical addresses, without a leaf: page walks, rings and
buffers, the island, host cores (R172, R181, R220, R343, R344, R359, R361, R362, R384, R397, R408). -/

namespace Sys2Proof.Machine

/-- Source id of a class and instance (R393, R396). -/
def sourceId (cls inst : Nat) : W32 := BitVec.ofNat 32 (cls * 2 ^ 24 + inst)

/-- A control error halted a unit, named by source class and instance (R393, R397). -/
def unitDead (s : State) (cls inst : Nat) : Bool := s.mgmt.halted.contains (sourceId cls inst).toNat

/-- The space is translated (R164). -/
def translated (sp : Space) : Bool :=
  match sp with
  | .g | .x => true
  | .p | .c | .h => false

/-- The request stands parked (R230). -/
def isParked (r : Req) : Bool :=
  match r.stage with
  | .parked .. => true
  | _ => false

/-- Put a new request. -/
def putReq (s : State) (r : Req) : State :=
  { s with reqs := tabPut s.reqs s.nextId r, nextId := s.nextId + 1 }

/-- Change a request. -/
def updReq (s : State) (id : Nat) (f : Req → Req) : State := { s with reqs := tabUpd s.reqs id f }

/-- Remove a request. -/
def dropReq (s : State) (id : Nat) : State := { s with reqs := tabDel s.reqs id }

/-- Requests to a granule of a tier address are held: it is in migration, or resealed (R181, R361, R374). -/
def granuleMoving (s : State) (pa : Nat) : Bool :=
  inTier pa && (match granuleState s pa with
    | .moving _ _ => true
    | _ => s.tiers.resealing.contains (granuleOf pa) && !epochsUsed s pa)

/-- Writes to a granule are held: its epochs are used up (R374). -/
def writesShut (s : State) (pa : Nat) : Bool :=
  inTier pa && (match granuleState s pa with
    | .upper _ => false
    | _ => s.tiers.resealing.contains (granuleOf pa) && epochsUsed s pa)

/-- Requests that stand at a slice in a given stage, oldest first (R359). -/
def sliceReqs (s : State) (slice : Nat) (st : Stage) : List (Nat × Req) :=
  s.reqs.filter fun e => e.2.slice == slice && translated e.2.space && e.2.stage == st

/-- A command's request may go on once the command has begun (R278). -/
def cmdBegun (s : State) (r : Req) : Bool :=
  match r.cmd with
  | none => true
  | some c => match tabFind s.cmds c with
    | some c => c.started
    | none => true

/-- The port of a request's requester has marked its line at a switch of the masks: an older request to it, routed under the old
masks, is not answered yet, or is resent and its home has not accepted it yet (R344). -/
def portMarked (s : State) (id : Nat) (r : Req) : Bool :=
  (s.dom.any fun d => !d.2.old.contains id && d.2.old.any fun q => match tabFind s.reqs q with
    | some x => x.agent == r.agent && x.pa == r.pa && decide (x.entered < r.entered) && !isParked x && x.stage != .walk && x.stage != .done
    | none => false) ||
  s.reqs.any fun e => e.2.resent && e.2.agent == r.agent && e.2.pa == r.pa && decide (e.2.entered < r.entered)

/-- Requests that take up a slice's queue, those that a DSPLIT holds among them; not those of a group load that its home holds, nor
those that a port holds at a switch of the masks (R278, R343, R344, R359). -/
def queueReqs (s : State) (slice : Nat) : List (Nat × Req) :=
  (sliceReqs s slice .home ++ sliceReqs s slice .hold).filter fun e => cmdBegun s e.2 && !portMarked s e.1 e.2

/-- A slice's queue takes one more request (R359). -/
def sliceRoom (s : State) (slice : Nat) : Bool :=
  (queueReqs s slice).isEmpty || decide ((queueReqs s slice).length < Config.sliceQueueSize)

/-- Bytes of a slice's part of its die's spill area (R359). -/
def spillPart (s : State) (slice : Nat) : Nat := regField s (.slspill (slice / 48)) 15 0 * 65536 / 48

/-- The stage of a request that comes to a slice: its queue, its spill queue when that is full or has requests before it, or
stopped at the crossbar (R359). -/
def arriveStage (s : State) (slice : Nat) : Stage :=
  let spilled := (sliceReqs s slice .spill).length
  if !(sliceReqs s slice .stopped).isEmpty then .stopped
  else if spilled = 0 ∧ sliceRoom s slice then .home
  else if (spilled + 1) * Config.spillEntryBytes ≤ spillPart s slice then .spill
  else .stopped

/-- A spilled request takes its place in its slice's part of the spill area in HBM, past L2 and the basin; the spec gives its
bytes no layout (R359; log 10). -/
def spillBytes (s : State) (slice : Nat) : State :=
  let k := (sliceReqs s slice .spill).length * Config.spillEntryBytes
  { s with
    tick := s.tick + Config.spillEntryBytes
    mem := memPuts s.mem (regField s (.slspill (slice / 48)) 55 16 * 65536 + slice % 48 * spillPart s slice + k)
      ((List.range Config.spillEntryBytes).map fun k => (Config.freeWord (s.tick + k)).setWidth 8) }

/-- A request comes to its slice; a stop of the crossbar is counted (R359, R364). -/
def arriveAt (s : State) (id slice : Nat) : State :=
  let st := arriveStage s slice
  let first := st == .stopped && (sliceReqs s slice .stopped).isEmpty
  let s := if st == .spill then spillBytes s slice else s
  let s := updReq s id fun r => { r with
    slice := slice, stage := st, accepted := false, arrived := s.nextId, resent := r.resent && st != .home }
  let s := { s with nextId := s.nextId + 1 }
  if first then countField s (.slspstat (slice / 48)) 31 0 else s

/-- The line of a physical address. -/
def lineOf (pa : Nat) : Nat := pa / 64 * 64

/-- A DSPLIT that has not switched its masks holds what domain 0 homes: an access without a leaf with it (R343, R355, R408). -/
def physSplit (s : State) (pa : Nat) : Bool :=
  match tabFind s.dom (homeDie pa) with
  | some d => match d.split with
    | some (dom, dom2, _) => d.res.isEmpty &&
        ((usableDom s (homeDie pa) 0 == dom && (domMembers s (homeDie pa) dom).testBit (homeZero s pa % 48)) || dom2 == 0)
    | none => false
  | none => false

/-- The context number of requests that belong to none: those of agents that reach memory by physical addresses. -/
def physCtx : Nat := 65536

/-- A request by physical address belongs to a unit: (2, n) the walk of request n, (3, n) a walk of a unit of the hub for context n,
(4, 0) the rings and buffers, (5, n) access n of a host core, (6, 0) posted writes, (7, n) the read of context n's descriptor. -/
def isPhys (u : Nat × Nat) (q : Req) : Bool := q.ctx == physCtx && q.unit == some u

/-- A request by physical address for bytes of one line: to the device that homes the line, or, for a line of this device, the place in the
queue of its slice (R220, R359, R408). -/
def physReq (s : State) (u : Nat × Nat) (world : BitVec 16) (kind : ReqKind) (pa n : Nat) (data cmp : List Byte) : Req :=
  { agent := .hub, before := [], access := none, cmd := none, unit := some u, core := 288, ctx := physCtx, world := world, asid := 0,
    seq := 0, kind := kind, space := .g, va := BitVec.ofNat 64 (lineOf pa), pa := lineOf pa,
    leaf := { basin := 2, first := false, dom := 0, tier := false, w := true, size := 0 }, order := .rlx, scope := 4, urgent := false,
    parts := [{ lane := 0, off := pa % 64, pos := 0, len := n, data := data, cmp := cmp, res := [] }], stage := .home,
    entered := s.nextId, slice := 192 }

/-- A request that only holds a place in the queue of a slice of this device for an agent that acts there itself (R359). -/
def isPlace (s : State) (r : Req) : Bool := r.ctx == physCtx && !isRemote s r.pa

/-- A unit has its place in the queue of a line's slice (R359). -/
def physPlace (s : State) (u : Nat × Nat) (slice pa : Nat) : Bool :=
  s.reqs.any fun e => isPhys u e.2 && isPlace s e.2 && e.2.pa == lineOf pa && e.2.slice == slice && e.2.stage == .home

/-- The slice of a line takes an access of a unit: its queue has room, or the unit's place has come up in it (R359, R397). -/
def sliceTakes (s : State) (u : Nat × Nat) (slice pa : Nat) : Bool :=
  !unitDead s 13 slice && (arriveStage s slice == .home || physPlace s u slice pa)

/-- Nothing but its slice's queue holds an access without a leaf to a line of this device: no move or resealing, no release of an extent,
no DSPLIT. A released extent holds it for good, since no park store takes it, of which the spec says nothing (R181, R343, R361, R362;
DESIGN CHOICE, log 10). -/
def physFree (s : State) (pa : Nat) : Bool := (extentOf s pa).isNone && !granuleMoving s pa && !physSplit s pa

/-- An access without a leaf to a line of this device can be performed at its home now (R172, R181, R343, R359 to R362, R397, R408). -/
def physOpen (s : State) (u : Nat × Nat) (pa : Nat) : Bool :=
  !isRemote s pa && physFree s pa && sliceTakes s u (homeZero s pa) pa

/-- A write without a leaf to a line of this device can be performed at its home now (R374). -/
def physWritable (s : State) (u : Nat × Nat) (pa : Nat) : Bool := physOpen s u pa && !writesShut s pa

/-- The answer of another device to a unit's read of a line by its physical address (R220). -/
def physAnswer (s : State) (u : Nat × Nat) (pa : Nat) : Option (List Byte) :=
  (s.reqs.find? fun e => isPhys u e.2 && e.2.kind == .read && e.2.stage == .done && e.2.pa == lineOf pa).map
    fun e => e.2.parts.flatMap (·.res)

/-- A byte that an agent without a leaf reads: at its home, or as the device that homes it answered (R220, R408). -/
def physByte (s : State) (u : Nat × Nat) (pa : Nat) : Byte :=
  if isRemote s pa then ((physAnswer s u pa).getD []).getD (pa % 64) 0
  else lineByte (homeLine s (homeZero s pa) (lineOf pa)).1 (pa % 64)

/-- Bytes that a unit without a leaf reads (R220, R408). -/
def physReadOf (s : State) (u : Nat × Nat) (pa n : Nat) : List Byte := (List.range n).map fun i => physByte s u (pa + i)

/-- The unit number of rings and buffers. -/
def ringUnit : Nat × Nat := (4, 0)

/-- Bytes of a ring, a buffer, a descriptor or a frame (R408). -/
def physRead (s : State) (pa n : Nat) : List Byte := physReadOf s ringUnit pa n

/-- Little-endian value of a buffer's bytes. -/
def physNat (s : State) (pa n : Nat) : Nat := leNat (physRead s pa n)

/-- Lines of a range of physical addresses. -/
def physLines (pa n : Nat) : List Nat := (List.range ((pa % 64 + n + 63) / 64)).map fun k => lineOf pa + 64 * k

/-- Bytes at a physical address, cut at the ends of lines. -/
def physChunks (pa : Nat) (bs : List Byte) : List (Nat × List Byte) :=
  (physLines pa bs.length).zipIdx.map fun e =>
    if e.2 = 0 then (pa, bs.take (64 - pa % 64)) else (e.1, (bs.drop (64 * e.2 - pa % 64)).take 64)

/-- A unit can read a range now: its lines are open here, or answered (R220, R359, R408). -/
def physGot (s : State) (u : Nat × Nat) (pa n : Nat) : Bool :=
  (physLines pa n).all fun a => if isRemote s a then (physAnswer s u a).isSome else physOpen s u a

/-- A line of this device is free but for its slice's full queue: the unit's place comes into the queue's spill, or stops (R359). -/
def physQueue (s : State) (u : Nat × Nat) (slice pa : Nat) : State :=
  if unitDead s 13 slice || sliceTakes s u slice pa ||
     s.reqs.any fun e => isPhys u e.2 && isPlace s e.2 && e.2.pa == lineOf pa && e.2.slice == slice then s
  else arriveAt (putReq s (physReq s u 0 .read pa 0 [] [])) s.nextId slice

/-- A unit asks for the lines of a range that it cannot read yet (R220, R359). -/
def physAsk (s : State) (u : Nat × Nat) (world : BitVec 16) (pa n : Nat) : State :=
  (physLines pa n).foldl (fun s a =>
    if isRemote s a then
      (if s.reqs.any fun e => isPhys u e.2 && e.2.kind == .read && e.2.pa == a then s
       else putReq s (physReq s u world .read a 64 [] []))
    else if physFree s a then physQueue s u (homeZero s a) a else s) s

/-- A unit's request to write bytes of a line of another device (R220). -/
def isPhysPut (u : Nat × Nat) (c : Nat × List Byte) (q : Req) : Bool :=
  isPhys u q && q.kind == .write && q.pa == lineOf c.1 && (q.parts.map fun p => (p.off, p.data)) == [(c.1 % 64, c.2)]

/-- A unit can write bytes now: their lines are open here, or the device that homes them has performed the write (R220, R359, R408). -/
def physSent (s : State) (u : Nat × Nat) (pa : Nat) (bs : List Byte) : Bool :=
  (physChunks pa bs).all fun c =>
    if isRemote s c.1 then s.reqs.any fun e => isPhysPut u c e.2 && e.2.stage == .done else physWritable s u c.1

/-- A unit sends what it writes to lines of other devices, and takes its places in the queues of the others (R220, R359). -/
def physSend (s : State) (u : Nat × Nat) (world : BitVec 16) (pa : Nat) (bs : List Byte) : State :=
  (physChunks pa bs).foldl (fun s c =>
    if isRemote s c.1 then
      (if s.reqs.any fun e => isPhysPut u c e.2 then s else putReq s (physReq s u world .write c.1 c.2.length c.2 []))
    else if physFree s c.1 then physQueue s u (homeZero s c.1) c.1 else s) s

/-- What a unit asked and sent for some lines is over: its answers are taken, and its places are free. -/
def physTake (s : State) (u : Nat × Nat) (pa n : Nat) : State :=
  { s with reqs := s.reqs.filter fun e =>
      !(isPhys u e.2 && (physLines pa n).contains e.2.pa && (isPlace s e.2 || e.2.stage == .done)) }

/-- What a unit asked is over, for every line. -/
def physEnd (s : State) (u : Nat × Nat) : State :=
  { s with reqs := s.reqs.filter fun e => !(isPhys u e.2 && (isPlace s e.2 || e.2.stage == .done)) }

/-- Bytes that an agent without a leaf writes to lines of this device, at their homes, in a world. The basin policy of an access without a
leaf is not stated: it is NEVER here, and its write-back goes past the basin unless that holds the line (R351, R366, R408; DESIGN CHOICE,
log 10). -/
def physWrite (s : State) (pa : Nat) (bs : List Byte) (world : BitVec 16 := 0) : State :=
  match bs with
  | [] => s
  | b :: r => physWrite (writeHome s (homeZero s pa) (pa / 64 * 64) (pa % 64) [b] 0 2 world) (pa + 1) r world

/-- A line is written anew whole: its poison is gone (R397, R398). -/
def healLine (s : State) (slice pa : Nat) : State :=
  { s with caches := { s.caches with l2 := tabUpd s.caches.l2 (lineKey slice pa) fun c => { c with poison := false } } }

/-- Bytes of one line that an agent without a leaf writes at its home; a line that is written whole is rewritten, and its poison is gone
(R398, R408). -/
def physLine (s : State) (pa : Nat) (bs : List Byte) (world : BitVec 16) : State :=
  if bs.length = 64 then healLine (physWrite s pa bs world) (homeZero s pa) pa else physWrite s pa bs world

/-- Bytes that a unit writes where they are open or sent: those of this device enter their lines, and those of another device stand there
already (R220, R408). -/
def physPut (s : State) (u : Nat × Nat) (pa : Nat) (bs : List Byte) (world : BitVec 16 := 0) : State :=
  (physChunks pa bs).foldl (fun s c => if isRemote s c.1 then s else physLine s c.1 c.2 world) (physTake s u pa bs.length)

/-- The unit number of posted writes. -/
def postUnit : Nat × Nat := (6, 0)

/-- A posted write to a line is still to be performed. -/
def posted (s : State) (pa : Nat) : Bool := s.caches.posts.any fun p => lineOf p.pa == lineOf pa

/-- A unit writes bytes of one line and goes on: they are performed now, or once the line's home takes them, in the order of the posts
to that line (R107, R220, R229). -/
def physPost (s : State) (pa : Nat) (bs : List Byte) (world : BitVec 16 := 0) : State :=
  if physWritable s postUnit pa && !posted s pa then physWrite s pa bs world
  else { s with caches := { s.caches with posts := s.caches.posts ++ [{ pa := pa, bytes := bs, world := world }] } }

/-- A posted write is performed if it can be and is the oldest to its line; else it is sent, or waits for its place. -/
def flushPost (s : State) (p : Post) : State :=
  if (s.caches.posts.find? fun q => lineOf q.pa == lineOf p.pa) != some p then s
  else if physSent s postUnit p.pa p.bytes then
    physPut { s with caches := { s.caches with posts := s.caches.posts.erase p } } postUnit p.pa p.bytes p.world
  else physSend s postUnit p.world p.pa p.bytes

/-- Posted writes that their lines' homes take are performed. -/
def flushPosts (s : State) : State := s.caches.posts.foldl flushPost s

/-- A unit with rings and buffers has read some ranges and written some bytes. -/
def physDone (s : State) (reads : List (Nat × Nat)) (writes : List (Nat × List Byte)) (world : BitVec 16) : State :=
  reads.foldl (fun s r => physTake s ringUnit r.1 r.2) (writes.foldl (fun s w => physPut s ringUnit w.1 w.2 world) s)

/-- Reads and writes of a unit with rings and buffers: what it writes is known once it has read. -/
def physReady (s : State) (reads : List (Nat × Nat)) (writes : List (Nat × List Byte)) : Bool :=
  (reads.all fun r => physGot s ringUnit r.1 r.2) && writes.all fun w => physSent s ringUnit w.1 w.2

/-- A unit with rings and buffers that cannot act yet asks for what it reads, and once it has that sends what it writes (R220, R359). -/
def physMiss (s : State) (world : BitVec 16) (reads : List (Nat × Nat)) (writes : List (Nat × List Byte)) : State :=
  if reads.all fun r => physGot s ringUnit r.1 r.2 then writes.foldl (fun s w => physSend s ringUnit world w.1 w.2) s
  else reads.foldl (fun s r => physAsk s ringUnit world r.1 r.2) s

end Sys2Proof.Machine
end

