-- ==== Sys2Proof/Machine/Events.lean ====
section
/-! DEFINITION. Event records: source sequences, kept and lost records, and delivery into the event rings (R393 to R396). -/

namespace Sys2Proof.Machine

/-- Pad bytes with zeros, or cut them, to a length. -/
def padTo (n : Nat) (bs : List Byte) : List Byte := (bs ++ List.replicate n 0).take n

/-- Set the power state. -/
def setPower (s : State) (p : PowerState) : State := { s with mgmt := { s.mgmt with power := p } }

/-- A doorbell ends D-idle (R389). -/
def doorbell (s : State) : State :=
  if s.mgmt.power = .dIdle then { setPower s .d0 with disp := { s.disp with idleSince := s.cycle } } else s

/-- Base address and records of an event ring when it is enabled and has room (R395, R235). -/
def eventRing (s : State) (ring : Nat) : Option (Nat × Nat) :=
  match ringOf s (.evringBase ring) 4 20 with
  | some (base, size) =>
    if seqDiff (regField s (.evringSeq ring) 31 0) (regField s (.evringSeq ring) 63 32) < size
    then some (base, size) else none
  | none => none

/-- Address of the slot of a ring's next record. -/
def eventSlot (s : State) (ring base size : Nat) : Nat := base + regField s (.evringSeq ring) 31 0 % size * 64

/-- An event ring that takes its next record now: it has room, and its slot is a line of this device that is open (R343, R359 to R361,
R395). -/
def eventRoom (s : State) (ring : Nat) : Option (Nat × Nat) :=
  (eventRing s ring).filter fun b => physWritable s ringUnit (eventSlot s ring b.1 b.2)

/-- The 64 bytes of a record with its ring's next sequence (R393). -/
def eventBytes (s : State) (e : Event) : List Byte :=
  padTo 64 (leBytes 4 (regField s (.evringSeq e.ring) 31 0) ++ leBytes 4 e.source.toNat ++ leBytes 4 e.seq.toNat ++ leBytes 2 e.kind ++
    leBytes 1 (if e.lost = 0 then 0 else 1) ++ leBytes 1 0 ++ leBytes 4 e.lost ++ e.payload)

/-- A ring's TAIL advances past a record (R393). -/
def advanceTail (s : State) (ring : Nat) : State :=
  setField s (.evringSeq ring) 31 0 ((regField s (.evringSeq ring) 31 0 + 1) % 2 ^ 32)

/-- Write one record into its ring and advance TAIL (R393). -/
def deliverEvent (s : State) (e : Event) (base size : Nat) : State :=
  advanceTail (physWrite s (eventSlot s e.ring base size) (eventBytes s e)) e.ring

/-- A source reports an event on a ring, about a world where it has one: delivered, kept when the ring is full or disabled, lost beyond 64
kept (R366, R393). -/
def raiseEvent (s : State) (source : W32) (kind ring : Nat) (payload : List Byte) (world : BitVec 16 := 0) : State :=
  let src := source.toNat
  let e : Event :=
    { source := source, seq := tabGet s.events.seqs src 0 + 1, world := world, kind := kind, ring := ring,
      lost := tabGet s.events.lost src 0, payload := payload }
  let s := { s with events := { s.events with seqs := tabPut s.events.seqs src e.seq } }
  let mine := s.events.kept.filter fun k => k.source == source
  match mine, eventRoom s ring with
  | [], some (base, size) =>
    deliverEvent { s with events := { s.events with lost := tabDel s.events.lost src } } e base size
  | _, _ =>
    if mine.length < 64 then
      { s with events := { s.events with kept := s.events.kept ++ [e], lost := tabDel s.events.lost src } }
    else { s with events := { s.events with lost := tabPut s.events.lost src (e.lost + 1) } }

/-- Deliver kept records whose rings have room, in the order of each source. A record whose slot is not open is sent to the device that
homes the slot, or waits for its place; none after it goes to its ring meanwhile (R220, R359, R393, R394). -/
def flushKept (s : State) (es : List Event) (blocked : List W32) (rings : List Nat) : State :=
  match es with
  | [] => s
  | e :: r =>
    if blocked.contains e.source || rings.contains e.ring then flushKept s r (e.source :: blocked) rings
    else match eventRing s e.ring with
      | some (base, size) =>
        let pa := eventSlot s e.ring base size
        if physSent s ringUnit pa (eventBytes s e) then
          let s := advanceTail (physPut s ringUnit pa (eventBytes s e)) e.ring
          flushKept { s with events := { s.events with kept := s.events.kept.erase e } } r blocked rings
        else flushKept (physSend s ringUnit 0 pa (eventBytes s e)) r (e.source :: blocked) (e.ring :: rings)
      | none => flushKept s r (e.source :: blocked) rings

/-- Deliver what can now be delivered. -/
def flushEvents (s : State) : State := flushKept s s.events.kept [] []

/-- An input that cannot act yet, because lines that it touches are held or answered late, waits; the next cycle tries it again. -/
def holdInput (s : State) (i : LateIn) : State := { s with mgmt := { s.mgmt with late := s.mgmt.late ++ [i] } }

/-- The system event ring (R395). -/
def systemRing (s : State) : Nat := regField s .evsys 4 0

/-- World of a context that the device knows. -/
def ctxWorld (s : State) (ctx : Nat) : BitVec 16 := ((tabFind s.ctxs ctx).map (·.world)).getD 0

/-- The event ring of a context (R229). -/
def contextRing (s : State) (ctx : Nat) : Nat :=
  match tabFind s.ctxs ctx with
  | some c => c.evr
  | none => 0

/-- The event ring of a launch queue (R329). -/
def queueRing (s : State) (q : Nat) : Nat := regField s (.lqctl q) 11 7

end Sys2Proof.Machine
end

