-- ==== Sys2Proof/Machine/Ops.lean ====
section
/-! DEFINITION. The named operations on a gang: registers, the instruction being issued, latches, switch points, issue,
taking a trap and returning from one, and the pad. -/

namespace Sys2Proof.Machine

/-- What a step answers. -/
abbrev Answer := Host.Outcome State Fault Refusal

/-- Key of a gang: block uid and gang.id. -/
def gangKey (uid gid : Nat) : Nat := 32 * uid + gid

/-- Set a gang. -/
def putGang (s : State) (key : Nat) (g : Gang) : State := { s with gangs := tabPut s.gangs key g }

/-- Set a block. -/
def putBlock (s : State) (uid : Nat) (b : Block) : State := { s with blocks := tabPut s.blocks uid b }

/-- Lane register `n` of lane `l` (R18). -/
def vreg (g : Gang) (n l : Nat) : W32 := tabGet g.v (32 * n + l) 0

/-- Set lane register `n` of lane `l`. -/
def setVreg (g : Gang) (n l : Nat) (x : W32) : Gang := { g with v := tabPut g.v (32 * n + l) x }

/-- Scalar register; s0 reads zero (R18). -/
def sreg (g : Gang) (n : BitVec 6) : W64 := if n = 0 then 0 else tabGet g.s n.toNat 0

/-- Set a scalar register; a write of s0 is discarded (R52, R71). -/
def setSreg (g : Gang) (n : BitVec 6) (x : W64) : Gang := if n = 0 then g else { g with s := tabPut g.s n.toNat x }

/-- Predicate `n` of all lanes; k0 is constant true (R18). -/
def predMask (g : Gang) (n : BitVec 3) : Mask := if n = 0 then BitVec.allOnes 32 else tabGet g.k n.toNat 0

/-- Predicate `n` of lane `l`. -/
def pred (g : Gang) (n : BitVec 3) (l : Nat) : Bool := (predMask g n).getLsbD l

/-- Set predicate `n` in the lanes of `m` to the bits of `x`; a write of k0 is discarded (R52). -/
def setPreds (g : Gang) (n : BitVec 3) (m x : Mask) : Gang :=
  if n = 0 then g else { g with k := tabPut g.k n.toNat ((predMask g n &&& ~~~m) ||| (x &&& m)) }

/-- Path counter (R193). -/
def pathCount (g : Gang) (p : Nat) : Nat := tabGet g.paths p 0

/-- Set a path counter. -/
def setPath (g : Gang) (p n : Nat) : Gang := { g with paths := tabPut g.paths p n }

/-- Set bits of GSTAT (R126, R241). -/
def raiseGstat (g : Gang) (m : W64) : Gang := { g with gstat := g.gstat ||| m }

/-- GSTAT bits by name (R241). -/
def gstatLatch : W64 := 0x20
def gstatPadr : W64 := 0x40
def gstatTm (g : Gang) : Bool := g.gstat.getLsbD 8
def gstatCont (g : Gang) : Bool := g.gstat.getLsbD 9
def gstatWide (g : Gang) : Bool := g.gstat.getLsbD 10

/-- A fragment of a gang by its split-table entry. -/
def putFrag (g : Gang) (e : Nat) (f : Frag) : Gang := { g with frags := tabPut g.frags e f }

/-- The gang, block and fragment that issue an instruction. -/
structure Issue where
  cur : Cur
  g   : Gang
  b   : Block
  f   : Frag
  deriving DecidableEq, Repr

/-- The instruction being issued, when the state names one. -/
def issuing (s : State) : Option Issue :=
  match s.cur with
  | none => none
  | some c =>
    match tabFind s.gangs c.gang with
    | none => none
    | some g =>
      match tabFind s.blocks g.block, tabFind g.frags c.entry with
      | some b, some f => some { cur := c, g := g, b := b, f := f }
      | _, _ => none

/-- A meaning in terms of what issues it; nothing issues without one. -/
def onIssue (s : State) (k : Issue → Answer) : Answer :=
  match issuing s with
  | some i => k i
  | none => .fault .noIssuingGang

/-- Lanes of the executing fragment, or every live lane where the debug unit says so (R105). -/
def lanesMask (i : Issue) : Mask := i.cur.stuffed.getD i.f.mask

/-- Active lanes under a guard (R48). -/
def activeMask (i : Issue) (guard : BitVec 3) (neg : Bool) : Mask :=
  lanesMask i &&& (if neg then ~~~(predMask i.g guard) else predMask i.g guard)

/-- Active lanes that are no helpers: the lanes that raise flags and contribute (R126, R149). -/
def workMask (i : Issue) (guard : BitVec 3) (neg : Bool) : Mask := activeMask i guard neg &&& ~~~i.g.helper

/-- W0 of the instruction, and W1 of a lane instruction above it: the TVAL of a decode trap (R242). -/
def trapWords (ws : List W32) : W64 :=
  let w0 := ws.getD 0 0
  if w0.getLsbD 31 then ws.getD 1 0 ++ w0 else w0.setWidth 64

/-- Every latch of the gang becomes lost (R54). -/
def loseLatches (g : Gang) : Gang := { g with latch := [], latchDue := [0, 0, 0, 0] }

/-- One latch entry of a table, set or lost. -/
def latchSet (t : Tab W64) (k : Nat) (x : Option W64) : Tab W64 :=
  match x with
  | some a => tabPut t k a
  | none => tabDel t k

/-- Push one latch entry in each lane of the fragment: the result of the lane, or lost (R53). -/
def pushLatch (g : Gang) (m : Mask) (due : Nat) (res : Nat → Option W64) : Gang :=
  let step (t : Tab W64) (l : Nat) : Tab W64 :=
    let t := latchSet t (4 * l + 3) (tabFind t (4 * l + 2))
    let t := latchSet t (4 * l + 2) (tabFind t (4 * l + 1))
    let t := latchSet t (4 * l + 1) (tabFind t (4 * l))
    latchSet t (4 * l) (res l)
  { g with latch := (lanesOf m).foldl step g.latch, latchDue := due :: (g.latchDue.take 3) }

/-- Indices of the stall counters (R106). -/
def stallLatency : Nat := 0
def stallGload : Nat := 1
def stallPadteam : Nat := 2
def stallParked : Nat := 3
def stallTier : Nat := 4
def stallCopyq : Nat := 5
def stallMatq : Nat := 6
def stallMbatch : Nat := 7
def stallBarrier : Nat := 8
def stallGroup : Nat := 9
def stallCensus : Nat := 10
def stallJoin : Nat := 11
def stallPause : Nat := 12
def stallFragment : Nat := 13
def stallFetch : Nat := 14
def stallOther : Nat := 15

/-- Count a turn under a stall counter, saturating (R106). -/
def countStall (g : Gang) (r : Nat) : Gang :=
  let n := tabGet g.stalls r 0
  { g with
    stalls := tabPut g.stalls r (if n = BitVec.allOnes 32 then n else n + 1)
    lastStall := some r
    issued := false }

/-- A switch point: latches are lost, and the slot is handed over at the gang's next turn (R29, R54). -/
def switchPoint (g : Gang) : Gang := { loseLatches g with handover := .switched }

/-- What issuing one instruction does to the gang besides its own effect: its place in the issue order, its issue
interval, and the end of a handover, of breakpoint suppression and of one instruction of a debug step (R23, R29, R101). An
instruction of the program buffer counts as any other (log 22). -/
def tickIssue (g : Gang) (interval : Nat) : Gang :=
  { g with
    seq := g.seq + 1
    issueAt := g.turn + interval
    handover := .closed
    skipBp := false
    issued := true
    stepLeft := g.stepLeft.map (· - 1)
    pend := g.pend.filter fun p => match p.due with
      | .turn t => decide (g.turn < t)
      | .access _ => true }

/-- The next PC of the executing fragment; a stuffed instruction leaves it (R105). -/
def setPc (i : Issue) (g : Gang) (pc : W64) : Gang :=
  match i.cur.stuffed with
  | some _ => { g with handover := i.g.handover }
  | none => { g with frags := tabUpd g.frags i.cur.entry fun f => { f with pc := pc, words := [] } }

/-- A fragment waits at its instruction (R29). -/
def setWait (i : Issue) (g : Gang) (w : Wait) : Gang :=
  { g with frags := tabUpd g.frags i.cur.entry fun f => { f with wait := w } }

/-- Finish an instruction of `len` bytes with interval 1 that left gang `g`: the fragment goes on behind it. -/
def finish (s : State) (i : Issue) (g : Gang) (len : Nat) : Answer :=
  .next (putGang s i.cur.gang (setPc i (tickIssue g 1) (i.f.pc + BitVec.ofNat 64 len)))

/-- A program buffer runs no more: DBUFST says at which entry and why (R105, R108). -/
def endBuffer (s : State) (core index cause tcause : Nat) : State :=
  let v := BitVec.ofNat 64 ((if cause = 0 then 2 else 3) + 4 * index + 64 * cause + 256 * tcause)
  { setReg s (.debug core 0x208) v with stuffing := tabDel s.stuffing core }

/-- Stop a running program buffer: its gang has the latches of GO again (R105). -/
def stopBuffer (s : State) (core index cause tcause : Nat) : State :=
  match tabFind s.stuffing core with
  | none => s
  | some st =>
    endBuffer (match tabFind s.gangs st.gang with
      | some g => putGang s st.gang { g with latch := st.latch, latchDue := st.latchDue }
      | none => s) core index cause tcause

/-- TRAPV of the gang's context (R229, R240). -/
def trapVector (s : State) (i : Issue) : W64 :=
  match tabFind s.ctxs i.b.ctx with
  | some c => c.trapv
  | none => 0

/-- The value of TSTAT for a trap (R242). -/
def trapStatus (cause step field entry : Nat) : W64 :=
  BitVec.ofNat 64 (cause + 256 * step + 4096 * field + 65536 * entry)

/-- The payload of a GANGHALT record (R396). -/
def haltPayload (i : Issue) (tstat tval pc : W64) : List Byte :=
  leBytes 8 tstat.toNat ++ leBytes 8 tval.toNat ++ leBytes 8 pc.toNat ++ leBytes 2 i.b.core ++ leBytes 1 i.g.gid ++
  leBytes 1 0 ++ leBytes 4 i.b.launch ++ leBytes 4 i.b.cx.toNat ++ leBytes 2 i.b.cy.toNat ++ leBytes 2 i.b.cz.toNat

/-- A trap halts the gang at the turn on which its instruction issued: nothing of TPC, TSTAT and TVAL is written, and a GANGHALT
record carries them (R107, R246, R248). -/
def haltGang (s : State) (i : Issue) (tstat tval : W64) : State :=
  let s := putGang s i.cur.gang { i.g with halted := true, issued := true }
  raiseEvent s (sourceId 3 i.b.core) 0x0011 (contextRing s i.b.ctx) (haltPayload i tstat tval i.f.pc) i.b.world

/-- Trap causes (R242). -/
def causeIllegal : Nat := 1
def causeIllreg : Nat := 2
def causeTrap : Nat := 3
def causeDbgb : Nat := 4
def causeNestwide : Nat := 5
def causeRespsol : Nat := 6

/-- Taking a trap (R246), with the return address the cause saves. A trap of a program-buffer entry stops the buffer at a
turn that counts under OTHER, and changes nothing else (R105, R106); one with TM set or without a vector halts the gang (R248). -/
def takeTrap (s : State) (i : Issue) (cause step field : Nat) (value : W64) : State :=
  let tstat := trapStatus cause step field i.cur.entry
  match i.cur.stuffed with
  | some _ =>
    match tabFind s.stuffing i.b.core with
    | some st => stopBuffer (putGang s i.cur.gang (countStall i.g stallOther)) i.b.core (st.next - 1) 2 cause
    | none => s
  | none =>
    if gstatTm i.g || trapVector s i == 0 then haltGang s i tstat value
    else
      let g := { i.g with
        tpc := if cause = causeTrap ∨ cause = causeDbgb then i.f.pc + 4 else i.f.pc
        tstat := tstat
        tval := value
        gstat := i.g.gstat ||| 0x100
        issueAt := i.g.turn + 1
        handover := .closed
        skipBp := false
        issued := true
        stepLeft := i.g.stepLeft.map (· - 1) }
      putGang s i.cur.gang (setPc i g (trapVector s i))

/-- A trap that decoding or the gang's state raises, with the words as TVAL (R59, R242). -/
def trapIllegal (s : State) (i : Issue) (step : Nat) : Answer :=
  .next (takeTrap s i causeIllegal step 0 (trapWords i.cur.words))

/-- Returning from a trap (R247). -/
def returnTrap (s : State) (i : Issue) : State :=
  let g := tickIssue { i.g with gstat := i.g.gstat &&& ~~~(0x100 : W64) } 1
  putGang s i.cur.gang (setPc i g i.g.tpc)

/-- Smallest power of two not below `n`; 0 for 0 (R166). -/
def padPower (n : Nat) : Nat := if n = 0 then 0 else ((List.range 20).map (2 ^ ·)).find? (fun p => decide (n ≤ p)) |>.getD (2 ^ 20)

/-- The byte of a block's allocation that a pad offset names, if any (R166). -/
def padByteIx (b : Block) (o : Nat) : Option Nat :=
  let p := padPower b.padSize
  if p = 0 then none else if o % p < b.padSize then some (o % p) else none

/-- A pad byte; outside the allocation it reads 0 (R166). -/
def padByte (b : Block) (o : Nat) : Byte :=
  match padByteIx b o with
  | some e => memByte b.pad e
  | none => 0

/-- Pad bytes from an offset on. -/
def padBytes (b : Block) (o n : Nat) : List Byte := (List.range n).map fun i => padByte b (o + i)

/-- Write pad bytes; those outside the allocation are dropped (R166). -/
def padPuts (b : Block) (o : Nat) (bs : List Byte) : Block :=
  match bs with
  | [] => b
  | x :: r =>
    match padByteIx b o with
    | some e => padPuts { b with pad := memPut b.pad e x } (o + 1) r
    | none => padPuts b (o + 1) r

/-- Every byte of an access lies inside the allocation (R166). -/
def padInside (b : Block) (o n : Nat) : Bool := (List.range n).all fun i => (padByteIx b (o + i)).isSome

/-- The gang's context is the one a core's debug unit serves (R98). -/
def debugServes (s : State) (b : Block) : Bool :=
  regField s (.debug b.core 0) 0 0 == 1 && regField s (.debug b.core 0) 31 16 == b.ctx

/-- Debug permission of a context's world: the system world, or a binding that permits it (R98, R367). -/
def debugPermitted (s : State) (ctx : Nat) (world : BitVec 16) : Bool :=
  world == 0 || (match tabFind s.island.binds ctx with
    | some b => b.debug
    | none => false)

/-- An instruction set PADR: the debug unit of the core counts it for the context it serves (R108, R166). -/
def countPadr (s : State) (b : Block) : State :=
  if regField s (.debug b.core 0) 31 16 == b.ctx then countField s (.debug b.core 0x020) 31 0 else s

/-- PADR is set for an instruction of a gang and counted (R166). -/
def flagPadr (s : State) (key : Nat) : State :=
  match tabFind s.gangs key with
  | some g =>
    let s := putGang s key (raiseGstat g gstatPadr)
    match tabFind s.blocks g.block with
    | some b => countPadr s b
    | none => s
  | none => s

/-- Gangs of a block that are not retired, in ascending gang.id (R12). -/
def liveGangs (s : State) (uid : Nat) : List (Nat × Gang) :=
  s.gangs.filter fun e => e.2.block == uid && !e.2.retired

/-- Gangs of a context that are not retired. -/
def ctxGangs (s : State) (ctx : Nat) : List (Nat × Gang) :=
  s.gangs.filter fun e => !e.2.retired && (match tabFind s.blocks e.2.block with
    | some b => b.ctx == ctx
    | none => false)

/-- The context is being restored: its blocks have their places and are still to be read from the image (R252). -/
def restoring (s : State) (ctx : Nat) : Bool :=
  match tabFind s.ctxs ctx with
  | some c => c.st == .restoring
  | none => false

/-- Blocks of a context on the device. -/
def ctxBlocks (s : State) (ctx : Nat) : List (Nat × Block) := s.blocks.filter fun e => e.2.ctx == ctx

/-- A size rounded up to 4 KiB. -/
def round4k (n : Nat) : Nat := (n + 4095) / 4096 * 4096

/-- Bytes of a block's area in a save image (R250). -/
def blockArea (b : Block) : Nat :=
  round4k (1024 + b.gangs * (4096 + 128 * b.regs) + round4k b.padSize + 16384 * b.acc)

/-- Bytes of the save image of some blocks (R250). -/
def imageSize (bs : List Block) : Nat := round4k (0x100 + 8 * bs.length) + (bs.map blockArea).foldl (· + ·) 0

/-- The image of a context fits its SAVESZ (R229). -/
def imageFits (s : State) (ctx : Nat) : Bool :=
  match tabFind s.ctxs ctx with
  | some c => decide (imageSize ((ctxBlocks s ctx).map (·.2)) ≤ c.saveSz)
  | none => false

end Sys2Proof.Machine
end

