-- ==== Sys2Proof/Machine/Operands.lean ====
section
/-! DEFINITION. Operand forms: source codes (R50, R51), special values (R16), the register checks of R52, and the registers
that an instruction reads and writes (R22). -/

namespace Sys2Proof.Machine

/-- Special values (R16), by code above 0x2C0. -/
def specialValue (i : Issue) (n l : Nat) : W64 :=
  match n with
  | 0 => BitVec.ofNat 64 l
  | 1 => BitVec.ofNat 64 (l / 4)
  | 2 => if i.g.helper.getLsbD l then 1 else 0
  | 3 => BitVec.ofNat 64 i.g.gid
  | 4 => BitVec.ofNat 64 i.b.gangs
  | 5 => i.b.cx.setWidth 64
  | 6 => i.b.cy.setWidth 64
  | 7 => i.b.cz.setWidth 64
  | 8 => BitVec.ofNat 64 i.b.rank
  | 9 => i.b.gx.setWidth 64
  | 10 => i.b.gy.setWidth 64
  | 11 => i.b.gz.setWidth 64
  | 12 => i.b.sx.setWidth 64
  | 13 => i.b.sy.setWidth 64
  | 14 => i.b.sz.setWidth 64
  | 15 => BitVec.ofNat 64 i.b.core
  | 16 => i.b.world.setWidth 64
  | _ => BitVec.ofNat 64 i.b.ctx

/-- Low 32 bits, zero-extended. -/
def low32 (x : W64) : W64 := (x.setWidth 32).setWidth 64

/-- Latch `k` of lane `l`; a lost one reads 0 (R53, R54). -/
def latchVal (g : Gang) (k l : Nat) : W64 := tabGet g.latch (4 * l + k) 0

/-- A pair of lane registers as one 64-bit value (R58). -/
def vpair (g : Gang) (n l : Nat) : W64 := vreg g (n + 1) l ++ vreg g n l

/-- The value a source code supplies to lane `l` under a type: 32-bit types in the low half (R50). -/
def srcVal (i : Issue) (code ty : Nat) (imm : BitVec 22) (l : Nat) : W64 :=
  if code < 0x200 then if is64 ty then vpair i.g code l else (vreg i.g code l).setWidth 64
  else if code < 0x204 then if is64 ty then latchVal i.g (code - 0x200) l else low32 (latchVal i.g (code - 0x200) l)
  else if code = 0x204 then 0
  else if code = 0x205 then if is64 ty then imm.signExtend 64 else (imm.signExtend 32).setWidth 64
  else if code = 0x206 then
    if ty = 5 then BitVec.ofNat 64 (widen32 (imm.toNat * 2 ^ 10)) else BitVec.ofNat 64 (imm.toNat * 2 ^ 10)
  else if code < 0x280 then
    let x := sreg i.g (BitVec.ofNat 6 (code - 0x240))
    if ty = 3 then (x.setWidth 32).signExtend 64 else low32 x
  else specialValue i (code - 0x2C0) l

/-- A 64-bit address operand: a pair, a latch or a scalar in full, or zr (R51). -/
def addrVal (i : Issue) (code l : Nat) : W64 :=
  if code < 0x200 then vpair i.g code l
  else if code < 0x204 then latchVal i.g (code - 0x200) l
  else if code = 0x204 then 0
  else sreg i.g (BitVec.ofNat 6 (code - 0x240))

/-- A source code names a latch that is lost in some lane of a mask: the active lanes, so that an instruction without an active
lane reads no latch (R54; log 43). -/
def readsLost (i : Issue) (m : Mask) (code : Nat) : Bool :=
  decide (0x200 ≤ code) && decide (code < 0x204) &&
  (lanesOf m).any fun l => (tabFind i.g.latch (4 * l + (code - 0x200))).isNone

/-- Registers a source field names: first and how many, and whether an odd first register is a breach (R52). -/
def srcGroup (u : SrcUse) (code ty mod : Nat) : Option (Nat × Nat × Bool) :=
  if 512 ≤ code then none
  else match u with
    | .unused | .opcode | .raw | .scal | .scale => none
    | .val | .bcast => if is64 ty then some (code, 2, true) else some (code, 1, false)
    | .val32 | .offset => some (code, 1, false)
    | .addr => if bitsN mod 2 0 = 0 ∨ bitsN mod 2 0 = 4 then some (code, 2, true) else some (code, 1, false)
    | .data =>
      if accessWidth ty mod = 16 then some (code, 4, false)
      else if is64 ty then some (code, 2, true) else some (code, 1, false)
    | .quad => some (code, 4, false)
    | .mat32 => some (code, 32, false)
    | .matB => some (code, if narrowB (bitsN mod 3 0) (bitsN mod 7 4) then 16 else 32, false)
    | .bitmap | .target => some (code, 2, true)

/-- Registers the dst field names (R52, R188). -/
def dstGroup (r : LaneRow) (f : Lane) : Option (Nat × Nat × Bool) :=
  let n := f.dst.toNat
  match r.dst with
  | .typed => if is64 f.ty.toNat then some (n, 2, true) else some (n, 1, false)
  | .one => some (n, 1, false)
  | .width =>
    let w := accessWidth f.ty.toNat f.mod.toNat
    if w = 16 then some (n, 4, false) else if w = 8 then some (n, 2, true) else some (n, 1, false)
  | _ => none

/-- The breach of one register group: the field's code, 7 for an implied register, or 0 (R52, R242). -/
def groupBreach (regs field : Nat) (quad : Bool) (grp : Option (Nat × Nat × Bool)) : Nat :=
  match grp with
  | none => 0
  | some (n, k, even) =>
    if regs ≤ n then field
    else if (even && n % 2 == 1) || (quad && n % 4 != 0) then field
    else if regs < n + k then 7 else 0

/-- The type that a lane instruction's sources have: the source type of CVT and CVTP, else its own (R145, R146). -/
def srcType (r : LaneRow) (ty m : Nat) : Nat := if r.cls = 3 ∧ r.op ≤ 1 then bitsN m 3 0 else ty

/-- The first breach of R52 of a lane instruction: the FIELD code of R242, or 0. -/
def laneBreach (row : LaneRow) (f : Lane) (regs acc : Nat) : Nat :=
  let ty := f.ty.toNat
  let m := f.mod.toNat
  let r := laneUse row ty m
  let d := match r.dst with
    | .tile => if acc ≤ f.dst.toNat then 5 else 0
    | _ => groupBreach regs 1 false (dstGroup r f)
  let st := srcType r ty m
  let a := groupBreach regs 2 (r.a == .quad) (srcGroup r.a f.a.toNat st m)
  let b := groupBreach regs 3 false (srcGroup r.b f.b.toNat st m)
  let c := groupBreach regs 4 false (srcGroup r.c f.c.toNat st m)
  if d ≠ 0 then d else if a ≠ 0 then a else if b ≠ 0 then b else c

/-- Lane registers of a group. -/
def groupRegs (grp : Option (Nat × Nat × Bool)) : List RegName :=
  match grp with
  | none => []
  | some (n, k, _) => (List.range k).map fun j => .v (n + j)

/-- Scalar register a source code names. -/
def codeScalar (u : SrcUse) (code : Nat) : List RegName :=
  if isSource u && decide (0x240 ≤ code) && decide (code < 0x280) then [.s (code - 0x240)] else []

/-- A predicate other than k0. -/
def predName (k : BitVec 3) : List RegName := if k = 0 then [] else [.k k.toNat]

/-- Predicates a lane op reads besides its guard (R139, R140, R153). -/
def modPreds (r : LaneRow) (m : Nat) : List RegName :=
  if r.cls = 1 ∧ r.op = 2 then predName (BitVec.ofNat 3 m) ++ predName (BitVec.ofNat 3 (m / 8))
  else if r.cls = 1 ∧ r.op = 4 then (List.range 7).map fun j => .k (j + 1)
  else if r.cls = 1 ∧ r.op = 5 then predName (BitVec.ofNat 3 m)
  else if r.cls = 4 ∧ r.op = 2 then predName (BitVec.ofNat 3 (m / 4))
  else []

/-- Registers a lane instruction writes; with nwb no lane register (R55). -/
def laneWrites (row : LaneRow) (f : Lane) : List RegName :=
  let r := laneUse row f.ty.toNat f.mod.toNat
  (if f.nwb then [] else groupRegs (dstGroup r f)) ++ (if r.kd then predName f.kd else []) ++
  (if r.dst == .scalar && f.dst != 0 then [.s f.dst.toNat] else [])

/-- Registers a lane instruction reads or writes (R22). -/
def laneUses (row : LaneRow) (f : Lane) : List RegName :=
  let ty := f.ty.toNat
  let m := f.mod.toNat
  let r := laneUse row ty m
  let st := srcType r ty m
  groupRegs (srcGroup r.a f.a.toNat st m) ++ groupRegs (srcGroup r.b f.b.toNat st m) ++
  groupRegs (srcGroup r.c f.c.toNat st m) ++ codeScalar r.a f.a.toNat ++ codeScalar r.b f.b.toNat ++
  codeScalar r.c f.c.toNat ++ predName f.guard ++ modPreds r m ++ laneWrites row f

/-- Latches a lane instruction reads. -/
def laneLatches (row : LaneRow) (f : Lane) : List Nat :=
  let r := laneUse row f.ty.toNat f.mod.toNat
  ([(r.a, f.a), (r.b, f.b), (r.c, f.c)].filter fun p =>
    isSource p.1 && decide (0x200 ≤ p.2.toNat) && decide (p.2.toNat < 0x204)).map fun p => p.2.toNat - 0x200

/-- A scalar register other than s0. -/
def scalarName (n : BitVec 6) : List RegName := if n = 0 then [] else [.s n.toNat]

/-- Lane and row of a lane instruction. -/
def laneRowOf (cls op : Nat) (f : Lane) : Option (LaneRow × Lane) := (laneRow? cls op).map fun r => (r, f)

end Sys2Proof.Machine
end

