-- ==== Sys2Proof/Machine/Flags.lean ====
section
/-! DEFINITION. The flags a lane instruction raises (R126), and the common form of lane instructions: register checks, active
lanes, the write of the result, the latch it pushes and the flags it raises (R48, R52 to R55, R132). -/

namespace Sys2Proof.Machine

/-- The sticky bits of GSTAT that an operation's flags set (R241). -/
def flagBits (f : FFlags) : W64 :=
  BitVec.ofNat 64 (f.nx.toNat + 2 * f.uf.toNat + 4 * f.of.toNat + 8 * f.dz.toNat + 16 * f.nv.toNat)

/-- FPCTL.RM, codes 1 to 5 (R124). -/
def fpMode (g : Gang) : Nat := wbits g.fpctl 2 0

/-- A rounding field: code 0 means FPCTL.RM (R62, R119). -/
def roundMode (g : Gang) (code : Nat) : Nat := if code = 0 then fpMode g else code

/-- Flush bits of FPCTL (R123, R124). -/
def fz32 (g : Gang) : Bool := g.fpctl.getLsbD 3
def fz16 (g : Gang) : Bool := g.fpctl.getLsbD 4
def fz64 (g : Gang) : Bool := g.fpctl.getLsbD 5

/-- Flags of several lanes together. -/
def sumFlags (xs : List FFlags) : FFlags := xs.foldl orFlags noFlags

/-- The row of an op of the lane opcode map; every call names an assigned op. -/
def laneRowD (cls op : Nat) : LaneRow :=
  (laneRow? cls op).getD ⟨cls, op, [], .unused, .unused, .unused, .unused, false, false⟩

/-- Write a result to the registers of a destination group (R58). -/
def writeGroup (g : Gang) (grp : Option (Nat × Nat × Bool)) (l : Nat) (x : W64) : Gang :=
  match grp with
  | none => g
  | some (n, 1, _) => setVreg g n l (x.setWidth 32)
  | some (n, _, _) => setVreg (setVreg g n l (x.setWidth 32)) (n + 1) l ((x >>> 32).setWidth 32)

/-- The old value of a destination group, as a latch holds it (R53). -/
def readGroup (g : Gang) (grp : Option (Nat × Nat × Bool)) (l : Nat) : W64 :=
  match grp with
  | none => 0
  | some (n, 1, _) => (vreg g n l).setWidth 64
  | some (n, _, _) => vpair g n l

/-- A source names a latch that is lost in some lane of a mask (R54). -/
def lostSource (i : Issue) (r : LaneRow) (f : Lane) (m : Mask) : Bool :=
  (isSource r.a && readsLost i m f.a.toNat) || (isSource r.b && readsLost i m f.b.toNat) ||
  (isSource r.c && readsLost i m f.c.toNat)

/-- GSTAT.LATCH is set when a source names a lost latch (R54). -/
def noteLost (i : Issue) (r : LaneRow) (f : Lane) (m : Mask) (g : Gang) : Gang :=
  if lostSource i r f m then raiseGstat g gstatLatch else g

/-- A lane instruction passes the register checks, or takes the illegal-register trap (R52, step 8 of R59). -/
def withRegs (s : State) (i : Issue) (row : LaneRow) (f : Lane) (k : Answer) : Answer :=
  match laneBreach row f i.b.regs i.b.acc with
  | 0 => k
  | field => .next (takeTrap s i causeIllreg 8 field (trapWords i.cur.words))

/-- Finish a lane instruction with a latency and an issue interval in turns (R23). -/
def finishLane (s : State) (i : Issue) (g : Gang) (interval : Nat) : Answer :=
  .next (putGang s i.cur.gang (setPc i (tickIssue g interval) (i.f.pc + 12)))

/-- Destination registers are pending until a later turn (R22, R23). -/
def pendUntil (g : Gang) (rs : List RegName) (lat : Nat) : Gang :=
  if lat ≤ 1 then g
  else { g with
    pend := g.pend ++ rs.map fun r => { reg := r, due := .turn (g.turn + lat) }
    flagsDue := max g.flagsDue (g.turn + lat) }

/-- A lane instruction that writes a lane register: one result and its flags per active lane, and whether a lost latch is read
(R53, R54, R55, R126, R132). Its flags are in GSTAT from its issue on, and SRD waits until its last turn; a SWR or SCLRB of GSTAT that
issues before then clears them, of which the spec says nothing (DESIGN CHOICE, log 46). The upper 32 bits of the latch entry of a 32-bit
result or old destination are not stated either, and are 0 here (DESIGN CHOICE, log 46). -/
def laneOpWith (s : State) (cls op : Nat) (f : Lane) (lat interval : Nat) (lost : Issue → LaneRow → Mask → Bool)
    (compute : Issue → Nat → W64 × FFlags) : Answer :=
  onIssue s fun i =>
    let row := laneRowD cls op
    withRegs s i row f <|
      let r := laneUse row f.ty.toNat f.mod.toNat
      let act := activeMask i f.guard f.neg
      let grp := dstGroup r f
      let fl := sumFlags ((lanesOf (workMask i f.guard f.neg)).map fun l => (compute i l).2)
      let g := if f.nwb then i.g
        else (lanesOf act).foldl (fun g l => writeGroup g grp l (compute i l).1) i.g
      let g := if f.nwb then g else pendUntil g (groupRegs grp) lat
      let g := pushLatch g (lanesMask i) (g.turn + lat) fun l =>
        some (if act.getLsbD l then (compute i l).1 else if f.nwb then 0 else readGroup i.g grp l)
      let g := raiseGstat (if lost i r act then raiseGstat g gstatLatch else g) (flagBits fl)
      finishLane s i { g with flagsDue := max g.flagsDue (g.turn + lat) } interval

/-- A lane instruction whose result in a lane depends on that lane's sources (R53, R55, R126, R132). -/
def laneOp (s : State) (cls op : Nat) (f : Lane) (lat interval : Nat) (compute : Issue → Nat → W64 × FFlags) : Answer :=
  laneOpWith s cls op f lat interval (fun i r m => lostSource i r f m) compute

/-- A lane instruction that writes predicate kd in the active lanes and pushes a lost latch entry (R53, R138, R139). -/
def predOp (s : State) (cls op : Nat) (f : Lane) (lat interval : Nat) (compute : Issue → Nat → Bool × FFlags) : Answer :=
  onIssue s fun i =>
    let row := laneRowD cls op
    withRegs s i row f <|
      let r := laneUse row f.ty.toNat f.mod.toNat
      let act := activeMask i f.guard f.neg
      let fl := sumFlags ((lanesOf (workMask i f.guard f.neg)).map fun l => (compute i l).2)
      let g := setPreds i.g f.kd act (maskOf fun l => act.getLsbD l && (compute i l).1)
      let g := pendUntil g (predName f.kd) lat
      let g := pushLatch g (lanesMask i) g.turn fun _ => none
      let g := raiseGstat (noteLost i r f act g) (flagBits fl)
      finishLane s i { g with flagsDue := max g.flagsDue (g.turn + lat) } interval

end Sys2Proof.Machine
end

