-- ==== Sys2Proof/Machine/Frags.lean ====
section
/-! DEFINITION. Fragments of a gang: splits, join records, WIDE brackets, retirement of lanes (R25 to R32, R84 to R87, R94),
and the registers an instruction reads and writes (R22). -/

namespace Sys2Proof.Machine

/-- Lanes grouped by next PC, in ascending order of their lowest lane (R26). -/
def addGroup (gs : List (W64 × Mask)) (pc : W64) (l : Nat) : List (W64 × Mask) :=
  match gs with
  | [] => [(pc, laneBit l)]
  | (p, m) :: r => if p = pc then (p, m ||| laneBit l) :: r else (p, m) :: addGroup r pc l

/-- The groups of a fragment's lanes under a next PC per lane. -/
def pcGroups (m : Mask) (next : Nat → W64) : List (W64 × Mask) :=
  (lanesOf m).foldl (fun gs l => addGroup gs (next l) l) []

/-- Put the further fragments of a split into the lowest free entries (R26). -/
def putGroups (frags : Tab Frag) (gs : List (W64 × Mask)) (link : Option Nat) : Tab Frag :=
  match gs with
  | [] => frags
  | (pc, m) :: r =>
    match tabFree frags 32 with
    | some e => putGroups (tabPut frags e { pc := pc, mask := m, link := link, wait := .running, words := [] }) r link
    | none => putGroups frags r link

/-- Split an entry's fragment by next PC with a join target (R26). -/
def splitFrag (g : Gang) (entry : Nat) (f : Frag) (gs : List (W64 × Mask)) (target : W64) : Gang :=
  match gs with
  | [] => g
  | [(pc, _)] => putFrag g entry { f with pc := pc, words := [] }
  | (pc, m) :: r =>
    let link := match tabFree g.joins 32 with
      | some j => some j
      | none => f.link
    let joins := match tabFree g.joins 32 with
      | some j => tabPut g.joins j { target := target, expected := f.mask, arrived := 0, encl := f.link }
      | none => g.joins
    let frags := tabPut g.frags entry { pc := pc, mask := m, link := link, wait := .running, words := [] }
    loseLatches { g with joins := joins, frags := putGroups frags r link }

/-- Fragments that wait in a join record, by entry. -/
def joinWaiters (g : Gang) (j : Nat) : List (Nat × Frag) := g.frags.filter fun e => e.2.wait == .join j

/-- Fuse the fragments of one record once its arrived mask covers its expected mask less the retired lanes (R27, R28). The slot passes
by R29 alone, from the entry of the JOIN or EXIT that issued: the fused fragment issues at the gang's next turn, as R86 says, unless the
search finds another ready fragment first, without which R30's bound would not hold (DEDUCED, log 16). -/
def fuseJoin (g : Gang) (j : Nat) (r : JoinRec) : Gang :=
  if r.expected &&& g.live &&& ~~~r.arrived = 0 then
    match joinWaiters g j with
    | [] => { g with joins := tabDel g.joins j }
    | (e, f) :: ws =>
      let m := ws.foldl (fun m w => m ||| w.2.mask) f.mask
      let frags := ws.foldl (fun t w => tabDel t w.1) g.frags
      loseLatches { g with
        joins := tabDel g.joins j
        frags := tabPut frags e { pc := r.target + 4, mask := m, link := r.encl, wait := .running, words := [] } }
  else g

/-- Fuse every record that is complete. -/
def fuseJoins (g : Gang) : Gang := g.joins.foldl (fun g e => fuseJoin g e.1 e.2) g

/-- Every fragment of the gang waits at the same instruction, with one kind of wait. -/
def allAt (g : Gang) (w : Wait) : Bool :=
  match g.frags with
  | [] => false
  | (_, f) :: r => f.wait == w && r.all fun e => e.2.wait == w && e.2.pc == f.pc

/-- The PC of the gang's first fragment. -/
def firstPc (g : Gang) : W64 :=
  match g.frags with
  | [] => 0
  | (_, f) :: _ => f.pc

/-- Open a WIDE bracket when every fragment waits at one WIDE (R31). -/
def openWide (g : Gang) : Gang :=
  if !gstatWide g && allAt g .wide then
    loseLatches { raiseGstat g 0x400 with
      saved := g.frags
      cur := 0
      frags := [(0, { pc := firstPc g + 4, mask := g.live &&& ~~~g.helper, link := none, wait := .running, words := [] })] }
  else g

/-- Close a WIDE bracket when every live lane of it waits at one ENDW; the restored fragments then issue in the order of the split
table, from the entry of the ENDW that issued last on (R29, R32, R87; log 16). -/
def closeWide (g : Gang) : Gang :=
  if gstatWide g && allAt g .endw then
    let pc := firstPc g + 4
    let back := (tabKeep g.saved fun f => f.mask &&& g.live != 0).map fun e =>
      (e.1, { e.2 with pc := pc, mask := e.2.mask &&& g.live, wait := .running, words := [] })
    fuseJoins (loseLatches { g with gstat := g.gstat &&& ~~~(0x400 : W64), saved := [], frags := back })
  else g

/-- What the arrival or retirement of lanes completes within the gang: fusions, WIDE and ENDW (R27, R28, R31, R32). -/
def settle (g : Gang) : Gang := closeWide (openWide (fuseJoins g))

/-- Retire lanes: fragments lose them, and a fragment without a lane frees its entry (R28). -/
def retireLanes (g : Gang) (m : Mask) : Gang :=
  { g with
    live := g.live &&& ~~~m
    frags := (tabKeep g.frags fun f => f.mask &&& ~~~m != 0).map fun e => (e.1, { e.2 with mask := e.2.mask &&& ~~~m }) }

/-- A gang that retires: no fragment, no live lane, no monitor (R12, R40, R197). -/
def retireGang (g : Gang) : Gang :=
  { g with
    live := 0
    frags := []
    saved := []
    joins := []
    pend := []
    monitor := none
    monPa := none
    fence := none
    pausing := false
    held := none
    retired := true }

/-- Split-table entries from the one after `e`, wrapping round (R29). -/
def entriesAfter (e : Nat) : List Nat := (List.range 32).map fun j => (e + 1 + j) % 32

/-- A switch point of the executing fragment; from the program buffer only the latches are lost (R29, R54, R105). -/
def switchAt (i : Issue) (g : Gang) : Gang :=
  match i.cur.stuffed with
  | some _ => loseLatches g
  | none => switchPoint g

/-- Scalar registers and predicates that a scalar instruction reads or writes (R22, R60). -/
def scalarUses (i : Instr) : List RegName :=
  match i with
  | .jal sd _ => scalarName sd
  | .jalr sd sa _ => scalarName sd ++ scalarName sa
  | .beq sa sb _ | .bne sa sb _ | .blt sa sb _ | .bge sa sb _ | .bltn sa sb _ | .bgen sa sb _ =>
    scalarName sa ++ scalarName sb
  | .bany p _ | .ball p _ | .bnone p _ => predName p
  | .sadd d a b | .ssub d a b | .smul d a b | .smulh d a b | .smulhn d a b | .sand d a b | .sor d a b | .sxor d a b
  | .sshl d a b | .sshr d a b | .ssra d a b | .smin d a b | .smax d a b | .sminn d a b | .smaxn d a b | .sslt d a b
  | .ssltn d a b => scalarName d ++ scalarName a ++ scalarName b
  | .sclz d a | .spopc d a => scalarName d ++ scalarName a
  | .saddi d a _ | .sandi d a _ | .sori d a _ | .sxori d a _ | .sshli d a _ | .sshri d a _ | .ssrai d a _
  | .sslti d a _ => scalarName d ++ scalarName a
  | .slui d _ | .saddpc d _ | .smovi d _ | .sins16 d _ => scalarName d
  | .sldw d a _ | .sldd d a _ | .sstw d a _ | .sstd d a _ | .sldp d a _ | .sstp d a _ => scalarName d ++ scalarName a
  | .sldk k a _ => predName k ++ scalarName a
  | .srd d _ | .swr d _ | .ssetb d _ | .sclrb d _ => scalarName d
  | .srdx d a _ => scalarName d ++ scalarName a
  | .swait a _ => scalarName a
  | .monw a _ => scalarName a
  | .mwaitv d a => scalarName d ++ scalarName a
  | .cmo a b _ => scalarName a ++ scalarName b
  | .tcopy a | .tcopym a | .mwait a | .gleave a => scalarName a
  | .barinit a b | .bararr a b _ | .barwait a b | .respond a b => scalarName a ++ scalarName b
  | .mbatch d => scalarName d
  | .genrol d a b | .gload d a b | .gput d a b | .solicit d a b | .diradd d a b | .dirmov d a b =>
    scalarName d ++ scalarName a ++ scalarName b
  | .cwait d a | .dirdel d a => scalarName d ++ scalarName a
  | _ => []

/-- Registers and predicates an instruction reads or writes (R22); REGROUP is not held by them (R34). -/
def instrUses (i : Instr) : List RegName :=
  match laneParts? i with
  | some (cls, op, f) =>
    match laneRow? cls op with
    | some r => laneUses r f
    | none => []
  | none => scalarUses i

/-- Latches an instruction reads. -/
def instrLatches (i : Instr) : List Nat :=
  match laneParts? i with
  | some (cls, op, f) =>
    match laneRow? cls op with
    | some r => laneLatches r f
    | none => []
  | none => []

/-- Registers an instruction writes, for the operand holds of the matrix queue; REGROUP writes its range (R35, R294). -/
def instrWrites (i : Instr) : List RegName :=
  match i with
  | .regroup vfirst vlast _ _ => (List.range (vlast.toNat + 1 - vfirst.toNat)).map fun n => .v (vfirst.toNat + n)
  | i => match laneParts? i with
    | some (cls, op, f) =>
      match laneRow? cls op with
      | some r => laneWrites r f
      | none => []
    | none => []

end Sys2Proof.Machine
end

