-- ==== Sys2Proof/Machine/Access.lean ====
section
/-! DEFINITION. Memory accesses of gangs: addresses, the requests an instruction issues, path counters and pending registers
(R165 to R169, R183 to R188, R193, R230). -/

namespace Sys2Proof.Machine

/-- What an instruction's accesses are (R64, R193, R195). -/
structure Want where
  path   : Option Nat
  sets   : Sets
  order  : Order
  scope  : Nat
  space  : Space
  kind   : ReqKind
  dest   : Dest
  mask   : Mask
  urgent : Bool
  deriving DecidableEq, Repr

/-- FENCE sets of a read, of a write, and of both (R195). -/
def setsR : Sets := ⟨true, false, false, false⟩
def setsW : Sets := ⟨false, true, false, false⟩
def setsRW : Sets := ⟨true, true, false, false⟩
def setsNone : Sets := ⟨false, false, false, false⟩

/-- Space, order and scope of a mod field (R64); a scope wider than its space can use is the widest it has (R185). -/
def spaceOf (m : Nat) : Space :=
  match bitsN m 2 0 with
  | 0 => .g | 1 => .p | 2 => .c | 3 => .h | _ => .x

/-- Order code (R64). -/
def orderOf (m : Nat) : Order :=
  match bitsN m 4 3 with
  | 0 => .rlx | 1 => .acq | 2 => .rel | _ => .ar

/-- Scope code, capped by the space (R185). -/
def scopeOf (sp : Space) (m : Nat) : Nat :=
  match sp with
  | .p | .c => min (bitsN m 7 5) 2
  | .h => min (bitsN m 7 5) 3
  | .g | .x => bitsN m 7 5

/-- The 64-byte line of an address. -/
def lineAddr (a : W64) : W64 := a &&& ~~~(63 : W64)

/-- Parts of one lane's access by line; a misaligned one has at most two (R186). -/
def globalParts (lane : Nat) (a : W64) (n : Nat) (data cmp : List Byte) : List (W64 × Part) :=
  let off := a.toNat % 64
  if off + n ≤ 64 then
    [(lineAddr a, { lane := lane, off := off, pos := 0, len := n, data := data, cmp := cmp, res := [] })]
  else
    let k := 64 - off
    [(lineAddr a, { lane := lane, off := off, pos := 0, len := k, data := data.take k, cmp := cmp.take k, res := [] }),
     (lineAddr a + 64, { lane := lane, off := 0, pos := k, len := n - k, data := data.drop k, cmp := cmp.drop k, res := [] })]

/-- The global address of a lane-private offset (R169). -/
def privVa (b : Block) (g : Gang) (lane a : Nat) : W64 :=
  b.frame + BitVec.ofNat 64 (g.gid * 32 * b.zpriv + a / 4 * 128 + lane * 4 + a % 4)

/-- The part of a lane-private access from position `pos` on that lies in one word; none at or above Z. A part of an aligned
access of several words carries the whole operand (R169, R186). -/
def privPart (b : Block) (g : Gang) (lane : Nat) (a : W64) (n pos : Nat) (data cmp : List Byte) : Option (W64 × Part) :=
  let o := (a + BitVec.ofNat 64 pos).toNat
  let k := min (4 - o % 4) (n - pos)
  let va := privVa b g lane o
  if b.zpriv ≤ o then none
  else if 4 < n ∧ a.toNat % n = 0 then
    some (lineAddr va, { lane := lane, off := va.toNat % 64, pos := pos, len := k, data := data, cmp := cmp, res := [], unit := n })
  else
    some (lineAddr va, { lane := lane, off := va.toNat % 64, pos := pos, len := k, data := (data.drop pos).take k,
                         cmp := (cmp.drop pos).take k, res := [] })

/-- Positions of an access's bytes at which a word of its frame begins. -/
def wordStarts (a : W64) (n : Nat) : List Nat := (List.range n).filter fun i => i == 0 || (a + BitVec.ofNat 64 i).toNat % 4 == 0

/-- Parts of one lane's lane-private access, word by word; bytes at or above Z have none (R169). -/
def privParts (b : Block) (g : Gang) (lane : Nat) (a : W64) (n : Nat) (data cmp : List Byte) : List (W64 × Part) :=
  (wordStarts a n).filterMap fun pos => privPart b g lane a n pos data cmp

/-- Some byte of a lane-private access lies at or above Z (R169). -/
def privOutside (b : Block) (a : W64) (n : Nat) : Bool :=
  (List.range n).any fun i => decide (b.zpriv ≤ (a + BitVec.ofNat 64 i).toNat)

/-- Add a part to the parts of its line. -/
def addPart (ls : List (W64 × List Part)) (line : W64) (p : Part) : List (W64 × List Part) :=
  match ls with
  | [] => [(line, [p])]
  | (a, ps) :: r => if a = line then (a, ps ++ [p]) :: r else (a, ps) :: addPart r line p

/-- Group parts by line, keeping lane order within each (R230). -/
def byLine (ps : List (W64 × Part)) : List (W64 × List Part) :=
  ps.foldl (fun ls p => addPart ls p.1 p.2) []

/-- The request of one line, or of one access to a space without translation. -/
def mkReq (i : Issue) (acc : Option Nat) (w : Want) (line : W64) (ps : List Part) : Req :=
  { agent := .gang i.cur.gang, before := [i.cur.gang], access := acc, cmd := none, unit := none, core := i.b.core, ctx := i.b.ctx,
    world := i.b.world, asid := i.b.asid, seq := i.g.seq + 1, kind := w.kind, space := w.space, va := line, pa := 0,
    leaf := { basin := 0, first := false, dom := 0, tier := false, w := false, size := 0 }, order := w.order, scope := w.scope,
    urgent := w.urgent, parts := ps, stage := if translated w.space then .walk else .home, entered := 0, slice := 0, born := i.b.core }

/-- Issue requests, one per line (R230). -/
def issueReqs (s : State) (i : Issue) (acc : Option Nat) (w : Want) (ls : List (W64 × List Part)) : State :=
  ls.foldl (fun s l => putReq s (mkReq i acc w l.1 l.2)) s

/-- Registers that receive the value of an access. -/
def destRegs (d : Dest) : List RegName :=
  match d with
  | .lane r n _ => (List.range (if n < 4 then 1 else n / 4)).map fun j => .v (r + j)
  | .scalar r => if r = 0 then [] else [.s r]
  | .pred k => if k = 0 then [] else [.k k]
  | .none | .monitor _ => []

/-- The access an instruction opens (R193). -/
def mkAccess (i : Issue) (w : Want) : Access :=
  { gang := i.cur.gang, before := [i.cur.gang], seq := i.g.seq + 1, path := w.path, sets := w.sets, order := w.order,
    scope := w.scope, space := w.space, dest := w.dest, mask := w.mask, landed := false, cmd := none, status := [],
    dir := none, ctx := i.b.ctx, stuffed := i.cur.stuffed.isSome }

/-- Put a new access; its id is the state's next number. -/
def putAccess (s : State) (a : Access) : State :=
  { s with accs := tabPut s.accs s.nextId a, nextId := s.nextId + 1 }

/-- A path counter rises at issue (R193). -/
def raisePath (g : Gang) (p : Option Nat) : Gang :=
  match p with
  | some p => setPath g p (pathCount g p + 1)
  | none => g

/-- Destination registers become pending on an access (R22, R76, R188). -/
def pendOn (g : Gang) (d : Dest) (id : Nat) : Gang :=
  { g with pend := g.pend ++ (destRegs d).map fun r => { reg := r, due := .access id } }

/-- Open an access with its requests: the state with both, and the gang with its counter and pending registers. -/
def openAccess (s : State) (i : Issue) (g : Gang) (w : Want) (ls : List (W64 × List Part)) : State × Gang :=
  (issueReqs (putAccess s (mkAccess i w)) i (some s.nextId) w ls, pendOn (raisePath g w.path) w.dest s.nextId)

/-- A block on the device or in a save image. -/
def anyBlock (s : State) (uid : Nat) : Option Block :=
  match tabFind s.blocks uid with
  | some b => some b
  | none => tabFind s.savedBlocks uid

/-- The block of a team rank, with its uid; the block's own for its own rank (R167). -/
def teamBlock (s : State) (uid : Nat) (b : Block) (rank : Nat) : Option (Nat × Block) :=
  if rank = b.rank then some (uid, b)
  else if b.size ≤ rank then none
  else ((s.blocks ++ s.savedBlocks).find? fun e => e.2.team == b.team && e.2.rank == rank).map fun e => (e.1, e.2)

/-- The pad byte that byte `i` of a .p or .c access at an address reaches (R166, R167, R39). -/
def padTarget (s : State) (uid : Nat) (b : Block) (sp : Space) (a i : Nat) : Option (Nat × Nat) :=
  match sp with
  | .p => (padByteIx b ((a + i) % 2 ^ 32)).map fun e => (uid, e)
  | .c =>
    match teamBlock s uid b (a / 2 ^ 19 % 4) with
    | some (u, q) => (padByteIx q (a % 2 ^ 19 + i)).map fun e => (u, e)
    | none => none
  | _ => none

/-- Bytes of a die's chip plain, Pd (R168, R360). -/
def plainSize (s : State) (die : Nat) : Nat := 48 * min (regField s (.plaincfg die) 4 0) 16 * 65536

/-- The chip-plain byte that byte `i` of an access at an address reaches, by that byte's own 32-bit address (R51, R168). -/
def plainTarget (s : State) (ctx a i : Nat) : Option (Nat × Nat) :=
  let x := (a + i) % 2 ^ 32
  let die := x / 2 ^ 26 % 4
  if x / 2 ^ 28 = 0 ∧ x % 2 ^ 26 < plainSize s die ∧ regField s (.plaincfg die) 31 16 = ctx
  then some (die, x % 2 ^ 26) else none

/-- The byte of a pad or of the chip plain that a part's byte reaches: block or die, and byte. -/
def innerTarget (s : State) (r : Req) (a i : Nat) : Option (Nat × Nat) :=
  match r.space with
  | .h => plainTarget s r.ctx a i
  | sp =>
    match r.agent with
    | .gang key =>
      match anyBlock s (key / 32) with
      | some b => padTarget s (key / 32) b sp a i
      | none => none
    | .hub => none

/-- Every byte that a request without translation reaches. -/
def innerTargets (s : State) (r : Req) : List (Nat × Nat) :=
  r.parts.flatMap fun p => (List.range p.len).filterMap fun i => innerTarget s r p.off i

/-- Some byte of an access falls outside what its space provides (R39, R166 to R169). -/
def anyOutside (s : State) (uid : Nat) (b : Block) (sp : Space) (ps : List Part) : Bool :=
  ps.any fun p => (List.range p.len).any fun i => (padTarget s uid b sp p.off i).isNone

/-- A part of an access to a space without translation, at its 32-bit address (R164, R185). -/
def innerPart (lane : Nat) (a : W64) (n : Nat) (data cmp : List Byte) : Part :=
  { lane := lane, off := a.toNat % 2 ^ 32, pos := 0, len := n, data := data, cmp := cmp, res := [] }

/-- The line of a pad or of the chip plain that an address lies in, so that lanes that reach one byte by several addresses stand in one
request (R166 to R168, R186, R187). -/
def innerLine (s : State) (uid : Nat) (b : Block) (sp : Space) (a : Nat) : W64 :=
  let line (o : Nat) : W64 := BitVec.ofNat 64 (o / 64 * 64)
  match sp with
  | .p => line (a % max 1 (padPower b.padSize))
  | .c => match teamBlock s uid b (a / 2 ^ 19 % 4) with
    | some (_, q) => line (a / 2 ^ 19 % 4 * 2 ^ 19 + a % 2 ^ 19 % max 1 (padPower q.padSize))
    | none => line a
  | _ => line a

/-- The address of byte `k` of an access: a .c address keeps its rank (R167). -/
def innerNext (sp : Space) (a k : Nat) : Nat :=
  match sp with
  | .c => a / 2 ^ 19 * 2 ^ 19 + (a + k) % 2 ^ 19
  | _ => (a + k) % 2 ^ 32

/-- The parts of a lane's access to a space without translation that fall in each 64-byte line, at most two, each of which is performed
and held for itself (R183, R186). -/
def innerParts (s : State) (uid : Nat) (b : Block) (sp : Space) (lane : Nat) (a : W64) (n : Nat) (data cmp : List Byte) :
    List (W64 × Part) :=
  let o := a.toNat % 2 ^ 32
  let k := 64 - o % 64
  if n ≤ k then [(innerLine s uid b sp o, innerPart lane a n data cmp)]
  else
    [(innerLine s uid b sp o, innerPart lane a k (data.take k) (cmp.take k)),
     (innerLine s uid b sp (innerNext sp o k),
      { innerPart lane (BitVec.ofNat 64 (innerNext sp o k)) (n - k) (data.drop k) (cmp.drop k) with pos := k })]

/-- The bytes a translated request touches, as virtual addresses. -/
def reqBytes (r : Req) : List Nat :=
  r.parts.flatMap fun p => (List.range p.len).map fun i => (r.va + BitVec.ofNat 64 (p.off + i)).toNat

/-- The request is the read or write of a gang's instruction (R195). -/
def isRW (k : ReqKind) : Bool :=
  match k with
  | .read | .write | .rmw .. | .cas | .barrier .. => true
  | _ => false

/-- The request writes (R176, R212). -/
def writes (k : ReqKind) : Bool :=
  match k with
  | .write | .rmw .. | .cas | .copyWrite | .barrier .. => true
  | _ => false

/-- The request is a cache maintenance of a line. -/
def isCmo (k : ReqKind) : Bool :=
  match k with
  | .cmo _ => true
  | _ => false

/-- The request is an instruction fetch. -/
def isFetch (k : ReqKind) : Bool :=
  match k with
  | .fetch .. => true
  | _ => false

/-- Two requests touch the same 64-byte line of one world and ASID (R162, R212). -/
def sameLine (q r : Req) : Bool :=
  translated q.space && translated r.space && q.va == r.va && q.world == r.world && q.asid == r.asid

/-- Two byte ranges of a line meet. -/
def partsMeet (ps qs : List Part) : Bool :=
  ps.any fun p => qs.any fun q => decide (p.off < q.off + q.len) && decide (q.off < p.off + p.len)

/-- Two requests of a gang are to one location (R212). -/
def overlap (s : State) (q r : Req) : Bool :=
  if translated q.space && translated r.space then
    sameLine q r && (isCmo q.kind || isCmo r.kind || partsMeet q.parts r.parts)
  else if translated q.space || translated r.space then false
  else (q.space == .h) == (r.space == .h) &&
    (innerTargets s q).any fun t => (innerTargets s r).contains t

/-- The gang a request belongs to. -/
def reqGang (r : Req) : Option Nat :=
  match r.agent with
  | .gang k => some k
  | .hub => none

/-- Two requests belong to one instruction's accesses, which are unordered among themselves (R187, R202). -/
def sameAccess (q r : Req) : Bool := q.access.isSome && q.access == r.access

/-- Older requests in the program order of a request's gang that are not performed: of other instructions, and no prefetch, for
which nothing waits (R192, R202, R213). -/
def olderReqs (s : State) (id : Nat) (r : Req) : List (Nat × Req) :=
  match reqGang r with
  | some k => s.reqs.filter fun e =>
      decide (e.1 < id) && e.2.before.contains k && e.2.stage != .done && e.2.kind != .pref && !sameAccess e.2 r
  | none => []

/-- The request stands in its core's ordered path to its home (R206). -/
def inPath (r : Req) : Bool :=
  match r.stage with
  | .home | .ctrl | .spill | .stopped | .replay | .link => true
  | _ => false

/-- Performed at a scope (R206). -/
def performedAt (scope : Nat) (r : Req) : Bool :=
  r.stage == .done || (decide (scope ≤ 1) && r.kind == .write && translated r.space && inPath r)

/-- Acquire and release sides of an order (R207, R208). -/
def acquires (o : Order) : Bool := o == .acq || o == .ar
def releases (o : Order) : Bool := o == .rel || o == .ar

/-- Accesses before a release that stand for a status still awaited (R301). -/
def statusBefore (s : State) (r : Req) : Bool :=
  match reqGang r, r.access with
  | some k, some a => s.accs.any fun e => decide (e.1 < a) && e.2.before.contains k && e.2.sets.w && e.2.cmd.isSome
  | _, _ => false

/-- A request waits for no acquire before it, and a release for no read or write before it; a cache maintenance counts as a write
(R195), and engine requests take no part in that order (R202, R207, R208, R214). -/
def orderClear (s : State) (id : Nat) (r : Req) : Bool :=
  let rel := releases r.order && writes r.kind
  !(isRW r.kind || isCmo r.kind) || r.cmd.isSome ||
  (!(rel && statusBefore s r) && (olderReqs s id r).all fun e =>
    if isRW e.2.kind then
      (!acquires e.2.order || e.2.kind == .write) && (!rel || performedAt r.scope e.2)
    else !(rel && isCmo e.2.kind))

/-- A byte range held by the hull of a lock (R268). -/
def hullHolds (s : State) (h : Hull) (r : Req) : Bool :=
  match h.space with
  | .g => translated r.space && h.world == r.world && h.asid == r.asid &&
      (reqBytes r).any fun a => decide (h.lo ≤ a) && decide (a ≤ h.hi)
  | .h => r.space == .h && (innerTargets s r).any fun t =>
      decide (h.lo ≤ t.1 * 2 ^ 26 + t.2) && decide (t.1 * 2 ^ 26 + t.2 ≤ h.hi)
  | _ => !translated r.space && r.space != .h && (innerTargets s r).any fun t =>
      t.1 == h.block && decide (h.lo ≤ t.2) && decide (t.2 ≤ h.hi)

/-- A lane or scalar access of a core, or its prefetch, is held by the range lock of a command issued before it (R223,
R268). -/
def lockHeld (s : State) (id : Nat) (r : Req) : Bool :=
  (isRW r.kind || r.kind == .pref) && r.cmd.isNone &&
  s.cmds.any fun c => decide (c.1 < id) && c.2.core == r.core && c.2.locks.any fun h => hullHolds s h r

/-- Requests of an access. -/
def accReqs (s : State) (a : Nat) : List (Nat × Req) := s.reqs.filter fun e => e.2.access == some a

/-- An access is performed at a scope: no status or command is awaited, and each of its requests is (R206, R301). -/
def accPerformed (s : State) (scope id : Nat) (a : Access) : Bool :=
  a.cmd.isNone && (accReqs s id).all fun e => if isRW e.2.kind then performedAt scope e.2 else e.2.stage == .done

/-- Requests in the program order of some gangs, their own or taken over with an acquire, are performed at a scope; engine requests
take no part (R207, R210). -/
def passedDone (s : State) (scope bound : Nat) (mine : List Nat → Bool) : Bool :=
  s.reqs.all fun e => decide (bound ≤ e.1) || !isRW e.2.kind || e.2.cmd.isSome || !mine e.2.before || performedAt scope e.2

/-- Every request of an access is performed. -/
def accDone (s : State) (a : Nat) : Bool := (accReqs s a).all fun e => e.2.stage == .done

end Sys2Proof.Machine
end

