-- ==== Sys2Proof/Machine/Walk.lean ====
section
/-! DEFINITION. Translation (R165, R172 to R178) and parking (R160 to R162, R230 to R235). -/

namespace Sys2Proof.Machine

/-- The address is canonical (R165). -/
def canonical (va : W64) : Bool := va == (va.setWidth 57).signExtend 64

/-- Levels of a walk: shift, index bits, kind of a leaf allowed there, alignment of the next table (R173). -/
def walkLevels : List (Nat × Nat × Nat × Nat) :=
  [(48, 9, 0, 8192), (39, 9, 0, 8192), (30, 9, 3, 8192), (21, 9, 2, 512), (16, 5, 1, 0)]

/-- Bytes of a page by leaf kind (R173, R174). -/
def pageBytes (kind : Nat) : Nat := if kind = 1 then 2 ^ 16 else if kind = 2 then 2 ^ 21 else 2 ^ 30

/-- A frame base a leaf may name, with its TIER bit (R172, R176 step 3). -/
def frameLegal (pa : Nat) (tier : Bool) : Bool :=
  if inTier pa then tier else !tier && decide (paDevice pa < 4608) && decide (paLocal pa < 720 * 2 ^ 30)

/-- A leaf is well formed (R174, R176 step 3). -/
def leafOk (w0 w1 : W64) (kind : Nat) : Bool :=
  wbits w0 15 13 == 0 && wbits w1 63 56 == 0 && wbits w0 7 6 != 3 &&
  wbits w1 55 0 % pageBytes kind == 0 && frameLegal (wbits w1 55 0) (w0.getLsbD 12)

/-- A table pointer is well formed (R174, R176 step 3). -/
def tableOk (w0 w1 : W64) (align : Nat) : Bool :=
  wbits w0 15 6 == 0 && wbits w0 31 16 == 0 && wbits w1 63 56 == 0 && align != 0 && wbits w1 55 0 % align == 0

/-- Address of the entry that a walk reads at a level (R173). -/
def entryAt (table shift bits : Nat) (va : W64) : Nat := table + 16 * (va.toNat / 2 ^ shift % 2 ^ bits)

/-- A word of a page-table entry, as a walk reads it: at its home, here or on another device (R175, R220, R408). -/
def entryWord (s : State) (u : Nat × Nat) (a : Nat) : W64 := BitVec.ofNat 64 (leNat (physReadOf s u a 8))

/-- What a walk finds: a leaf with its page, or the cause of a failure (R176 steps 2 and 3). -/
def walkFrom (s : State) (u : Nat × Nat) (levels : List (Nat × Nat × Nat × Nat)) (table : Nat) (va : W64) :
    Option (W64 × Nat × Nat) :=
  match levels with
  | [] => none
  | (shift, bits, leaf, align) :: r =>
    let w0 := entryWord s u (entryAt table shift bits va)
    let w1 := entryWord s u (entryAt table shift bits va + 8)
    let kind := wbits w0 5 4
    if !w0.getLsbD 0 then none
    else if kind = 0 then if tableOk w0 w1 align then walkFrom s u r (wbits w1 55 0) va else none
    else if kind == leaf && leafOk w0 w1 kind then some (w0, wbits w1 55 0, pageBytes kind) else none

/-- The first entry that a walk meets and cannot read now: its line is held, or its answer has not come (R181, R220, R359, R361, R362). -/
def walkWaits (s : State) (u : Nat × Nat) (levels : List (Nat × Nat × Nat × Nat)) (table : Nat) (va : W64) : Option Nat :=
  match levels with
  | [] => none
  | (shift, bits, _, align) :: r =>
    let a := entryAt table shift bits va
    if !physGot s u a 16 then some a
    else
      let w0 := entryWord s u a
      let w1 := entryWord s u (a + 8)
      if w0.getLsbD 0 && wbits w0 5 4 == 0 && tableOk w0 w1 align then walkWaits s u r (wbits w1 55 0) va else none

/-- Permissions a request needs of a leaf (R176 step 5). -/
def permitted (k : ReqKind) (w0 : W64) : Bool :=
  match k with
  | .read | .pref | .copyRead | .fill => w0.getLsbD 1
  | .write | .copyWrite => w0.getLsbD 2
  | .rmw .. | .cas | .barrier .. => w0.getLsbD 1 && w0.getLsbD 2
  | .fetch .. => w0.getLsbD 3
  | .cmo _ => true

/-- The attributes of a leaf of a page (R174, R175). -/
def leafAttrs (w0 : W64) (size : Nat) : Leaf where
  basin := wbits w0 7 6
  first := w0.getLsbD 8
  dom := wbits w0 11 9
  tier := w0.getLsbD 12
  w := w0.getLsbD 2
  size := size

/-- A translation: line, attributes, or the first failing cause. -/
inductive Xlat where
  | ok (pa : Nat) (leaf : Leaf)
  | fail (cause : Cause)
  deriving DecidableEq, Repr

/-- Check a leaf against a request (R176 steps 4 and 5). -/
def checkLeaf (k : ReqKind) (world : BitVec 16) (w0 : W64) (pa size : Nat) : Xlat :=
  if wbits w0 31 16 ≠ world.toNat then .fail .world
  else if !permitted k w0 then .fail .permission
  else .ok pa (leafAttrs w0 size)

/-- The level-1 table of a context (R229). -/
def rootOf (s : State) (ctx : Nat) : Nat :=
  match tabFind s.ctxs ctx with
  | some c => c.root
  | none => 0

/-- A cached translation of a unit covers an address (R177). -/
def tlbCovers (e : TlbEntry) (sector : Bool) (unit : Nat) (world asid : BitVec 16) (va : W64) : Bool :=
  e.sector == sector && e.unit == unit && e.world == world && e.asid == asid &&
  decide (e.va ≤ va.toNat % 2 ^ 57) && decide (va.toNat % 2 ^ 57 < e.va + e.size)

/-- The cached translation used: a micro-TLB entry, else one of the sector cache, unless it has been replaced (R177, R178). -/
def tlbLookup (s : State) (core : Nat) (world asid : BitVec 16) (va : W64) : Option TlbEntry :=
  let hit := match s.caches.tlb.find? fun e => tlbCovers e false core world asid va with
    | some e => some e
    | none => s.caches.tlb.find? fun e => tlbCovers e true (sectorOf core) world asid va
  match hit with
  | some e => if Config.keeps s.tick then some e else none
  | none => none

/-- Remove the `n`-th entry of a unit, counted modulo how many it has. -/
def tlbEvict (l : List TlbEntry) (sector : Bool) (unit n : Nat) : List TlbEntry :=
  let mine := l.filter fun e => e.sector == sector && e.unit == unit
  match mine[n % mine.length]? with
  | some v => l.erase v
  | none => l

/-- Install a translation in one unit of a given size: it replaces every entry of its page, whatever that entry's size (R177,
R178). -/
def tlbInstall (l : List TlbEntry) (e : TlbEntry) (size n : Nat) : List TlbEntry :=
  let l := l.filter fun x => !(x.sector == e.sector && x.unit == e.unit && x.world == e.world && x.asid == e.asid &&
    decide (x.va < e.va + e.size) && decide (e.va < x.va + x.size))
  let l := if size ≤ (l.filter fun x => x.sector == e.sector && x.unit == e.unit).length
    then tlbEvict l e.sector e.unit n else l
  e :: l

/-- Cache a successful translation in the micro-TLB of the core and in its sector's cache (R177, R178). -/
def tlbFill (s : State) (core : Nat) (world asid : BitVec 16) (va : W64) (w0 : W64) (pa size : Nat) : State :=
  let e : TlbEntry :=
    { sector := false, unit := core, world := world, asid := asid, va := va.toNat % 2 ^ 57 / size * size, size := size,
      pa := pa, leaf := w0 }
  let l := tlbInstall s.caches.tlb { e with sector := true, unit := sectorOf core } 4096 (Config.freeIndex s.tick)
  { s with caches := { s.caches with tlb := tlbInstall l e 64 (Config.freeIndex s.tick) } }

/-- A core's and its sector's cached translations of an address are gone: a walk that fails leaves none (R161, R178). -/
def tlbDrop (s : State) (core : Option Nat) (world asid : BitVec 16) (va : W64) : State :=
  match core with
  | some c => { s with caches := { s.caches with tlb := s.caches.tlb.filter fun e =>
      !(tlbCovers e false c world asid va || tlbCovers e true (sectorOf c) world asid va) } }
  | none => s

/-- Translate one line for a request by the page tables, which walk `u` reads; the new result replaces a cached one (R173 to R176,
R178). -/
def walkXlat (s : State) (u : Nat × Nat) (ctx : Nat) (world asid : BitVec 16) (core : Option Nat) (k : ReqKind) (va : W64) :
    Xlat × State :=
  match walkFrom s u walkLevels (rootOf s ctx) va with
  | none => (.fail .notMapped, tlbDrop s core world asid va)
  | some (w0, base, size) =>
    let pa := base + va.toNat % size
    match checkLeaf k world w0 pa size, core with
    | .ok pa l, some c => (.ok pa l, tlbFill s c world asid va w0 base size)
    | .ok pa l, none => (.ok pa l, s)
    | .fail c, _ => (.fail c, tlbDrop s core world asid va)

/-- Translate one line for a request: from a cached entry, or by a walk; an entry that fails the checks is walked again. Units
of the hub, whose core number is 288, hold no translations (R176 to R178). -/
def translate (s : State) (u : Nat × Nat) (core ctx : Nat) (world asid : BitVec 16) (k : ReqKind) (va : W64) : Xlat × State :=
  if !canonical va then (.fail .notMapped, s)
  else if 288 ≤ core then walkXlat s u ctx world asid none k va
  else
    let s1 := { s with tick := s.tick + 1 }
    match tlbLookup s core world asid va with
    | some e =>
      match checkLeaf k world e.leaf (e.pa + (va.toNat % 2 ^ 57 - e.va)) e.size with
      | .ok pa l => (.ok pa l, s1)
      | .fail _ => walkXlat s1 u ctx world asid (some core) k va
    | none => walkXlat s1 u ctx world asid (some core) k va

/-- A cached translation serves a request: it covers the address and passes the checks (R176 to R178). -/
def tlbServes (s : State) (core : Nat) (world asid : BitVec 16) (k : ReqKind) (va : W64) : Bool :=
  decide (core < 288) && (match tlbLookup s core world asid va with
    | some e => (match checkLeaf k world e.leaf (e.pa + (va.toNat % 2 ^ 57 - e.va)) e.size with
      | .ok _ _ => true
      | .fail _ => false)
    | none => false)

/-- The walk of request `id`, and its unit number. -/
def walkUnit (id : Nat) : Nat × Nat := (2, id)

/-- The page-table entry that a request's translation waits for, if it waits for one (R175, R181, R220, R361, R362). -/
def walkHeld (s : State) (id : Nat) (r : Req) : Option Nat :=
  if !canonical r.va || tlbServes s r.core r.world r.asid r.kind r.va then none
  else walkWaits s (walkUnit id) walkLevels (rootOf s r.ctx) r.va

/-- Die whose store keeps a request (R230). -/
def parkDie (r : Req) : Nat :=
  match r.agent with
  | .gang _ => dieOf r.born
  | .hub => 0

/-- Entries of a die's park store, in SRAM and in the spill ring. -/
def parkCount (s : State) (die : Nat) (spilled : Bool) : Nat :=
  (s.reqs.filter fun e => match e.2.stage with
    | .parked _ _ _ sp => parkDie e.2 == die && sp == spilled
    | _ => false).length

/-- Entries the spill ring of a die holds (R230, R255). -/
def spillSize (s : State) (die : Nat) : Nat := regField s (.pkspill die) 15 0 * 512

/-- SRAM and spill ring of a die are both full (R232). -/
def parkFull (s : State) (die : Nat) : Bool :=
  decide (4096 ≤ parkCount s die false) && decide (spillSize s die ≤ parkCount s die true)

/-- PKSTAT of a die follows its store, and PARKFULL is sent on each change to full (R232, R255). -/
def notePark (s : State) (die : Nat) : State :=
  let full := parkFull s die
  let was := regField s (.pkstat die) 48 48 == 1
  let s := setField s (.pkstat die) 12 0 (parkCount s die false)
  let s := setField s (.pkstat die) 47 16 (parkCount s die true)
  let s := setField s (.pkstat die) 48 48 full.toNat
  let s := if full then setField s (.pkstat die) 49 49 1 else s
  if full && !was then
    raiseEvent s (sourceId 2 die) 0x0010 (systemRing s)
      (leBytes 4 die ++ leBytes 4 (parkCount s die false) ++ leBytes 4 (parkCount s die true))
  else s

/-- Park ring of an ASID (R235). -/
def parkRing (s : State) (asid : BitVec 16) : Nat :=
  if regField s .pkctl 0 0 = 1 then 0 else regField s (.pksteer (asid.toNat % 256)) 4 0

/-- The 64 KiB page of an address as issued (R233, R234). -/
def parkPage (va : W64) : W64 := va &&& ~~~(0xFFFF : W64)

/-- The record bit of a requester (R230, R233). -/
def parkCores (r : Req) : BitVec 72 :=
  match r.agent with
  | .gang _ => BitVec.ofNat 72 (2 ^ (r.born % 72))
  | .hub => 0

/-- Physical address a record carries (R234). -/
def parkPa (r : Req) (cause : Cause) : Nat :=
  match cause with
  | .poison | .tierFail => r.pa
  | _ => 0

/-- An open record has the key of a request (R233). -/
def recordOf (r : Req) (cause : Cause) (x : ParkRec) : Bool :=
  x.die == parkDie r && x.world == r.world && x.asid == r.asid && x.page == parkPage r.va && x.cause == cause

/-- A request is added to an open record (R233). -/
def addToRecord (r : Req) (spilled : Bool) (x : ParkRec) : ParkRec :=
  { x with count := min (x.count + 1) (2 ^ 32 - 1), cores := x.cores ||| parkCores r,
           spilled := x.spilled || spilled, hub := x.hub || (reqGang r).isNone }

/-- Coalesce a request into an open record of its key, or open one while fewer than 1,024 are open on the die (R233). PKSTEER
and PKCTL choose its ring now, not when it is written, which the spec leaves open (R235; DESIGN CHOICE, log 45). -/
def openRecord (s : State) (id : Nat) (r : Req) (cause : Cause) (spilled : Bool) : State :=
  let die := parkDie r
  if s.parks.records.any (recordOf r cause) then
    let rs := s.parks.records.map fun x => if recordOf r cause x then addToRecord r spilled x else x
    { s with parks := { s.parks with records := rs } }
  else if (s.parks.records.filter fun x => x.die == die).length < 1024 then
    let x : ParkRec :=
      { die := die, ring := parkRing s r.asid, world := r.world, asid := r.asid, page := parkPage r.va, cause := cause,
        since := s.cycle, count := 1, cores := parkCores r, spilled := spilled, hub := (reqGang r).isNone,
        pa := parkPa r cause, ctx := r.ctx }
    { s with parks := { s.parks with records := s.parks.records ++ [x] } }
  else { s with parks := { s.parks with waiting := s.parks.waiting ++ [(id, cause, spilled)] } }

/-- A request comes before another in the order their gang started them: an engine request counts from its command (R202). -/
def startedBefore (e : Nat × Req) (id : Nat) (r : Req) : Bool :=
  let p := e.2.cmd.getD e.1
  let q := r.cmd.getD id
  decide (p < q) || (p == q && decide (e.1 < id))

/-- The parked request that a request chains behind: the youngest older one of its gang in its line; for a prefetch no request
waits (R162, R192). -/
def chainBehind (s : State) (id : Nat) (r : Req) : Option (Nat × Cause) :=
  match reqGang r with
  | none => none
  | some _ =>
    (s.reqs.filter fun e => startedBefore e id r && e.2.agent == r.agent && sameLine e.2 r && e.2.kind != .pref).foldl
      (fun acc e => match e.2.stage with
        | .parked c _ _ _ => some (e.1, c)
        | _ => acc) none

/-- A replayed request stands behind its gang's accesses that are parked outside the release: its replay is out, and what it waits for
needs a release of its own (R207, R208, R236; log 45). -/
def replayBlocked (s : State) (id : Nat) : Bool :=
  match tabFind s.reqs id with
  | some r => r.stage == .walk && (chainBehind s id r).isNone && !orderClear s id r &&
      (olderReqs s id r).any fun e => isParked e.2
  | none => true

/-- A release is over once every request it took has been replayed or parked again: PKOPS.DONE (R236, R255). -/
def endRelease (s : State) : State :=
  if s.parks.cancel = none ∧ regField s .pkops 0 0 = 1 ∧ (s.parks.replay.all (replayBlocked s)) = true then
    setField (setField { s with parks := { s.parks with replay := [] } } .pkops 0 0 0) .pkops 1 1 1
  else s

/-- A request's replay is over; `again` when it has parked once more (R236, R255). -/
def leaveReplay (s : State) (id : Nat) (again : Bool) : State :=
  if s.parks.replay.contains id then
    let s := { s with parks := { s.parks with replay := s.parks.replay.filter fun q => q != id } }
    endRelease (if again then countField s .pkops 63 48 else s)
  else s

/-- Places of a die's spill ring that its spilled entries take (R230). -/
def spillTaken (s : State) (die : Nat) : List Nat :=
  s.reqs.filterMap fun e => match e.2.stage with
    | .parked _ _ _ true => if parkDie e.2 == die then some e.2.spillAt else none
    | _ => none

/-- The place that the next spilled entry of a die takes: the lowest free one; which is not stated (R230; log 44). -/
def spillFree (s : State) (die : Nat) : Nat :=
  ((List.range ((spillTaken s die).length + 1)).find? fun k => !(spillTaken s die).contains k).getD 0

/-- Address of a 128-byte place of a die's spill ring (R230, R255). -/
def spillSlot (s : State) (die k : Nat) : Nat := regField s (.pkspill die) 55 16 * 65536 + k * 128

/-- A spilled park entry is placed in the die's spill ring, at the homes of its lines as any access without a leaf; the spec lists what
an entry keeps and no layout of its 128 bytes (R230, R408; log 44). -/
def spillEntry (s : State) (die : Nat) : State :=
  physWrite { s with tick := s.tick + 128 } (spillSlot s die (spillFree s die))
    ((List.range 128).map fun k => (Config.freeWord (s.tick + k)).setWidth 8)

/-- The lines of the place that the next spilled entry takes are open (R343, R359, R408). -/
def spillOpen (s : State) (die : Nat) : Bool :=
  (physLines (spillSlot s die (spillFree s die)) 128).all (physOpen s ringUnit)

/-- A die's store takes one more entry: in SRAM, or in the spill ring where its lines are open (R230, R232, R408). -/
def parkTakes (s : State) (die : Nat) : Bool :=
  !parkFull s die && (decide (parkCount s die false < 4096) || spillOpen s die)

/-- Park a request; when the store is full it waits where it stands, and also while a place of the spill ring cannot be written
(R230, R232). -/
def parkReq (s : State) (id : Nat) (r : Req) (cause : Cause) (chain : Option Nat) : State :=
  let die := parkDie r
  if !parkTakes s die then updReq (notePark s die) id fun r => { r with storeWait := true }
  else
    let spilled := decide (4096 ≤ parkCount s die false)
    let place := spillFree s die
    let s := if spilled then spillEntry s die else s
    let s := updReq s id fun r => { r with
      stage := .parked cause s.parks.nextSeq chain spilled, accepted := false, storeWait := false, spillAt := place }
    let s := leaveReplay { s with parks := { s.parks with nextSeq := s.parks.nextSeq + 1 } } id true
    let s := match chain with
      | none => openRecord s id r cause spilled
      | some _ => s
    notePark s die

/-- L1 line of a core is dropped. -/
def dropL1 (s : State) (core pa : Nat) : State :=
  { s with caches := { s.caches with l1 := tabDel s.caches.l1 (lineKey core pa) } }

/-- A line with the bytes that the parts of a write put there. -/
def layParts (x : Line) (ps : List Part) : Line :=
  ps.foldl (fun x p => linePuts x p.off (if p.unit = 0 then p.data else (p.data.drop p.pos).take p.len)) x

/-- A write updates the line of its own world that its core's L1 holds (R170, R206, R366). -/
def updL1 (s : State) (core pa : Nat) (world : BitVec 16) (ps : List Part) : State :=
  { s with caches := { s.caches with l1 := tabUpd s.caches.l1 (lineKey core pa) fun c =>
      if c.world = world then { c with data := layParts c.data ps } else c } }

/-- A translated request enters its core's ordered path to its home; a write updates its core's L1 line, and an atomic
takes it out (R170, R206). -/
def enterPath (s : State) (id : Nat) (r : Req) (pa : Nat) (l : Leaf) : State :=
  let s := match r.kind with
    | .write | .copyWrite => updL1 s r.core pa r.world r.parts
    | .rmw .. | .cas => dropL1 s r.core pa
    | _ => s
  let s := updReq s id fun r => { r with pa := pa, leaf := l, entered := s.nextId, slice := 192, stage := .home }
  let s := { s with nextId := s.nextId + 1 }
  if isRemote s pa then s else arriveAt s id (homeOf s pa l r.core)

end Sys2Proof.Machine
end

