-- ==== Sys2Proof/Machine/Gate.lean ====
section
/-! DEFINITION. What a request meets at its home slice (R169, R181, R186, R231, R343 to R345, R355, R356, R361, R362, R366), and
what brings a line into it: the basin and memory (R350 to R352). -/

namespace Sys2Proof.Machine

/-- Owner world of a frame (R366). -/
def frameOwner (s : State) (pa : Nat) : BitVec 16 := tabGet s.island.frames (pa / 65536) 0

/-- The request has parts of an aligned lane-private access of several words, which is performed as one (R169, R186). -/
def isJoint (r : Req) : Bool := r.parts.any fun p => p.unit != 0

/-- Lanes whose bytes in a request are part of a joined access. -/
def jointLanes (r : Req) : List Nat := (r.parts.filter fun p => p.unit != 0).map (·.lane)

/-- Requests of one access that are performed with some of them, because a lane's joined bytes lie in both. -/
def joinStep (all rs : List (Nat × Req)) : List (Nat × Req) :=
  all.filter fun e => rs.any fun q => q.1 == e.1 || (jointLanes e.2).any fun l => (jointLanes q.2).contains l

/-- The requests that a request's joined lanes take together (R169, R186). -/
def jointReqs (s : State) (id : Nat) (r : Req) : List (Nat × Req) :=
  match r.access with
  | some a => (accReqs s a).foldl (fun rs _ => joinStep (accReqs s a) rs) [(id, r)]
  | none => [(id, r)]

/-- The frame ownership check (R366). -/
def ownerAllows (s : State) (r : Req) : Bool :=
  if frameOwner s r.pa = 0xFFFF then !isFetch r.kind else frameOwner s r.pa == r.world

/-- A request of a joined access cannot be performed for now: one that is performed with it does not stand in its slice's queue, or is
held, so that what its home has accepted of it has no effect yet (R186, R343, R359). -/
def jointStuck (s : State) (id : Nat) (r : Req) : Bool :=
  isJoint r && (jointReqs s id r).any fun e => e.1 != id &&
    (e.2.stage == .spill || e.2.stage == .stopped || e.2.stage == .hold)

/-- A hold of its home takes a request: nothing of it is accepted yet, the requests performed with it among them, or what is accepted of
them cannot be performed (R343, R356; log 27). -/
def holdTakes (s : State) (id : Nat) (r : Req) : Bool :=
  jointStuck s id r || (!r.accepted && !(isJoint r && (jointReqs s id r).any fun e => e.2.accepted))

/-- A DSPLIT that has not switched its masks holds a request: one homed by the domain being split, or by the domain to come, of which
its home has accepted nothing yet (R343, R355; log 27). -/
def splitHolds (s : State) (id : Nat) (r : Req) : Bool :=
  match tabFind s.dom (r.slice / 48) with
  | some d => match d.split with
    | some (dom, dom2, _) => d.res.isEmpty && holdTakes s id r &&
        ((usableDom s (r.slice / 48) r.leaf.dom == dom && (domMembers s (r.slice / 48) dom).testBit (r.slice % 48)) ||
         r.leaf.dom == dom2)
    | none => false
  | none => false

/-- Slot of a handle (R369). -/
def handleSlot (h : W32) : Nat := h.toNat % 4096

/-- The slot of a handle whose generation is the slot's (R369). -/
def slotOf (s : State) (h : W32) : Option KeySlot :=
  if h.toNat / 4096 = (tabGet s.island.gens (handleSlot h) 0).toNat then tabFind s.island.slots (handleSlot h) else none

/-- The key that a handle names while its slot has the handle's generation and the world as owner (R369). -/
def handleKey (s : State) (w : BitVec 16) (h : Option W32) : Option (List Byte) :=
  match h.bind (slotOf s) with
  | some k => if k.owner = w then some k.key else none
  | none => none

/-- The key of an edge for a world's data: world 0 and shared frames have the device key of this boot; which key a world has that has
bound none, or whose slot is freed, is not stated (R371, R374, R375; log 11). -/
def edgeKey (s : State) (w : BitVec 16) (h : Option W32) : List Byte :=
  if w = 0 ∨ w = 0xFFFF then Config.bootKey s.island.boots else (handleKey s w h).getD (Config.noKey w.toNat)

/-- WORLDLINK and TIER keys of a world (R371, R374, R375). -/
def worldLinkKey (s : State) (w : BitVec 16) : List Byte := edgeKey s w ((tabFind s.island.worlds w.toNat).bind (·.linkKey))
def worldTierKey (s : State) (w : BitVec 16) : List Byte := edgeKey s w ((tabFind s.island.worlds w.toNat).bind (·.tierKey))

/-- The request changes bytes of its line. -/
def reqWrites (k : ReqKind) : Bool :=
  match k with
  | .write | .rmw .. | .cas | .copyWrite => true
  | _ => false

/-- A write of a granule whose epochs are used up is held (R374). -/
def writeHeld (s : State) (r : Req) : Bool := reqWrites r.kind && writesShut s r.pa

/-- What a request meets at the slice where it stands. -/
inductive Gate where
  /-- its line is there: it can be performed -/
  | ok
  /-- its line is not in the slice: it waits for what brings it -/
  | miss (st : Stage)
  | park (c : Cause)
  /-- held for a split, a release of a region or of an extent -/
  | hold
  /-- held for a granule in migration -/
  | moving
  /-- this slice is not its home -/
  | replay
  deriving DecidableEq, Repr

/-- The checks of a request at the slice where it stands, in order: a released extent, a region or domain being moved, the home, a
granule in migration, the frame's owner, the line, its poison (R181, R231, R343 to R345, R351, R356, R361, R362, R366). -/
def homeGate (s : State) (id : Nat) (r : Req) : Gate :=
  match extentOf s r.pa with
  | some (_, _, true) => .park (if (tabFind s.tiers.forced (r.pa / 64)).isSome then .poison else .tierFail)
  | some (_, _, false) => .hold
  | none =>
    if s.caches.firstRel.contains (homeDie r.pa, r.pa / 65536) && r.leaf.first && holdTakes s id r then .hold
    else if splitHolds s id r then .hold
    else if !r.accepted && homeOf s r.pa r.leaf r.core != r.slice then .replay
    else if granuleMoving s r.pa || writeHeld s r then .moving
    else if !ownerAllows s r then .park .world
    else match tabFind s.caches.l2 (lineKey r.slice r.pa) with
      | none => .miss (if inTier r.pa && backAddr s r.pa == r.pa then .tier else .ctrl)
      | some c => if c.poison then .park .poison else .ok

/-- Stack, channel and bank that serve a line's backing (R350, R351). -/
def reqStack (s : State) (r : Req) : Nat := stackOf (backAddr s r.pa)
def reqChannel (s : State) (r : Req) : Nat := channelOf (backAddr s r.pa)

/-- The queues that a request which missed L2 stands in: those of its line's basin bank b, numbered 32 + b, when the basin holds the line,
else those of its channel's controller (R351, R354). -/
def reqQueue (s : State) (r : Req) : Nat :=
  if (tabFind s.caches.basin (backAddr s r.pa / 64)).isSome then 32 + bankOf (backAddr s r.pa) else reqChannel s r

/-- Filter bits of a bank that a line selects (R352). -/
def filterKeys (stack pa : Nat) : List Nat :=
  (List.range 3).map fun k => 16384 * (8 * stack + bankOf pa) + (Config.filterHash k (pa % 2 ^ 43 / 64)).toNat

/-- WINDOW of a stack; 0 acts as 0x10000 (R364). -/
def basinWindow (s : State) (stack : Nat) : Nat :=
  if regField s (.basctl stack) 23 0 = 0 then 0x10000 else regField s (.basctl stack) 23 0

/-- FILTER misses that a bank has counted since its filter was cleared (R352). -/
def bankMisses (s : State) (stack bank : Nat) : Nat := tabGet s.caches.misses (8 * stack + bank) 0

/-- A line that missed the basin is allocated there (R351). -/
def basinPut (s : State) (r : Req) : State :=
  let b := backLine s r.pa
  let c : CacheLine := { data := b.1, dirty := false, poison := b.2, world := r.world, dom := r.leaf.dom, basin := r.leaf.basin }
  if regField s (.basctl (reqStack s r)) 24 24 = 1 then s else putBasin s (backAddr s r.pa / 64) c

/-- A FILTER miss tests its three bits, sets them, and counts (R352). -/
def filterMiss (s : State) (r : Req) : State :=
  let a := backAddr s r.pa
  let n := 8 * stackOf a + bankOf a
  let ks := filterKeys (stackOf a) a
  let s := if ks.all fun k => (tabFind s.caches.filter k).isSome then basinPut s r
    else { s with caches := { s.caches with filter := ks.foldl (fun t k => tabPut t k ()) s.caches.filter } }
  { s with caches := { s.caches with misses := tabPut s.caches.misses n (tabGet s.caches.misses n 0 + 1) } }

/-- A read that missed L2 meets the basin (R351). -/
def basinLookup (s : State) (r : Req) : State :=
  if (tabFind s.caches.basin (backAddr s r.pa / 64)).isSome then s
  else match r.leaf.basin with
    | 0 => basinPut s r
    | 1 => filterMiss s r
    | _ => s

/-- The bank that a request would count its miss in has reached its window: it is cleared first (R352). -/
def windowFull (s : State) (r : Req) : Bool :=
  let a := backAddr s r.pa
  r.leaf.basin == 1 && decide (basinWindow s (stackOf a) ≤ bankMisses s (stackOf a) (bankOf a))

/-- Fill a line into its home slice from below; one that has come there meanwhile, and may have been written, stays (R351, R361). -/
def fillL2 (s : State) (r : Req) : State :=
  if (tabFind s.caches.l2 (lineKey r.slice r.pa)).isSome then s else
  let s := l2Room s r.slice r.pa
  let b := backLine s r.pa
  let c : CacheLine := { data := b.1, dirty := false, poison := b.2, world := r.world, dom := r.leaf.dom,
                         basin := r.leaf.basin }
  { s with caches := { s.caches with l2 := tabPut s.caches.l2 (lineKey r.slice r.pa) c } }

/-- The filter and the count of a basin bank are cleared (R352). -/
def clearWindow (s : State) (stack bank : Nat) : State :=
  { s with caches := { s.caches with
      filter := s.caches.filter.filter fun e => e.1 / 16384 != 8 * stack + bank
      misses := tabDel s.caches.misses (8 * stack + bank) } }

/-- Requests to a line that wait for the same DRAM access go back to their home slice with it (R352). -/
def wakeLine (s : State) (r : Req) : State :=
  { s with reqs := tabMap s.reqs fun q =>
      if q.stage == .ctrl && q.pa == r.pa && q.slice == r.slice then { q with stage := .home } else q }

/-- A line that an agent without a place in the controllers' queues reads or writes at its home comes into the slice as any other: the
first touch of its region, the basin or memory, and the slice; requests that wait for it at the controller have it by the same access
(R351, R352, R356). -/
def fetchLine (s : State) (r : Req) : State :=
  let s := noteFirst s r.pa r.leaf r.core
  if (tabFind s.caches.l2 (lineKey r.slice r.pa)).isSome then s
  else if inTier r.pa && backAddr s r.pa == r.pa then fillL2 s r
  else
    let a := backAddr s r.pa
    let s := if windowFull s r then clearWindow s (stackOf a) (bankOf a) else s
    wakeLine (fillL2 (basinLookup s r) r) r

end Sys2Proof.Machine
end

