-- ==== Sys2Proof/Machine/Image.lean ====
section
/-! DEFINITION. Where the save image of a context holds its blocks and gangs, reading and writing the image, and pads that are
on a core or in an image (R250, R251, R254). -/

namespace Sys2Proof.Machine

/-- Saved blocks of a context, in the order of the image's directory (R250). -/
def imageBlocks (s : State) (ctx : Nat) : List (Nat × Block) := s.savedBlocks.filter fun e => e.2.ctx == ctx

/-- Offset of a block's area in the image (R250). -/
def areaFrom (bs : List (Nat × Block)) (uid o : Nat) : Nat :=
  match bs with
  | [] => o
  | (u, b) :: r => if u = uid then o else areaFrom r uid (o + blockArea b)

/-- Address of a block's area in its context's image (R250). -/
def areaVa (s : State) (ctx uid : Nat) : W64 :=
  let bs := imageBlocks s ctx
  match tabFind s.ctxs ctx with
  | some c => c.save + BitVec.ofNat 64 (areaFrom bs uid (round4k (0x100 + 8 * bs.length)))
  | none => 0

/-- Offset of a gang's record in its block's area (R250). -/
def gangOff (b : Block) (gid : Nat) : Nat := 1024 + gid * (4096 + 128 * b.regs)

/-- Offset of the pad, and of the accumulators, in a block's area (R250). -/
def padOff (b : Block) : Nat := gangOff b b.gangs
def accOff (b : Block) : Nat := padOff b + round4k b.padSize

/-- The walks of the hub's units in a context's memory. -/
def hubWalk (ctx : Nat) : Nat × Nat := (3, ctx)

/-- The page-table entry that the translation of an address waits for, for a unit of the hub (R175, R181, R220, R361, R362). -/
def hubHeld (s : State) (ctx : Nat) (va : W64) : Option Nat :=
  if canonical va then walkWaits s (hubWalk ctx) walkLevels (rootOf s ctx) va else none

/-- Physical address of a byte of a context's memory, for a unit of the hub, with the leaf that translates it: none when its page
does not translate. -/
def hubPa (s : State) (ctx : Nat) (k : ReqKind) (va : W64) : Option (Nat × Leaf) :=
  match tabFind s.ctxs ctx with
  | some c =>
    if !canonical va then none
    else match (walkXlat s (hubWalk ctx) ctx c.world c.asid none k va).1 with
      | .ok pa l => some (pa, l)
      | .fail _ => none
  | none => none

/-- A request of a unit of the hub in a context's world, for bytes in one line (R230). -/
def hubReqOf (c : Ctx) (ctx : Nat) (unit : Option (Nat × Nat)) (kind : ReqKind) (order : Order) (scope : Nat) (va : W64)
    (n : Nat) (data : List Byte) : Req :=
  { agent := .hub, before := [], access := none, cmd := none, unit := unit, core := 288, ctx := ctx,
    world := c.world, asid := c.asid, seq := 0, kind := kind, space := .g, va := lineAddr va, pa := 0,
    leaf := { basin := 0, first := false, dom := 0, tier := false, w := false, size := 0 }, order := order, scope := scope,
    urgent := false,
    parts := [{ lane := 0, off := va.toNat % 64, pos := 0, len := n, data := data, cmp := [], res := [] }],
    stage := .walk, entered := 0, slice := 0 }

/-- A unit of the hub issues a request (R230). -/
def hubReq (s : State) (ctx : Nat) (unit : Option (Nat × Nat)) (kind : ReqKind) (order : Order) (scope : Nat) (va : W64)
    (n : Nat) (data : List Byte) : State :=
  match tabFind s.ctxs ctx with
  | none => s
  | some c => putReq s (hubReqOf c ctx unit kind order scope va n data)

/-- The request of a unit of the hub for a line that it meets at the line's home (R355, R356). -/
def hubAt (s : State) (c : Ctx) (ctx : Nat) (kind : ReqKind) (va : W64) (pa : Nat) (l : Leaf) : Req :=
  { hubReqOf c ctx none kind .rlx 3 va 0 [] with
    pa := pa / 64 * 64, leaf := l, slice := homeOf s pa l 288, stage := .home }

/-- The answer of another device to a read of a line of its own by a unit of the hub, kept until the unit takes it (R220; log 10). -/
def isAnswer (q : Req) : Bool := q.agent == .hub && q.unit.isNone && q.stage == .done

/-- The bytes that another device answered for a line. -/
def hubAnswer (s : State) (ctx : Nat) (a : W64) : Option (List Byte) :=
  (s.reqs.find? fun e => isAnswer e.2 && e.2.ctx == ctx && e.2.va == lineAddr a).map fun e => e.2.parts.flatMap (·.res)

/-- Bytes of a context's memory, at the homes that their leaves give, or as the device that homes them answered; a byte whose page
does not translate reads 0 (R220, R408). -/
def hubRead (s : State) (ctx : Nat) (va : W64) (n : Nat) : List Byte :=
  (List.range n).map fun i =>
    let a := va + BitVec.ofNat 64 i
    match hubPa s ctx .read a with
    | some (pa, l) =>
      if isRemote s pa then ((hubAnswer s ctx a).getD []).getD (pa % 64) 0
      else lineByte (homeLine s (homeOf s pa l 288) (pa / 64 * 64)).1 (pa % 64)
    | none => 0

/-- Lines of a range of virtual addresses. -/
def rangeLines (va : W64) (n : Nat) : List W64 :=
  (List.range ((va.toNat % 64 + n + 63) / 64)).map fun k => lineAddr va + BitVec.ofNat 64 (64 * k)

/-- Bytes at an address, cut at the ends of lines. -/
def lineChunks (va : W64) (bs : List Byte) : List (W64 × List Byte) :=
  if bs.isEmpty then [] else
  (rangeLines va bs.length).zipIdx.map fun e =>
    if e.2 = 0 then (va, bs.take (64 - va.toNat % 64)) else (e.1, (bs.drop (64 * e.2 - va.toNat % 64)).take 64)

/-- A line that another device answered, with bytes that a unit of the hub then wrote to it. -/
def layAnswer (s : State) (ctx : Nat) (va : W64) (bs : List Byte) : State :=
  { s with reqs := tabMap s.reqs fun q =>
      if isAnswer q && q.ctx == ctx && q.va == lineAddr va then
        { q with parts := q.parts.map fun p => { p with res := p.res.take (va.toNat % 64) ++ bs ++ p.res.drop (va.toNat % 64 + bs.length) } }
      else q }

/-- Write bytes of one line of a context's memory: at its home here, or by a request to the device that homes it; a line whose page
does not translate is not written (R220, R408). -/
def hubPut (s : State) (ctx : Nat) (va : W64) (bs : List Byte) (unit : Option (Nat × Nat) := none) : State :=
  match hubPa s ctx .write va, tabFind s.ctxs ctx with
  | some (pa, l), some c =>
    if isRemote s pa then hubReq (layAnswer s ctx va bs) ctx unit .write .rlx 3 va bs.length bs
    else
      let r := hubAt s c ctx .write va pa l
      writeHome (fetchLine s r) r.slice r.pa (pa % 64) bs l.dom l.basin c.world
  | _, _ => s

/-- What the walks of the hub's units in a context's memory were answered is dropped: such an answer is kept as a cached translation is,
until a walk fails with it or an invalidation ends (R177 to R179; DESIGN CHOICE, log 10). -/
def hubWalked (s : State) (ctx : Nat) : State := physEnd s (hubWalk ctx)

/-- Write bytes of a context's memory, line by line (R408). -/
def hubWrite (s : State) (ctx : Nat) (va : W64) (bs : List Byte) : State :=
  (lineChunks va bs).foldl (fun s e => hubPut s ctx e.1 e.2) s

/-- A unit of the hub has read a range: each line has come to its home slice as any other, and an answer of another device is taken
(R220, R351, R356). -/
def hubTouch (s : State) (ctx : Nat) (va : W64) (n : Nat) : State :=
  (rangeLines va n).foldl (fun s a =>
    match hubPa s ctx .read a, tabFind s.ctxs ctx with
    | some (pa, l), some c =>
      if isRemote s pa then
        { s with reqs := s.reqs.filter fun e => !(isAnswer e.2 && e.2.ctx == ctx && e.2.va == lineAddr a) }
      else fetchLine s (hubAt s c ctx .read a pa l)
    | _, _ => s) s

/-- A request of a hub unit for a line is on its way or has parked and is not replayed yet (R230, R346). -/
def hubParked (s : State) (ctx : Nat) (a : W64) : Bool :=
  s.reqs.any fun e => e.2.agent == .hub && e.2.ctx == ctx && e.2.va == lineAddr a && e.2.unit.isNone && e.2.stage != .done

/-- A line of this device serves a request of the hub that comes to its home now: the slice takes it, nothing holds it there, and
its line is not poisoned (R231, R343 to R346, R355 to R362, R366). -/
def hubServes (s : State) (r : Req) : Bool :=
  (homeGate s 0 r == .ok || homeGate s 0 r == .miss .ctrl) && !(homeLine s r.slice r.pa).2 && !unitDead s 13 r.slice &&
  arriveStage s r.slice == .home

/-- A line serves a unit of the hub: no request for it stands parked, its walk waits for no entry, it translates, and its home performs the access at once, or, of
another device, has answered a read (R176, R220, R231, R346, R366). -/
def hubLine (s : State) (ctx : Nat) (k : ReqKind) (a : W64) : Bool :=
  match hubPa s ctx k a, tabFind s.ctxs ctx with
  | some (pa, l), some c => !hubParked s ctx a && (hubHeld s ctx a).isNone &&
      (if isRemote s pa then k != .read || (hubAnswer s ctx a).isSome else hubServes s (hubAt s c ctx k a pa l))
  | _, _ => false

/-- Every line of a range serves a unit of the hub. -/
def hubReady (s : State) (ctx : Nat) (k : ReqKind) (va : W64) (n : Nat) : Bool :=
  (rangeLines va n).all (hubLine s ctx k)

/-- A unit of the hub meets lines that do not serve it: a request for each goes its way, and may park; the unit tries again once it
is performed. A page-table entry that its walk waits for is asked for first (R220, R230). -/
def hubMiss (s : State) (ctx : Nat) (k : ReqKind) (va : W64) (n : Nat) : State :=
  (rangeLines va n).foldl (fun s a =>
    if hubLine s ctx k a || hubParked s ctx a then s
    else match hubHeld s ctx a with
      | some e => physAsk s (hubWalk ctx) (ctxWorld s ctx) e 16
      | none =>
        hubReq (if (hubPa s ctx k a).isSome then s else hubWalked s ctx) ctx none k .rlx 3 a (if k == .read then 64 else 0) []) s

/-- One more in a word of a context's memory, as a release of the unit that asks: at its home here, or by a request to the device that
homes it (R220, R340). -/
def hubAdd (s : State) (ctx : Nat) (unit : Option (Nat × Nat)) (va : W64) : State :=
  match hubPa s ctx .write va with
  | some (pa, _) =>
    if isRemote s pa then hubReq s ctx unit (.rmw .add 2) .rel 3 va 8 (leBytes 8 1)
    else hubWrite s ctx va (leBytes 8 ((leNat (hubRead s ctx va 8) + 1) % 2 ^ 64))
  | none => s

/-- Allocation byte `e` of a block's pad, on its core or in the image (R254). -/
def padByteAt (s : State) (uid e : Nat) : Byte :=
  match tabFind s.blocks uid with
  | some b => memByte b.pad e
  | none => match tabFind s.savedBlocks uid with
    | some b => (hubRead s b.ctx (areaVa s b.ctx uid + BitVec.ofNat 64 (padOff b + e)) 1).getD 0 0
    | none => 0

/-- Set an allocation byte of a block's pad, on its core or in the image (R254). -/
def padPutAt (s : State) (uid e : Nat) (x : Byte) : State :=
  match tabFind s.blocks uid with
  | some b => { s with blocks := tabPut s.blocks uid { b with pad := memPut b.pad e x } }
  | none => match tabFind s.savedBlocks uid with
    | some b => hubWrite s b.ctx (areaVa s b.ctx uid + BitVec.ofNat 64 (padOff b + e)) [x]
    | none => s

/-- Pad bytes of a block from an offset on, under the pad rule (R166). -/
def padRead (s : State) (uid o n : Nat) : List Byte :=
  match anyBlock s uid with
  | some b => (List.range n).map fun i => match padByteIx b (o + i) with
    | some e => padByteAt s uid e
    | none => 0
  | none => []

/-- Write pad bytes of a block from an offset on, under the pad rule (R166). -/
def padWrite (s : State) (uid o : Nat) (bs : List Byte) : State :=
  match bs with
  | [] => s
  | x :: r =>
    let s := match anyBlock s uid with
      | some b => match padByteIx b o with
        | some e => padPutAt s uid e x
        | none => s
      | none => s
    padWrite s uid (o + 1) r

/-- Where a completion for a block goes by the STATE of its context (R253). -/
inductive PadPlace where
  | core | held | image | gone
  deriving DecidableEq, Repr

/-- Where an engine's write to a block's pad goes (R253). -/
def padPlace (s : State) (uid : Nat) : PadPlace :=
  let moving (ctx : Nat) : Bool := match tabFind s.ctxs ctx with
    | some c => c.st == .saving || c.st == .restoring
    | none => false
  match tabFind s.blocks uid with
  | some b => if moving b.ctx then .held else .core
  | none => match tabFind s.savedBlocks uid with
    | some b => if moving b.ctx then .held else .image
    | none => .gone

/-- Address of an allocation byte of a saved block's pad in its image (R250). -/
def padVa (s : State) (b : Block) (uid e : Nat) : W64 := areaVa s b.ctx uid + BitVec.ofNat 64 (padOff b + e)

/-- A line of an image serves an access to the pad that it holds (R253). -/
def padLine (s : State) (ctx : Nat) (a : W64) : Bool := hubLine s ctx .write a && hubLine s ctx .read a

/-- The lines of an image that hold allocation bytes of a saved block's pad and do not serve an access now (R230, R253). -/
def padMissing (s : State) (uid : Nat) (es : List Nat) : List W64 :=
  match tabFind s.savedBlocks uid with
  | some b => (es.map fun e => lineAddr (padVa s b uid e)).foldl (fun l a =>
      if l.contains a || padLine s b.ctx a then l else l ++ [a]) []
  | none => []

/-- An engine's write to allocation bytes of a block's pad can be performed now: none is lost (R253). -/
def padReady (s : State) (uid : Nat) (es : List Nat) : Bool :=
  match padPlace s uid with
  | .core | .gone => true
  | .held => false
  | .image => (padMissing s uid es).isEmpty

/-- The lines of a saved block's pad that do not serve a write park it (R230, R253). -/
def padMiss (s : State) (uid : Nat) (es : List Nat) : State :=
  match padPlace s uid, tabFind s.savedBlocks uid with
  | .image, some b => (padMissing s uid es).foldl (fun s a =>
      hubMiss s b.ctx (if hubLine s b.ctx .write a then .read else .write) a 1) s
  | _, _ => s

/-- Allocation bytes that pad offsets of a block reach (R166). -/
def padBytesAt (s : State) (uid o n : Nat) : List Nat :=
  match anyBlock s uid with
  | some b => (List.range n).filterMap fun i => padByteIx b (o + i)
  | none => []

/-- Address of a saved gang's record in its image (R250). -/
def gangVa (s : State) (b : Block) (g : Gang) : W64 :=
  areaVa s b.ctx g.block + BitVec.ofNat 64 (gangOff b g.gid)

/-- The byte of GSTAT in a saved gang's record that holds PADR can be written (R251). -/
def gstatReady (s : State) (key : Nat) : Bool :=
  match tabFind s.savedGangs key with
  | some g => match tabFind s.savedBlocks g.block with
    | some b => hubReady s b.ctx .write (gangVa s b g + 0x200) 1
    | none => true
  | none => true

/-- The line of a saved gang's GSTAT parks a write while it does not translate (R230, R253). -/
def gstatMiss (s : State) (key : Nat) : State :=
  match tabFind s.savedGangs key with
  | some g => match tabFind s.savedBlocks g.block with
    | some b => hubMiss s b.ctx .write (gangVa s b g + 0x200) 1
    | none => s
  | none => s

/-- PADR is set for an instruction of a gang, on its core or in its image, and counted (R108, R166, R168, R253). -/
def flagPadrAt (s : State) (key : Nat) : State :=
  match tabFind s.savedGangs key with
  | some g => match tabFind s.savedBlocks g.block with
    | some b =>
      let va := gangVa s b g + 0x200
      let s := hubWrite s b.ctx va [(hubRead s b.ctx va 1).getD 0 0 ||| gstatPadr.setWidth 8]
      countPadr { s with savedGangs := tabPut s.savedGangs key (raiseGstat g gstatPadr) } b
    | none => s
  | none => flagPadr s key

end Sys2Proof.Machine
end

