-- ==== Sys2Proof/Machine/Barrier.lean ====
section
/-! DEFINITION. Byte barriers in the pad (R271). -/

namespace Sys2Proof.Machine

/-- A barrier's four words at a pad offset (R271). -/
structure Barrier where
  expb : Nat
  arrb : Nat
  expa : Nat
  arra : Nat
  phase : Bool
  deriving DecidableEq, Repr

/-- A barrier from its 16 bytes (R271). -/
def barrierOf (bs : List Byte) : Barrier :=
  { expb := leAt bs 0 4, arrb := leAt bs 4 4, expa := leAt bs 8 4, arra := leAt bs 12 4 % 2 ^ 31,
    phase := decide (2 ^ 31 ≤ leAt bs 12 4) }

/-- The 16 bytes of a barrier (R271). -/
def barrierBytes (x : Barrier) : List Byte :=
  leBytes 4 x.expb ++ leBytes 4 x.arrb ++ leBytes 4 x.expa ++ leBytes 4 (x.arra % 2 ^ 31 + if x.phase then 2 ^ 31 else 0)

/-- The barrier at a pad offset of a block (R271). -/
def readBarrier (b : Block) (o : Nat) : Barrier := barrierOf (padBytes b (o / 16 * 16) 16)

/-- An update of a barrier by bytes and arrivals, which completes the phase when both are met (R271). -/
def updateBarrier (x : Barrier) (bytes arrivals : Nat) : Barrier :=
  let arrb := (x.arrb + bytes) % 2 ^ 32
  let arra := (x.arra + arrivals) % 2 ^ 31
  if (x.expb ≠ 0 ∨ x.expa ≠ 0) ∧ x.expb ≤ arrb ∧ x.expa ≤ arra then
    { x with arrb := arrb - x.expb, arra := arra - x.expa, phase := !x.phase }
  else { x with arrb := arrb, arra := arra }

/-- Update a block's barrier at a pad offset, in its pad or in its image (R254, R271). -/
def countBarrier (s : State) (uid o bytes arrivals : Nat) : State :=
  let a := o / 16 * 16
  padWrite s uid a (barrierBytes (updateBarrier (barrierOf (padRead s uid a 16)) bytes arrivals))

end Sys2Proof.Machine
end

