-- ==== Sys2Proof/Machine/Serve.lean ====
section
/-! DEFINITION. Serving a request: the atomic operations (R189 to R191), the core's L1, the first-touch table, the checks at the
home slice, and performing it there or in a pad or the chip plain (R170, R171, R186, R187, R206, R208, R355 to R362, R366). -/

namespace Sys2Proof.Machine

/-- The value an ATOM or RED stores from the old value and its operand, on `n` bytes under a type (R189). -/
def rmwNew (op : RmwOp) (ty n old b : Nat) : Nat :=
  let signed := ty == 1 || ty == 3
  let val (x : Nat) : Int := if signed && decide (2 ^ (8 * n - 1) ≤ x) then (x : Int) - (2 ^ (8 * n) : Nat) else x
  match op with
  | .add => if ty = 4 then (faddBits f32 1 (fval f32 old) (fval f32 b)).1 else (old + b) % 2 ^ (8 * n)
  | .min => if val b < val old then b else old
  | .max => if val old < val b then b else old
  | .and => old &&& b
  | .or => old ||| b
  | .xor => old ^^^ b
  | .exch => b

/-- Bytes at keys of an overlay over what a store holds; a byte without a key reads 0 (R166 to R168). -/
def overRead (rd : Nat → Byte) (acc : Tab Byte) (ks : List (Option Nat)) : List Byte :=
  ks.map fun k => match k with
    | some k => (tabFind acc k).getD (rd k)
    | none => 0

/-- Put bytes at keys of an overlay; a byte without a key is dropped. -/
def overPut (acc : Tab Byte) (ks : List (Option Nat)) (bs : List Byte) : Tab Byte :=
  match ks, bs with
  | some k :: kr, b :: br => overPut (tabPut acc k b) kr br
  | none :: kr, _ :: br => overPut acc kr br
  | _, _ => acc

/-- One lane's part performed over what the earlier lanes left (R187 to R191). -/
def stepPart (kind : ReqKind) (rd : Nat → Byte) (acc : Tab Byte) (ks : List (Option Nat)) (p : Part) : Tab Byte × Part :=
  match kind with
  | .write | .copyWrite => (overPut acc ks p.data, p)
  | .rmw op ty =>
    let old := overRead rd acc ks
    (overPut acc ks (leBytes p.len (rmwNew op ty p.len (leNat old) (leNat p.data))), { p with res := old })
  | .cas =>
    let old := overRead rd acc ks
    (if old == p.cmp then overPut acc ks p.data else acc, { p with res := old })
  | _ => (acc, { p with res := overRead rd acc ks })

/-- All lanes' parts in ascending lane order, with the keys of each part's bytes. -/
def stepParts (kind : ReqKind) (rd : Nat → Byte) (key : Nat → Nat → Option Nat) (acc : Tab Byte) (ps : List Part) :
    Tab Byte × List Part :=
  match ps with
  | [] => (acc, [])
  | p :: r =>
    let one := stepPart kind rd acc ((List.range p.len).map fun i => key p.off i) p
    let rest := stepParts kind rd key one.1 r
    (rest.1, one.2 :: rest.2)

/-- A frame of this device belongs to a world, or is shared; the frames of another device are checked there (R220, R366). -/
def worldOwns (s : State) (world : BitVec 16) (pa : Nat) : Bool :=
  isRemote s pa || frameOwner s pa == world || frameOwner s pa == 0xFFFF

/-- L1 line of a core that a request may be served from: of its own world, which still owns its frame, and not replaced (R170, R178, R366,
R368). -/
def l1Hit (s : State) (core pa : Nat) (world : BitVec 16) : Option CacheLine :=
  match tabFind s.caches.l1 (lineKey core pa) with
  | some c => if c.world == world && worldOwns s world pa && Config.keeps s.tick then some c else none
  | none => none

/-- Reads that a core's L1 may serve (R43, R206); a unit of the hub, whose core number is 288, has no L1. -/
def l1May (r : Req) : Bool :=
  decide (r.core < 288) && !isJoint r && (match r.kind with
    | .read => !acquires r.order || decide (r.scope ≤ 1)
    | .fetch .. => true
    | _ => false)

/-- The request has left its core for its home and is neither performed nor parked: held ones too (R183, R206). -/
def inFlight (r : Req) : Bool := inPath r || r.stage == .hold || r.stage == .tier

/-- Requests of a core to a line that have left for its home, in the order they entered the path (R206). -/
def pathReqs (s : State) (core pa : Nat) : List (Nat × Req) :=
  let mine := s.reqs.filter fun e => e.2.core == core && translated e.2.space && inFlight e.2 && e.2.pa == pa
  mine.foldl (fun l e => (l.filter fun q => decide (q.2.entered < e.2.entered)) ++ e ::
    (l.filter fun q => !decide (q.2.entered < e.2.entered))) []

/-- Requests of a core that entered its path before one and are still on their way, writing bytes the one touches; a prefetch neither
waits nor is waited for (R192, R206). -/
def pathBefore (s : State) (r : Req) : List (Nat × Req) :=
  (pathReqs s r.core r.pa).filter fun e =>
    decide (e.2.entered < r.entered) && e.2.kind != .pref && r.kind != .pref && (writes e.2.kind || writes r.kind) &&
      partsMeet e.2.parts r.parts

/-- A write updated its core's L1 line and then parked at its home: the core sees it until it is performed (R203, R206, R214). -/
def isLate (r : Req) : Bool := r.kind == .write && decide (r.entered ≠ 0) && (isParked r || r.stage == .walk)

/-- Requests of a core to a line that have left for its home, those that parked there among them, in the order they entered the path
(R203, R206). -/
def pathAll (s : State) (core pa : Nat) : List (Nat × Req) :=
  let late := s.reqs.filter fun e => e.2.core == core && isLate e.2 && e.2.pa == pa
  late.foldl (fun l e => (l.filter fun q => decide (q.2.entered < e.2.entered)) ++ e ::
    (l.filter fun q => !decide (q.2.entered < e.2.entered))) (pathReqs s core pa)

/-- A write of the core that entered its path after a read, and is not performed, parked ones among them, has put bytes of the read into
the L1 line: the read is not served by that line, or a later one of its gang could see an older write (R203, R211, R212). Nor is it where
the write is another context's, which a cancel may still discard (R228, R237). -/
def pathAfter (s : State) (r : Req) : Bool :=
  (pathAll s r.core r.pa).any fun e => (decide (r.entered < e.2.entered) || e.2.ctx != r.ctx) && writes e.2.kind &&
    partsMeet e.2.parts r.parts

/-- A write of the core and context to bytes of a request that entered its path before it has parked at the line's home: gangs of the core
may have seen it in L1, so the home, which has not, serves no read, write or atomic of theirs before it, unless that is replayed (R203,
R236). -/
def lateBefore (s : State) (r : Req) : Bool :=
  (isRW r.kind || isFetch r.kind) && !r.replayed &&
    s.reqs.any fun e => e.2.core == r.core && e.2.ctx == r.ctx && isLate e.2 && e.2.pa == r.pa &&
      decide (e.2.entered < r.entered) && partsMeet e.2.parts r.parts

/-- Writes still in a core's path to a line, laid over it in the order they entered (R206). -/
def overlayPath (s : State) (core pa : Nat) (x : Line) : Line :=
  ((pathAll s core pa).filter fun e => e.2.kind == .write || e.2.kind == .copyWrite).foldl (fun x e => layParts x e.2.parts) x

/-- A read is served by its core's L1, although older writes of the core may still stand in the path; a replayed one is performed at
its home, and so is a fetch from a shared frame, which parks there (R206, R214, R366). -/
def fromL1 (s : State) (r : Req) : Bool :=
  l1May r && !(isFetch r.kind && frameOwner s r.pa == 0xFFFF) && !r.replayed && (l1Hit s r.core r.pa r.world).isSome && !pathAfter s r

/-- Keep an L1 within 2,048 lines: one line is replaced when it is full (R170). -/
def l1Room (s : State) (core : Nat) : State :=
  let mine := s.caches.l1.filter fun e => e.1 / 2 ^ 50 == core
  if mine.length < 2048 then s
  else match mine[Config.freeIndex s.tick % mine.length]? with
    | some e => { s with tick := s.tick + 1, caches := { s.caches with l1 := tabDel s.caches.l1 e.1 } }
    | none => s

/-- A served read fills the line into its core's L1 (R170). -/
def fillL1 (s : State) (core pa : Nat) (x : Line) (world : BitVec 16) (l : Leaf) : State :=
  if 288 ≤ core then s else
  let s := l1Room s core
  let c : CacheLine := { data := overlayPath s core pa x, dirty := false, poison := false, world := world,
                         dom := l.dom, basin := l.basin }
  { s with caches := { s.caches with l1 := tabPut s.caches.l1 (lineKey core pa) c } }

/-- Reads that have left for another device fill no L1 any more: what they bring may be older than what the core has seen since
(R198, R208, R211). -/
def stopFills (s : State) (p : Req → Bool) : State :=
  { s with reqs := tabMap s.reqs fun q => if q.stage == .link && p q then { q with noFill := true } else q }

/-- An acquire at team scope or wider discards its world's lines from its core's L1 (R208). -/
def discardL1 (s : State) (core : Nat) (world : BitVec 16) : State :=
  stopFills { s with caches := { s.caches with l1 := s.caches.l1.filter fun e =>
      !(e.1 / 2 ^ 50 == core && e.2.world == world) } } fun q => q.core == core && q.world == world

/-- Writes of the other gangs of a block that stand in the core's path come before what a gang issues after an acquire at block
scope (R207, R210). -/
def absorb (s : State) (key : Nat) : State :=
  { s with reqs := tabMap s.reqs fun q =>
      if q.kind == .write && q.stage != .done && decide (q.entered ≠ 0) && !q.before.contains key &&
         (match q.agent with
          | .gang k => k / 32 == key / 32
          | .hub => false)
      then { q with before := q.before ++ [key] } else q }

/-- What performing an acquire read does besides its value (R208). -/
def acquireEffect (s : State) (r : Req) : State :=
  if isRW r.kind && acquires r.order && r.kind != .write then
    let s := match reqGang r with
      | some k => if 1 ≤ r.scope then absorb s k else s
      | none => s
    if 2 ≤ r.scope then discardL1 s r.core r.world else s
  else s

/-- A performed request: prefetches and cache maintenance are gone or wait for their access; others keep their values. -/
def doneReq (s : State) (id : Nat) (ps : List Part) : State :=
  updReq s id fun r => { r with parts := ps, stage := .done }

/-- A replay ends when its request is performed or parks again (R236). -/
def endReplay (s : State) (id : Nat) : State := leaveReplay s id false

/-- The access of a request is the read of an MWAITV; its gang's monitor then watches the line (R197). -/
def watchLine (s : State) (r : Req) : State :=
  match r.access, reqGang r with
  | some a, some k =>
    match tabFind s.accs a with
    | some acc => match acc.dest with
      | .monitor _ => { s with gangs := tabUpd s.gangs k fun g => { g with monPa := some (r.pa / 64), woken := false } }
      | _ => s
    | none => s
  | _, _ => s

/-- A replica of a line homed in another sector may be held in the requester's (R357). -/
def noteReplica (s : State) (r : Req) : State :=
  if r.slice / 16 != sectorOf r.core && decide (r.core < 288) && regField s (.repctl (r.slice / 48)) 0 0 == 1 then
    { s with caches := { s.caches with replicas := tabPut s.caches.replicas (lineKey (sectorOf r.core) r.pa) () } }
  else s

/-- The parts of a lane in joined requests, each with the place of its request. -/
def lanePieces (rs : List (Nat × Req)) (l : Nat) : List (Nat × Part) :=
  rs.zipIdx.flatMap fun e => (e.1.2.parts.filter fun p => p.lane == l).map fun p => (e.2, p)

/-- Where the byte at a position of a lane's value lies among the lines of joined requests; none for a byte at or above Z. -/
def pieceKey (ps : List (Nat × Part)) (pos : Nat) : Option Nat :=
  (ps.find? fun e => decide (e.2.pos ≤ pos) && decide (pos < e.2.pos + e.2.len)).map
    fun e => 64 * e.1 + e.2.off + (pos - e.2.pos)

/-- One lane's bytes in joined requests: read, changed and written as one where they are joined, part by part where not (R186,
R189). -/
def stepLane (kind : ReqKind) (rd : Nat → Byte) (acc : Tab Byte) (ps : List (Nat × Part)) : Tab Byte × List Part :=
  match ps with
  | [] => (acc, [])
  | (_, p) :: _ =>
    if p.unit = 0 then
      ps.foldl (fun st e =>
        let o := stepPart kind rd st.1 ((List.range e.2.len).map fun i => some (64 * e.1 + e.2.off + i)) e.2
        (o.1, st.2 ++ [o.2])) (acc, [])
    else
      let o := stepPart kind rd acc ((List.range p.unit).map (pieceKey ps)) { p with pos := 0, len := p.unit }
      (o.1, [o.2])

/-- A request's part with the bytes that its lane's access returned. -/
def pieceResult (done : List Part) (p : Part) : Part :=
  { p with res := match done.find? fun x => x.lane == p.lane && decide (x.pos ≤ p.pos) && decide (p.pos < x.pos + x.len) with
      | some x => (x.res.drop (p.pos - x.pos)).take p.len
      | none => [] }

/-- What a read or an atomic performed at a home leaves in the requester's L1: a read fills the line, an atomic takes it out, so that
no later read is served an older value of what it wrote (R170, R211, R212). -/
def afterHome (s : State) (r : Req) (x : Line) : State :=
  match r.kind with
  | .read | .fetch .. => if r.line.isSome then s else noteReplica (fillL1 s r.core r.pa x r.world r.leaf) r
  | .rmw .. | .cas => dropL1 s r.core r.pa
  | _ => s

/-- Perform the joined requests of a lane-private access: each lane's bytes are read, changed and written as one, lane by lane. A line
of another device is as that device answered it, and is written there (R186, R187, R189, R220). -/
def serveJoint (s : State) (rs : List (Nat × Req)) : State :=
  let lines := rs.map fun e => e.2.line.getD (homeLine s e.2.slice e.2.pa).1
  let rd (k : Nat) : Byte := lineByte (lines.getD (k / 64) 0) (k % 64)
  let kind := match rs with
    | (_, r) :: _ => r.kind
    | [] => .pref
  let out := allLanes.foldl (fun st l =>
    let o := stepLane kind rd st.1 (lanePieces rs l)
    (o.1, st.2 ++ o.2)) (([] : Tab Byte), ([] : List Part))
  rs.zipIdx.foldl (fun s e =>
    let r := e.1.2
    let mine := out.1.filter fun b => b.1 / 64 == e.2
    let x := lines.getD e.2 0
    let s := if mine.isEmpty || r.line.isSome then s
      else writeHome s r.slice r.pa 0 (lineBytes (mine.foldl (fun y b => lineSet y (b.1 % 64) b.2) x)) r.leaf.dom r.leaf.basin r.world
    doneReq (afterHome (acquireEffect (endReplay s e.1.1) r) r x) e.1.1 (r.parts.map (pieceResult out.2))) s

/-- Perform a request at its home slice (R171, R206). -/
def serveLine (s : State) (id : Nat) (r : Req) : State :=
  let x := (homeLine s r.slice r.pa).1
  let o := stepParts r.kind (lineByte x) (fun off i => some (off + i)) [] r.parts
  let s := if o.1.isEmpty then s
    else writeHome s r.slice r.pa 0 (lineBytes (o.1.foldl (fun y b => lineSet y b.1 b.2) x)) r.leaf.dom r.leaf.basin r.world
  let s := acquireEffect (endReplay (watchLine s r) id) r
  if r.kind == .pref then dropReq (fillL1 s r.core r.pa x r.world r.leaf) id else doneReq (afterHome s r x) id o.2

/-- Serve a read from its core's L1; at a poisoned line it parks, and L1 does not hold the line for its replay (R170, R206, R397). -/
def serveL1 (s : State) (id : Nat) (r : Req) (c : CacheLine) : State :=
  if c.poison then parkReq (dropL1 s r.core r.pa) id r .poison none else
  let o := stepParts r.kind (lineByte c.data) (fun off i => some (off + i)) [] r.parts
  acquireEffect (endReplay (doneReq s id o.2) id) r

/-- Cache maintenance of one line; one whose write to the tier is held waits (R198, R374). -/
def serveCmo (s : State) (id : Nat) (r : Req) (kind : Nat) : State :=
  if (kind == 0 || kind == 2) && heldLine s r.slice r.pa then updReq (cleanSlice s r.slice r.pa) id (fun q => { q with stage := .tier }) else
  let s := if kind = 0 ∨ kind = 2 then cleanBasin (cleanSlice s r.slice r.pa) r.pa else s
  let s := if kind = 1 ∨ kind = 2 then stopFills (dropL1 s r.core r.pa) fun q => q.core == r.core && q.pa == r.pa else s
  doneReq s id r.parts

/-- The key of a pad or chip-plain byte. -/
def innerKey (t : Nat × Nat) : Nat := t.1 * 2 ^ 26 + t.2

/-- A byte of a pad or of the chip plain. -/
def innerByte (s : State) (sp : Space) (k : Nat) : Byte :=
  match sp with
  | .h => memByte s.caches.plain k
  | _ => padByteAt s (k / 2 ^ 26) (k % 2 ^ 26)

/-- Write a byte of a pad or of the chip plain. -/
def innerPut (s : State) (sp : Space) (k : Nat) (x : Byte) : State :=
  match sp with
  | .h => { s with caches := { s.caches with plain := memPut s.caches.plain k x } }
  | _ => padPutAt s (k / 2 ^ 26) (k % 2 ^ 26) x

/-- Perform a byte-barrier update at the pad byte a part names: outside the allocation it is dropped (R166, R271). -/
def serveBarrier (s : State) (r : Req) (bytes arrivals : Nat) : State :=
  match reqGang r, r.parts with
  | some k, p :: _ => countBarrier s (k / 32) p.off bytes arrivals
  | _, _ => s

/-- Perform a request at a pad or at the owning slice of the chip plain (R166 to R168, R206). -/
def performInner (s : State) (id : Nat) (r : Req) : State :=
  match r.kind with
  | .barrier bytes arrivals => doneReq (serveBarrier s r bytes arrivals) id r.parts
  | _ =>
    let key (off i : Nat) : Option Nat := (innerTarget s r off i).map innerKey
    let o := stepParts r.kind (innerByte s r.space) key [] r.parts
    let s := o.1.foldl (fun s b => innerPut s r.space b.1 b.2) s
    acquireEffect (doneReq s id o.2) r

/-- A chip-plain request whose bytes lie outside what the plain provides, for an instruction that has not set PADR yet: one engine
command counts once (R166, R168). -/
def setsPadr (s : State) (r : Req) : Bool :=
  r.space == .h && (r.parts.any fun p => (List.range p.len).any fun i => (innerTarget s r p.off i).isNone) &&
  (match r.cmd.bind (tabFind s.cmds) with
    | some c => !c.padr
    | none => true)

/-- The instruction of a request has set PADR (R166, R168). -/
def padrOf (s : State) (r : Req) (key : Nat) : State :=
  let s := flagPadrAt s key
  match r.cmd with
  | some c => { s with cmds := tabUpd s.cmds c fun c => { c with padr := true } }
  | none => s

/-- Blocks of the pad bytes a request reaches. -/
def innerBlocks (s : State) (r : Req) : List Nat :=
  (innerTargets s r).foldl (fun l t => if l.contains t.1 then l else l ++ [t.1]) []

/-- Serve a request without translation: pads and gang records in an image must translate first (R166 to R168, R206, R253). -/
def serveInner (s : State) (id : Nat) (r : Req) : State :=
  let bytes (u : Nat) : List Nat := (innerTargets s r).filterMap fun t => if t.1 = u then some t.2 else none
  if r.space != .h && !((innerBlocks s r).all fun u => padReady s u (bytes u) || padPlace s u == .held) then
    (innerBlocks s r).foldl (fun s u => padMiss s u (bytes u)) s
  else
    match reqGang r with
    | some k =>
      if setsPadr s r then
        if gstatReady s k then performInner (padrOf s r k) id r else gstatMiss s k
      else performInner s id r
    | none => performInner s id r

/-- A DSPLIT that has switched its masks counts a replay reply to a request of its two domains: the lines of one access count as one
(R343, R348; log 27). -/
def countReplay (s : State) (r : Req) : State :=
  { s with dom := tabUpd s.dom (r.slice / 48) fun d => match d.split, d.res with
      | some (dom, dom2, _), [a, b, c] =>
        if !(usableDom s (r.slice / 48) r.leaf.dom == dom || r.leaf.dom == dom2) then d
        else match r.access with
          | none => { d with res := [a, b, c + 1] }
          | some x => if d.counted.contains x then d else { d with res := [a, b, c + 1], counted := x :: d.counted }
      | _, _ => d }

/-- A request that waits at its home goes on to what it waits for (R181, R344, R351, R356, R361, R362). -/
def setStage (s : State) (id : Nat) (st : Stage) : State := updReq s id fun r => { r with stage := st }

/-- A request is held at its home, which has accepted nothing of it (R343, R356, R362). -/
def holdReq (s : State) (id : Nat) : State := updReq s id fun r => { r with stage := .hold, accepted := false }

/-- A request's home has accepted it and waits for its line or its granule (R343, R351, R361). -/
def accept (s : State) (id : Nat) (st : Stage) : State := updReq s id fun r => { r with stage := st, accepted := true }

/-- A cache maintenance request waits for the parked requests of its gang in its line (R198). -/
def cmoWaits (s : State) (id : Nat) (r : Req) : Bool := isCmo r.kind && (chainBehind s id r).isSome

/-- Requests that a release took before one, in park order. -/
def replayedBefore (s : State) (id : Nat) : List (Nat × Req) :=
  (s.parks.replay.takeWhile fun q => q != id).filterMap fun q => (tabFind s.reqs q).map fun r => (q, r)

/-- Requests of a release to one line are performed in park order; none waits for a prefetch (R192, R236). -/
def replayLine (s : State) (id : Nat) (r : Req) : Bool :=
  !s.parks.replay.contains id || (replayedBefore s id).all fun e => e.2.pa != r.pa || e.2.kind == .pref || e.2.stage == .done

/-- Older requests of a request's gang to the same bytes are performed, or are writes that the L1 line it reads has already
taken (R206, R212). -/
def placeClear (s : State) (id : Nat) (r : Req) : Bool :=
  r.cmd.isSome || r.kind == .pref || (olderReqs s id r).all fun e =>
    !overlap s e.2 r || (e.2.kind == .write && inPath e.2 && translated r.space && fromL1 s r)

/-- The request is to a pad whose context is being saved or restored: an engine's waits for both, a gang's own is performed while
the context is saved (R249, R253). -/
def padMoving (s : State) (r : Req) : Bool :=
  (r.space == .p || r.space == .c) && (innerTargets s r).any fun t =>
    padPlace s t.1 == .held && (r.cmd.isSome || (tabFind s.savedBlocks t.1).isSome)

/-- The slice that serves a chip-plain byte: byte o of a die's plain lies in slice (o div 64) mod 48 (R360). -/
def plainSlice (t : Nat × Nat) : Nat := 48 * t.1 + t.2 / 64 % 48

/-- A slice that a request needs is halted (R397). -/
def sliceDead (s : State) (r : Req) : Bool :=
  if translated r.space then unitDead s 13 r.slice
  else r.space == .h && (innerTargets s r).any fun t => unitDead s 13 (plainSlice t)

/-- A straggler's read waits for the reads of its round's merged fill (R225). -/
def mergedFirst (s : State) (r : Req) : Bool :=
  match (r.cmd.bind (tabFind s.cmds)).bind (·.after) with
  | some lead => r.kind != .fill || !s.reqs.any fun e => e.2.cmd == some lead && e.2.kind == .fill && e.2.stage != .done
  | none => true

/-- Nothing keeps a request from being performed where it stands (R183, R206, R212, R214, R225, R344, R397). -/
def homeClear (s : State) (id : Nat) (r : Req) : Bool :=
  mergedFirst s r && orderClear s id r && placeClear s id r && cmdBegun s r && !cmoWaits s id r && replayLine s id r &&
  !portMarked s id r &&
  (if translated r.space then
    fromL1 s r || ((pathBefore s r).isEmpty && (!lateBefore s r || homeGate s id r != .ok))
  else !lockHeld s id r && !padMoving s r)

/-- A request has a step to take where it stands: it chains behind a parked one, or can be performed there (R162, R183). -/
def homeReady (s : State) (id : Nat) (r : Req) : Bool :=
  r.stage == .home && !isPlace s r && !sliceDead s r && ((!isCmo r.kind && (chainBehind s id r).isSome) || homeClear s id r)

/-- A request of a joined access can be performed with the others of it: at its home, or with the line that another device answered
(R186, R220). -/
def jointReady (s : State) (id : Nat) (r : Req) : Bool :=
  if isRemote s r.pa then r.stage == .link && r.line.isSome
  else r.stage == .home && !sliceDead s r && (chainBehind s id r).isNone && homeClear s id r && homeGate s id r == .ok

/-- Serve a translated request at its home: the checks there, and the step it takes; the requests of a joined access are performed
only where each of them passes its own (R181, R186, R206, R343, R355 to R362, R366). -/
def serveHome (s : State) (id : Nat) (r : Req) : State :=
  match homeGate s id r with
  | .park c => parkReq (noteFirst s r.pa r.leaf r.core) id r c none
  | .hold => holdReq s id
  | .moving => setStage s id .tier
  | .replay => setStage (countReplay s r) id .replay
  | .miss st => accept (noteFirst s r.pa r.leaf r.core) id st
  | .ok =>
    let s := noteFirst s r.pa r.leaf r.core
    if isJoint r then
      let rs := jointReqs s id r
      if rs.all fun e => e.1 == id || jointReady s e.1 e.2 then serveJoint s rs else s
    else serveLine s id r

/-- Cache maintenance of a line at its home: a line of another world is skipped (R198). -/
def cmoHome (s : State) (id : Nat) (r : Req) (kind : Nat) : State :=
  if kind = 1 then serveCmo s id r kind
  else match homeGate s id r with
    | .park .world => doneReq (noteFirst s r.pa r.leaf r.core) id r.parts
    | .hold => holdReq s id
    | .moving => setStage s id .tier
    | .replay => setStage (countReplay s r) id .replay
    | .ok | .miss _ | .park _ => serveCmo (noteFirst s r.pa r.leaf r.core) id r kind

/-- The line of a core of the requester's hardware team that an L1 miss to a page without W permission probes: one that the home
would give; which core the predictor names is not stated (R170, R217, R358; log 26). -/
def peerLine (s : State) (r : Req) : Option CacheLine :=
  let peer := r.core / 4 * 4 + Config.freeIndex s.tick % 4
  if r.leaf.w || peer == r.core || regField s (.pfctl (dieOf r.core)) 0 0 != 1 then none
  else match l1Hit s peer r.pa r.world with
    | some c => if !c.poison && c.data == (homeLine s (homeOf s r.pa r.leaf r.core) r.pa).1 then some c else none
    | none => none

/-- A scale-up link; one not used yet is up (R363, R376). -/
def linkOf (s : State) (l : Nat) : LinkSt :=
  tabGet s.links l { down := false, sealSt := 0, tries := 0, sendCtr := 0, recvCtr := 0, seq := 0, keying := 0, buffer := [],
                     awaiting := [] }

/-- Set a link. -/
def putLink (s : State) (l : Nat) (x : LinkSt) : State := { s with links := tabPut s.links l x }

/-- The link that a request takes (R363). -/
def reqLink (r : Req) : Nat := (Config.linkFor (paDevice r.pa) r.pa).toNat

/-- Initial value of a flit's two seals: sending device, link, direction and flit counter, zero-padded to 96 bits; the direction is 0
from the device with the smaller number (R375; log 36). -/
def flitIv (dev peer link : Nat) (counter : W64) : List Byte :=
  leBytes 12 (dev + 2 ^ 13 * link + 2 ^ 18 * (if dev ≤ peer then 0 else 1) + 2 ^ 19 * counter.toNat)

/-- The link tag over bytes 0 to 239, formed with bytes 12 to 15 zero, since the CRC there covers the tag (R375; log 36). -/
def linkTag (k keying : Nat) (iv head body : List Byte) : List Byte :=
  padTo 16 (Config.sealBytes (Config.linkSession k keying) iv (head ++ leBytes 4 0 ++ body) [])

/-- The routing field and payload of a new flit, which no rule lays out (R375; log 36). -/
def flitPlain (s : State) : List Byte := (List.range 214).map fun j => (Config.freeWord (s.tick + j)).setWidth 8

/-- The 256 bytes of a flit from its routing field and payload (R375). -/
def flitBytes (s : State) (k keying : Nat) (counter : W64) (seq : W32) (world : BitVec 16) (plain : List Byte) : List Byte :=
  let iv := flitIv (regField s .devnum 12 0) (Config.linkPeer k) k counter
  let head := leBytes 4 seq.toNat ++ leBytes 2 world.toNat ++ plain.take 6
  let body := padTo 224 (Config.sealBytes (worldLinkKey s world) iv head (plain.drop 6))
  let tag := linkTag k keying iv head body
  head ++ leBytes 4 (Config.crc32 (head ++ body ++ tag)).toNat ++ body ++ tag

/-- A received flit passes its CRC (R363, R375). -/
def flitCrcOk (bs : List Byte) : Bool :=
  bs.length == 256 && leAt bs 12 4 == (Config.crc32 (bs.take 12 ++ bs.drop 16)).toNat

/-- Both tags of a received flit verify for the counter that the link expects next (R375). -/
def flitTagsOk (s : State) (k : Nat) (bs : List Byte) : Bool :=
  let x := linkOf s k
  let iv := flitIv (Config.linkPeer k) (regField s .devnum 12 0) k x.recvCtr
  let body := (bs.drop 16).take 224
  bs.drop 240 == linkTag k x.keying iv (bs.take 12) body &&
    (Config.openBytes (worldLinkKey s (BitVec.ofNat 16 (leAt bs 4 2))) iv (bs.take 12) body).isSome

/-- A link takes no flits: it is down, sealed off or unkeyed, or suspended with the wrapped store (R363, R376, R382). -/
def linkShut (s : State) (x : LinkSt) : Bool := x.down || x.sealSt != 0 || s.island.wrapped

/-- A new flit of a world leaves by a link and stands in its retry buffer (R363, R375). -/
def putFlit (s : State) (k : Nat) (w : BitVec 16) (req : Option Nat) : State :=
  let x := linkOf s k
  let p := flitPlain s
  let f : Flit := { counter := x.sendCtr, world := w, req := req, plain := p, bytes := flitBytes s k x.keying x.sendCtr x.seq w p }
  let s := putLink s k { x with sendCtr := x.sendCtr + 1, seq := x.seq + 1, buffer := x.buffer ++ [f] }
  { s with tick := s.tick + 214, out := s.out ++ [.flit k f] }

/-- A request's flit leaves by its link, or waits in the link's queue while that is down or sealed off (R363, R376). -/
def sendFlit (s : State) (id : Nat) (r : Req) : State :=
  if linkShut s (linkOf s (reqLink r)) then s else putFlit s (reqLink r) r.world (some id)

/-- A request of a joined access can leave for another device with the others: each stands where it can be performed (R186). -/
def jointOut (s : State) (id : Nat) (r : Req) : Bool :=
  if isRemote s r.pa then r.stage == .home && (chainBehind s id r).isNone && homeClear s id r else jointReady s id r

/-- The requests of a joined access for lines of other devices leave together, one behind the other, so that the far home performs
them as one (R186, R220, R363). -/
def sendJoint (s : State) (rs : List (Nat × Req)) : State :=
  (rs.filter fun e => isRemote s e.2.pa).foldl (fun s e => sendFlit (setStage (dropL1 s e.2.core e.2.pa) e.1 .link) e.1 e.2) s

/-- A request for a line of another device: served by L1, or sent over a link (R172, R206, R220, R363). -/
def serveRemote (s : State) (id : Nat) (r : Req) : State :=
  let s' := { s with tick := s.tick + 1 }
  match if fromL1 s r then l1Hit s r.core r.pa r.world else none with
  | some c => serveL1 s' id r c
  | none =>
    if r.kind == .cmo 1 then serveCmo s' id r 1
    else sendFlit (setStage (dropL1 s' r.core r.pa) id .link) id r

/-- A read that a core's L1 may serve, at a line of this device: from that L1, by a forward of a peer's, or at its home (R170, R206,
R358). -/
def serveRead (s : State) (id : Nat) (r : Req) : State :=
  let s' := { s with tick := s.tick + 1 }
  match if fromL1 s r then l1Hit s r.core r.pa r.world else none with
  | some c => serveL1 s' id r c
  | none =>
    let s' := dropL1 s' r.core r.pa
    match if r.replayed || isFetch r.kind && frameOwner s r.pa == 0xFFFF then none else peerLine s' r with
    | some c => serveL1 (fillL1 { s' with tick := s'.tick + 1 } r.core r.pa c.data r.world r.leaf) id r c
    | none => serveHome s' id r

/-- MEM_REQUEST_AT_HOME on a translated request: chained, sent to another device, served by L1, cache maintenance, or served at
its home. -/
def serveReq (s : State) (id : Nat) (r : Req) : State :=
  match if isCmo r.kind then none else chainBehind s id r with
  | some (q, c) => parkReq s id r c (some q)
  | none =>
    if isRemote s r.pa then
      (if isJoint r then
        let rs := jointReqs s id r
        if rs.all fun e => e.1 == id || jointOut s e.1 e.2 then sendJoint s rs else s
      else serveRemote s id r)
    else
    match r.kind with
    | .cmo k => cmoHome s id r k
    | _ => if l1May r then serveRead s id r else serveHome s id r

end Sys2Proof.Machine
end

