-- ==== Sys2Proof/Machine/Copy.lean ====
section
/-! DEFINITION. Copy descriptors, group request records, and the bytes and hulls of an engine command (R263 to R266, R268,
R279, R280). -/

namespace Sys2Proof.Machine

/-- A copy descriptor (R263); extents and strides of dimensions above DIMS stand as 1 and 0. -/
structure Desc where
  ssp  : Space
  dsp  : Space
  src  : W64
  dst  : W64
  esz  : Nat
  ext  : List Nat
  str  : List Int
  side : Bool
  bar  : Option Nat
  arr  : Bool
  stamp : Option W64
  mc   : Bool
  group : BitVec 16
  ctl  : Nat
  deriving DecidableEq, Repr

/-- Space code of a descriptor (R263). -/
def copySpace (c : Nat) : Space :=
  match c with
  | 0 => .g | 1 => .p | 2 => .c | _ => .h

/-- A 32-bit field as a signed number. -/
def signed32 (x : Nat) : Int := (BitVec.ofNat 32 x).toInt

/-- Total bytes of extents (R264). -/
def copyTotal (esz : Nat) (ext : List Nat) : Nat := 2 ^ esz * ext.foldl (· * ·) 1

/-- An extent of a dimension is in its range: at least 1 up to DIMS, 0 above (R263). -/
def extOk (dims k x : Nat) : Bool := if k ≤ dims then x != 0 else x == 0

/-- A stride of a dimension is legal: a multiple of the element size up to DIMS, 0 above (R263, R264). -/
def strOk (dims esz k x : Nat) : Bool := if k ≤ dims then x % 2 ^ esz == 0 else x == 0

/-- The descriptor in 64 bytes, when it passes the checks of R264. -/
def parseDesc (bs : List Byte) : Option Desc :=
  let c := leAt bs 0x2C 4
  let dims := bitsN c 6 4
  let esz := bitsN c 9 7
  let raw := leAt bs 0x10 4 :: (List.range 4).map fun k => leAt bs (0x14 + 2 * k) 2
  let strs := (List.range 4).map fun k => leAt bs (0x1C + 4 * k) 4
  let ext := raw.zipIdx.map fun e => if e.2 ≤ dims then e.1 else 1
  let src := leAt bs 0 8
  let dst := leAt bs 8 8
  let stamp := leAt bs 0x38 8
  let ok := dims ≤ 4 && esz ≤ 4 && bitsN c 31 15 == 0 && leAt bs 0x36 2 == 0 &&
    (raw.zipIdx.all fun e => extOk dims e.2 e.1) && (strs.zipIdx.all fun e => strOk dims esz (e.2 + 1) e.1) &&
    src % 2 ^ esz == 0 && dst % 2 ^ esz == 0 && decide (copyTotal esz ext < 2 ^ 32) &&
    !(bitN c 12 && !bitN c 11) && !(bitN c 13 && stamp % 8 != 0) &&
    !(bitN c 14 && (bitsN c 1 0 != 0 || bitsN c 3 2 != 1 || !bitN c 11))
  if ok then
    some { ssp := copySpace (bitsN c 1 0), dsp := copySpace (bitsN c 3 2), src := BitVec.ofNat 64 src,
           dst := BitVec.ofNat 64 dst, esz := esz, ext := ext, str := strs.map signed32, side := bitN c 10,
           bar := if bitN c 11 then some (leAt bs 0x30 4 / 16 * 16) else none, arr := bitN c 12,
           stamp := if bitN c 13 then some (BitVec.ofNat 64 stamp) else none, mc := bitN c 14,
           group := BitVec.ofNat 16 (leAt bs 0x34 2), ctl := bitsN c 10 4 }
  else none

/-- The descriptor that TCOPY or TCOPYM reads (R263, R265). -/
def readDesc (b : Block) (x : W64) : Option Desc := parseDesc (padBytes b (x.toNat % 2 ^ 32 / 64 * 64) 64)

/-- Element indices of an element number, lowest dimension first (R264). -/
def elemIx (ext : List Nat) (j : Nat) : List Nat :=
  match ext with
  | [] => []
  | e :: r => j % e :: elemIx r (j / e)

/-- Byte offset of an element on the strided side (R264). -/
def strideOff (esz : Nat) (str : List Int) (ix : List Nat) : Int :=
  match ix with
  | [] => 0
  | i :: r => i * (2 ^ esz : Nat) + ((r.zip str).map fun p => (p.1 : Int) * p.2).foldl (· + ·) 0

/-- Address of an element on a side of a command (R264). -/
def elemAddr (base : W64) (strided : Bool) (esz : Nat) (ext : List Nat) (str : List Int) (j : Nat) : W64 :=
  if strided then base + BitVec.ofInt 64 (strideOff esz str (elemIx ext j)) else base + BitVec.ofNat 64 (j * 2 ^ esz)

/-- Addresses of a command's elements at its source and at its destination. -/
def cmdSrc (c : Cmd) (j : Nat) : W64 := elemAddr c.src (!c.side) c.esz c.ext c.str j
def cmdDst (c : Cmd) (j : Nat) : W64 := elemAddr c.dst c.side c.esz c.ext c.str j

/-- Number of elements of a command. -/
def cmdElems (c : Cmd) : Nat := c.total / 2 ^ c.esz

/-- Lowest and highest byte that a side touches, from its elements' addresses (R268). -/
def sideHull (addr : Nat → W64) (esz n : Nat) : Nat × Nat :=
  (List.range n).foldl (fun h j =>
    let a := (addr j).toNat
    (min h.1 a, max h.2 (a + 2 ^ esz - 1))) ((addr 0).toNat, (addr 0).toNat + 2 ^ esz - 1)

/-- The address of a byte as its space takes it: low 32 bits where it is not translated (R167, R168). -/
def spaceAddr (sp : Space) (a : W64) : W64 := if translated sp then a else low32 a

/-- A range of pad offsets as allocation bytes; one that wraps locks the whole allocation (R166, R268). -/
def padHull (b : Block) (lo hi : Nat) : Nat × Nat :=
  let p := max (padPower b.padSize) 1
  if lo / p = hi / p then (lo % p, hi % p) else (0, p - 1)

/-- The team ranks whose windows a range of .c addresses meets, with the range of offsets in each (R167). -/
def windowsOf (lo hi : Nat) : List (Nat × Nat × Nat) :=
  let first := lo / 2 ^ 19
  (List.range 4).filterMap fun k =>
    let w := first + k
    if hi / 2 ^ 19 < w then none
    else if first + 4 ≤ hi / 2 ^ 19 then some (w % 4, 0, 2 ^ 19 - 1)
    else some (w % 4, max lo (w * 2 ^ 19) - w * 2 ^ 19, min hi (w * 2 ^ 19 + (2 ^ 19 - 1)) - w * 2 ^ 19)

/-- The locked hulls of one side of a command: pad hulls by block and pad byte, chip-plain hulls by die and byte (R268). -/
def hullsOf (s : State) (uid : Nat) (b : Block) (sp : Space) (h : Nat × Nat) : List Hull :=
  let hull (u : Nat) (r : Nat × Nat) : Hull :=
    { space := sp, world := b.world, asid := b.asid, block := u, lo := r.1, hi := r.2 }
  match sp with
  | .c => (windowsOf h.1 h.2).filterMap fun w =>
      (teamBlock s uid b w.1).map fun q => hull q.1 (padHull q.2 w.2.1 w.2.2)
  | .p => [hull uid (padHull b h.1 h.2)]
  | _ => [hull uid h]

/-- The locked hulls of a command's source and of its destination (R268). -/
def srcHulls (s : State) (uid : Nat) (b : Block) (c : Cmd) : List Hull :=
  hullsOf s uid b c.ssp (sideHull (fun j => spaceAddr c.ssp (cmdSrc c j)) c.esz (cmdElems c))
def dstHulls (s : State) (uid : Nat) (b : Block) (c : Cmd) : List Hull :=
  hullsOf s uid b c.dsp (sideHull (fun j => spaceAddr c.dsp (cmdDst c j)) c.esz (cmdElems c))

/-- A group load's request record (R279). -/
structure GloadRec where
  va  : W64
  len : Nat
  dst : Nat
  bar : Nat
  deriving DecidableEq, Repr

/-- The record of GLOAD at a pad offset, when it keeps its limits (R279). -/
def readGload (b : Block) (x : W64) : Option GloadRec :=
  let bs := padBytes b (x.toNat % 2 ^ 32 / 32 * 32) 32
  let va := leAt bs 0 8
  let len := leAt bs 8 4
  if va % 16 = 0 ∧ 16 ≤ len ∧ len ≤ 65536 ∧ len % 16 = 0 ∧ leAt bs 12 4 % 16 = 0 ∧ leAt bs 16 4 % 16 = 0 ∧
      leAt bs 20 12 = 0 then
    some { va := BitVec.ofNat 64 va, len := len, dst := leAt bs 12 4, bar := leAt bs 16 4 }
  else none

/-- A push's record (R280). -/
structure GputRec where
  src  : Nat
  len  : Nat
  dst  : Nat
  rbar : Nat
  sbar : Nat
  deriving DecidableEq, Repr

/-- The record of GPUT at a pad offset, when it keeps its limits (R280). -/
def readGput (b : Block) (x : W64) : Option GputRec :=
  let bs := padBytes b (x.toNat % 2 ^ 32 / 32 * 32) 32
  let len := leAt bs 8 4
  if leAt bs 0 4 % 16 = 0 ∧ leAt bs 4 4 = 0 ∧ 16 ≤ len ∧ len ≤ 65536 ∧ len % 16 = 0 ∧ leAt bs 12 4 % 16 = 0 ∧
      leAt bs 16 4 % 16 = 0 ∧ leAt bs 20 4 % 16 = 0 ∧ leAt bs 24 8 = 0 then
    some { src := leAt bs 0 4, len := len, dst := leAt bs 12 4, rbar := leAt bs 16 4, sbar := leAt bs 20 4 }
  else none

/-- The group-table key of a sector's entry, with the group, that a context and id name (R275). -/
def groupOf (s : State) (ctx : Nat) (id : BitVec 16) : Option (Nat × Group) :=
  (s.groups.find? fun e => e.2.ctx == ctx && e.2.id == id).map fun e => (e.1, e.2)

/-- The group that a scalar operand names for a member block (R279). -/
def memberGroup (s : State) (uid : Nat) (b : Block) (x : W64) : Option (Nat × Group) :=
  if x.toNat < 2 ^ 16 then
    match groupOf s b.ctx (x.setWidth 16) with
    | some (k, g) => if g.members.contains uid then some (k, g) else none
    | none => none
  else none

/-- A block's ask stands unserved in the open round; one held for the next round is not in it (R278, R279). -/
def askPending (s : State) (g : Group) (uid : Nat) : Bool :=
  let mine (id : Nat) : Bool := match tabFind s.cmds id with
    | some c => c.block == uid
    | none => false
  match g.round with
  | some r => r.asks.any mine && !r.served.contains uid
  | none => false

/-- Status that GLOAD returns at once: 0 when the ask goes on (R279). -/
def gloadStatus (s : State) (uid : Nat) (b : Block) (x y : W64) : Nat :=
  match readGload b y with
  | none => 8
  | some _ => match memberGroup s uid b x with
    | none => 6
    | some (_, g) => if askPending s g uid then 7 else 0

/-- Status that GPUT returns at once: 0 when the push goes on (R280). -/
def gputStatus (s : State) (uid : Nat) (b : Block) (x y : W64) : Nat :=
  match readGput b y with
  | none => 8
  | some _ => match memberGroup s uid b x with
    | none => 6
    | some (_, g) => if g.members.length < g.count ∨ 0 < g.left then 9 else 0

/-- Commands of a block in flight (R260). -/
def cmdsInFlight (s : State) (uid : Nat) : Nat :=
  (s.cmds.filter fun e => e.2.block == uid && !e.2.done && e.2.node.isNone).length

/-- A block has no queue entry left (R259, R260). -/
def copyFull (s : State) (uid : Nat) (b : Block) : Bool := decide (b.copyq + 1 ≤ cmdsInFlight s uid)

/-- The follow-on record of TCOPYM: its words and operands, when every check of R266 passes. -/
def readFollow (b : Block) (x : W64) : Option (List W32 × List W32) :=
  let bs := padBytes b ((x.toNat % 2 ^ 32 / 64 * 64 + 64) % 2 ^ 32) 32
  let w (k : Nat) : W32 := BitVec.ofNat 32 (leAt bs (4 * k) 4)
  match decodeWords (w 0) (w 1) (w 2) with
  | .instr (.mmat f) =>
    if f.a = 0x204 ∧ f.b = 0x204 ∧ f.c = 0x204 ∧ f.dst.toNat < b.acc ∧ leAt bs 24 8 = 0 ∧ (w 0).getLsbD 31 then
      some ([w 0, w 1, w 2], [w 3, w 4, w 5])
    else none
  | _ => none

/-- TCOPY goes on rather than trap (R264). -/
def tcopyOk (b : Block) (x : W64) : Bool := (readDesc b x).isSome

/-- TCOPYM goes on rather than trap (R264, R266). -/
def tcopymOk (b : Block) (x : W64) : Bool :=
  match readDesc b x with
  | some d => d.dsp == .p && !d.mc && (readFollow b x).isSome
  | none => false

end Sys2Proof.Machine
end

