-- ==== Sys2Proof/Machine/Ready.lean ====
section
/-! DEFINITION. Readiness of a fragment and the reason of an empty turn (R22, R29, R99 to R106, R183, R193, R196, R257). -/

namespace Sys2Proof.Machine

/-- A request waits at its walk because the park store of its die is full (R232). -/
def waitsForStore (s : State) (r : Req) : Bool :=
  r.stage == .walk && translated r.space && parkFull s (parkDie r)

/-- The stall reason of an access's unperformed requests, by their space when none is parked, on the lower tier or locked
(R106, R183). -/
def accReason (s : State) (id : Nat) : Nat :=
  let rs := (accReqs s id).filter fun e => e.2.stage != .done
  if rs.any fun e => isParked e.2 || waitsForStore s e.2 || (e.2.storeWait && parkFull s (parkDie e.2)) then stallParked
  else if rs.any fun e => e.2.stage == .tier then stallTier
  else if rs.any fun e => lockHeld s e.1 e.2 || (e.2.stage != .walk && sliceDead s e.2) then stallOther
  else match tabFind s.accs id with
    | some a =>
      if a.solicit then stallCensus
      else if a.cmd.isSome || !a.status.isEmpty then stallOther
      else if translated a.space then stallGload else stallPadteam
    | none => stallOther

/-- Why a pending register holds an instruction at a turn, if it still does (R22, R106). -/
def pendReason (s : State) (g : Gang) (p : Pend) : Option Nat :=
  match p.due with
  | .turn t => if g.turn < t then some stallLatency else none
  | .access id => some (accReason s id)

/-- The pending register of the earliest producer among some registers: its reason (R106). -/
def regsReason (s : State) (g : Gang) (rs : List RegName) : Option Nat :=
  ((g.pend.filter fun p => rs.contains p.reg).filterMap (pendReason s g)).head?

/-- A latch an instruction reads is still pending (R53). -/
def latchesPending (g : Gang) (ks : List Nat) : Bool := ks.any fun k => decide (g.turn < g.latchDue.getD k 0)

/-- Path counter that an instruction raises (R193, R261). -/
def instrPath (i : Instr) : Option Nat :=
  match i with
  | .ld f | .atom f | .cas f => some (if translated (spaceOf f.mod.toNat) then 0 else 2)
  | .st f | .red f => some (if translated (spaceOf f.mod.toNat) then 1 else 2)
  | .sldw .. | .sldd .. | .sldk .. => some 0
  | .sstw .. | .sstd .. | .cmo .. => some 1
  | .sldp .. | .sstp .. | .barinit .. | .bararr .. => some 2
  | .tcopy .. | .tcopym .. | .gload .. | .gput .. => some 3
  | _ => none

/-- Stall reason of a path (R106, R193). -/
def pathReason (p : Nat) : Nat := if p ≤ 1 then stallGload else if p = 2 then stallPadteam else stallCopyq

/-- The instruction waits for a copy-queue entry (R260, R265, R279, R280). -/
def waitsForCopy (s : State) (g : Gang) (b : Block) (i : Instr) : Bool :=
  match i with
  | .tcopy a => tcopyOk b (sreg g a) && copyFull s g.block b
  | .tcopym a => tcopymOk b (sreg g a) && copyFull s g.block b
  | .gload _ x y => gloadStatus s g.block b (sreg g x) (sreg g y) == 0 && copyFull s g.block b
  | .gput _ x y => gputStatus s g.block b (sreg g x) (sreg g y) == 0 && copyFull s g.block b
  | _ => false

/-- Instructions that take an entry of the matrix queue (R293). -/
def isMatrix (i : Instr) : Bool :=
  match i with
  | .mma _ | .mmat _ | .mmaz _ | .mzero _ | .mld _ | .mst _ | .mout _ => true
  | _ => false

/-- A matrix instruction breaks R52: it traps at issue, before it waits for queue space (R290, R291). -/
def matrixBreach (b : Block) (i : Instr) : Bool :=
  match laneParts? i with
  | some (cls, op, f) => laneBreach (laneRowD cls op) f b.regs b.acc != 0
  | none => false

/-- Matrix queue of a core. -/
def matQueue (s : State) (core : Nat) : List MatEntry := tabGet s.mq core []

/-- Registers that a queued entry holds (R294). -/
def heldRegs (e : MatEntry) : List RegName :=
  if e.op = 0 ∨ e.op = 2 then
    ((List.range 32).map fun j => .v (e.f.a.toNat + j)) ++
    ((List.range (if narrowB (bitsN e.f.mod.toNat 3 0) (bitsN e.f.mod.toNat 7 4) then 16 else 32)).map
      fun j => .v (e.f.b.toNat + j))
  else []

/-- Lane registers of a gang under matrix operand holds (R294). -/
def gangHolds (s : State) (key core : Nat) : List RegName :=
  ((matQueue s core).filter fun e => e.gang == key).flatMap heldRegs

/-- SRD of GSTAT waits for flags of earlier lane instructions, those of chip-plain accesses included (R126, R168). -/
def readsFlags (i : Instr) (g : Gang) : Bool :=
  match i with
  | .srd _ n => n == 0
  | .srdx _ a n => sreg g a + n.setWidth 64 == 0
  | _ => false

/-- An access of the gang to the chip plain is not yet performed. -/
def plainOpen (s : State) (key : Nat) : Bool :=
  s.reqs.any fun e => e.2.agent == .gang key && e.2.space == .h && e.2.stage != .done

/-- The range lock of a command of the core, issued before, covers some pad bytes of a block (R223, R268). -/
def padLocked (s : State) (uid : Nat) (b : Block) (bound : Nat) (ks : List Nat) : Bool :=
  s.cmds.any fun c => decide (c.1 < bound) && c.2.core == b.core && c.2.locks.any fun h =>
    h.space != .g && h.space != .h && h.block == uid && ks.any fun k => decide (h.lo ≤ k) && decide (k ≤ h.hi)

/-- Allocation bytes of a block's pad among some offsets (R166). -/
def padKeys (b : Block) (o n : Nat) : List Nat := (List.range n).filterMap fun i => padByteIx b (o + i)

/-- Older stores of a gang to some pad bytes are not performed yet (R212, R320). -/
def padStores (s : State) (key uid : Nat) (b : Block) (bound o n : Nat) : Bool :=
  s.reqs.any fun e => decide (e.1 < bound) && e.2.before.contains key && e.2.cmd.isNone && writes e.2.kind &&
    (e.2.space == .p || e.2.space == .c) && e.2.stage != .done &&
    (innerTargets s e.2).any fun t => t.1 == uid && (padKeys b o n).contains t.2

/-- A pad read of a gang as it issues waits: older stores of the gang to its bytes are not performed yet, or a range lock covers one
(R183, R212, R268, R320). -/
def padOpen (s : State) (key uid : Nat) (b : Block) (bound o n : Nat) : Bool :=
  padLocked s uid b bound (padKeys b o n) || padStores s key uid b bound o n

/-- The pad record that an instruction reads as it issues: offset and bytes (R263, R266, R279, R280, R310). -/
def instrRecord (i : Instr) (g : Gang) : Option (Nat × Nat) :=
  match i with
  | .tcopy a => some ((sreg g a).toNat % 2 ^ 32 / 64 * 64, 64)
  | .tcopym a => some ((sreg g a).toNat % 2 ^ 32 / 64 * 64, 96)
  | .gload _ _ y | .gput _ _ y => some ((sreg g y).toNat % 2 ^ 32 / 32 * 32, 32)
  | .solicit _ _ y => some ((sreg g y).toNat % 2 ^ 32 / 32 * 32, 32)
  | _ => none

/-- Why the pad record of an instruction is not there yet, if it is not: it is locked, or an earlier store of the gang to it is on its
way (R106, R183, R212, R268). -/
def recordReason (s : State) (key : Nat) (g : Gang) (b : Block) (i : Instr) : Option Nat :=
  match instrRecord i g with
  | some (o, n) =>
    if padLocked s g.block b s.nextId (padKeys b o n) then some stallOther
    else if padStores s key g.block b s.nextId o n then some stallPadteam else none
  | none => none

/-- Why a decoded instruction of a gang does not issue at this turn, if it does not (R22). -/
def instrReason (s : State) (key : Nat) (g : Gang) (b : Block) (i : Instr) : Option Nat :=
  match regsReason s g (instrUses i) with
  | some r => some r
  | none =>
    if latchesPending g (instrLatches i) then some stallLatency
    else if readsFlags i g && decide (g.turn < g.flagsDue) then some stallLatency
    else if readsFlags i g && plainOpen s key then some stallPadteam
    else if (recordReason s key g b i).isSome then recordReason s key g b i
    else if isMatrix i && !matrixBreach b i && decide (16 ≤ (matQueue s b.core).length) then some stallMatq
    else if (instrWrites i).any fun r => (gangHolds s key b.core).contains r then some stallMatq
    else if waitsForCopy s g b i then some stallCopyq
    else match instrPath i with
      | some p => if 1023 ≤ pathCount g p then some (pathReason p) else none
      | none => none

/-- Words that the instruction at a fragment's PC has, once its first is known (R42). -/
def wordsNeeded (ws : List W32) : Nat := if (ws.getD 0 0).getLsbD 31 then 3 else 1

/-- The words of a fragment's next instruction are all fetched (R43). -/
def fetched (f : Frag) : Bool := !f.words.isEmpty && decide (wordsNeeded f.words ≤ f.words.length)

/-- What a fragment's fetched words decode to (R59). -/
def fragInstr (f : Frag) : Decoded := decodeWords (f.words.getD 0 0) (f.words.getD 1 0) (f.words.getD 2 0)

/-- Outstanding accesses of a gang on a path, oldest first. -/
def pathAccs (s : State) (key p : Nat) : List (Nat × Access) :=
  s.accs.filter fun e => e.2.gang == key && e.2.path == some p

/-- A group load that its home slice still holds, for other members or for the timer (R257, R278). -/
def heldLoad (s : State) (id : Nat) : Bool :=
  s.groups.any fun e => e.2.held.contains id || (match e.2.round with
    | some r => r.asks.contains id && !r.triggered && r.timer != some 0 && (match tabFind s.cmds id with
      | some c => !c.started
      | none => false)
    | none => false)

/-- The barrier of a wait is the target of a group load that is held (R257). -/
def barrierHeld (s : State) (uid : Nat) (b : Block) (base : Nat) : Bool :=
  s.cmds.any fun e => e.2.block == uid && e.2.kind == .groupFill && heldLoad s e.1 && (match e.2.bar with
    | some o => o == base || ((padByteIx b o).isSome && padByteIx b o == padByteIx b base)
    | none => false)

/-- Only these reasons of its read are kept for an MWAITV; every other counts under OTHER (R197). -/
def monitorReason (r : Nat) : Nat := if r = stallParked ∨ r = stallTier then r else stallOther

/-- The stall reason of a fragment that waits at its instruction (R106, R194, R257). -/
def waitReason (s : State) (key : Nat) (g : Gang) (b : Block) (w : Wait) : Nat :=
  match w with
  | .join _ | .wide | .endw => stallJoin
  | .regroup _ | .bsync | .tsync => stallBarrier
  | .barwait base _ => if barrierHeld s g.block b base then stallGroup else stallBarrier
  | .mwait _ => stallMbatch
  | .swait p _ =>
    match pathAccs s key p with
    | (id, _) :: _ =>
      let r := accReason s id
      if r = stallParked ∨ r = stallTier then r else pathReason p
    | [] => pathReason p
  | .cwait _ _ _ => stallCensus
  | .mwaitvRead _ _ a => monitorReason (accReason s a)
  | .mwaitvIdle _ _ _ => stallOther
  | .running => stallOther

/-- Why a fragment is not ready at this turn, if it is not. A fragment whose words are not fetched is ready as far as R22
goes: words are fetched only for the fragment that holds the slot (R43). -/
def fragReason (s : State) (key : Nat) (g : Gang) (b : Block) (f : Frag) : Option Nat :=
  if f.wait ≠ .running then some (waitReason s key g b f.wait)
  else if g.turn < g.issueAt then some stallLatency
  else if fetched f then
    match fragInstr f with
    | .instr i => instrReason s key g b i
    | .illegal _ => none
  else none

/-- An access of the predecessor set of a FENCE is performed at its scope (R196, R206). -/
def fencedAcc (s : State) (w : FenceWait) (id : Nat) (a : Access) : Bool :=
  let rw := (w.pred.getLsbD 0 && a.sets.r) || (w.pred.getLsbD 1 && a.sets.w)
  !rw || accPerformed s w.scope id a

/-- Every source byte of a command is read; a group load's bytes may come with another member's read (R225, R279). -/
def cmdRead (s : State) (id : Nat) (c : Cmd) : Bool :=
  if c.kind == .groupFill then decide (c.total ≤ c.buf.length)
  else !s.reqs.any fun e => e.2.cmd == some id && e.2.stage != .done && e.2.kind == .copyRead

/-- A command keeps a FENCE waiting (R195, R196). -/
def fencedCmd (s : State) (w : FenceWait) (id : Nat) (c : Cmd) : Bool :=
  (!w.pred.getLsbD 2 || c.done || (c.started && cmdRead s id c)) && (!w.pred.getLsbD 3 || c.done)

/-- Matrix work of a gang that a FENCE with MR or MW waits for, by number: queue entries, and commands with a follow-on (R196,
R267). -/
def matrixOpen (s : State) (key core : Nat) : List Nat :=
  (((matQueue s core).filter fun e => e.before.contains key).map (·.id)) ++
  ((s.cmds.filter fun e => e.2.before.contains key && e.2.follow.isSome).map (·.1))

/-- Accesses of an acquired writer that a FENCE with W in its predecessor set covers too (R209, R210). -/
def takenOver (s : State) (key : Nat) (w : FenceWait) : List Nat :=
  if w.pred.getLsbD 1 then
    (s.reqs.filter fun e => e.2.before.contains key && e.2.kind == .write && e.2.cmd.isNone && !performedAt w.scope e.2).filterMap
      fun e => e.2.access
  else []

/-- Accesses, commands and matrix work that a FENCE still waits for, by number. -/
def fencePending (s : State) (key core : Nat) (w : FenceWait) : List Nat :=
  ((s.accs.filter fun e => e.2.before.contains key && !fencedAcc s w e.1 e.2).map fun e => e.1) ++ takenOver s key w ++
  ((s.cmds.filter fun e => e.2.before.contains key && !fencedCmd s w e.1 e.2).map fun e => e.1) ++
  (if w.pred.getLsbD 4 || w.pred.getLsbD 5 then matrixOpen s key core else [])

/-- The stall reason of a command that is not done: parked or on the lower tier where a request of it is, its own or the merged one
that serves it; OTHER at a halted unit; else COPYQ (R183, R196, R397). -/
def cmdReason (s : State) (id : Nat) : Nat :=
  let rs := s.reqs.filter fun e => e.2.stage != .done && (match e.2.cmd with
    | some c => c == id || (match tabFind s.cmds c with
      | some x => x.waiting.contains id && e.2.kind == .fill
      | none => false)
    | none => false)
  if rs.any fun e => isParked e.2 || waitsForStore s e.2 || (e.2.storeWait && parkFull s (parkDie e.2)) then stallParked
  else if rs.any fun e => e.2.stage == .tier then stallTier
  else if rs.any fun e => e.2.stage != .walk && sliceDead s e.2 then stallOther
  else stallCopyq

/-- The stall reason of a FENCE, from its oldest unperformed access; none once all are performed (R196). -/
def fenceReason (s : State) (key : Nat) (b : Block) (w : FenceWait) : Option Nat :=
  match fencePending s key b.core w with
  | [] => none
  | x :: xs =>
    let id := xs.foldl min x
    match tabFind s.cmds id with
    | some c => some (if fencedCmd s w id c then stallMbatch else cmdReason s id)
    | none => some (if (tabFind s.accs id).isSome then accReason s id else stallMbatch)

/-- The fragment that has the slot at this turn: the first ready one after a switch point, or the holder; where the holder is gone and
none is ready, the next one of the table (R29). -/
def slotHolder (s : State) (key : Nat) (g : Gang) (b : Block) : Nat :=
  let ready (e : Nat) : Bool := match tabFind g.frags e with
    | some f => (fragReason s key g b f).isNone
    | none => false
  let there (e : Nat) : Bool := (tabFind g.frags e).isSome
  let next := ((entriesAfter g.cur).find? ready).getD (if there g.cur then g.cur else ((entriesAfter g.cur).find? there).getD g.cur)
  match g.handover with
  | .switched => next
  | .open_ => if ready g.cur then g.cur else next
  | .closed => if there g.cur then g.cur else next

/-- Another fragment of the gang than its slot holder is ready (R106 step 4). -/
def otherReady (s : State) (key : Nat) (g : Gang) (b : Block) : Bool :=
  g.frags.any fun e => e.1 != g.cur && (fragReason s key g b e.2).isNone

/-- The gang runs a debug step (R101). -/
def stepping (g : Gang) : Bool :=
  match g.stepLeft with
  | some n => decide (0 < n)
  | none => false

/-- The context of a block is being saved or restored: its gangs issue nothing (R249, R252). -/
def ctxMoving (s : State) (ctx : Nat) : Bool :=
  match tabFind s.ctxs ctx with
  | some c => c.st == .saving || c.st == .restoring
  | none => false

/-- A control error halted the core (R397). -/
def coreDead (s : State) (core : Nat) : Bool := s.mgmt.halted.contains (sourceId 12 core).toNat

/-- The gang is halted, stops, holds or waits for its context to be switched, for a cause that counts under OTHER: step 1 of R106, and
causes of its table's last row; while a gang of a halted block runs a debug step too (R99, R103, R106, R248, R332, R397). -/
def standsOther (s : State) (b : Block) (g : Gang) : Bool :=
  g.halted || g.held.isSome || b.haltReq || b.halted || g.yieldStop || coreDead s b.core

/-- The gang issues nothing: its block is halted or stops, it holds at a breakpoint, a trap halted it, it stopped at a YIELD,
or its context or core stands (R99, R103, R248, R249, R332, R397). -/
def stopped (s : State) (b : Block) (g : Gang) : Bool :=
  g.halted || g.held.isSome || b.haltReq || (b.halted && !stepping g) || g.yieldStop || ctxMoving s b.ctx ||
  coreDead s b.core

/-- The words that a gang waits for stand at a slice that a control error halted (R397). -/
def fetchDead (s : State) (key : Nat) : Bool :=
  s.reqs.any fun e => isFetch e.2.kind && reqGang e.2 == some key && e.2.stage != .walk && e.2.stage != .done && sliceDead s e.2

/-- The one counter that an empty turn raises (R106). A gang that issues nothing only because its context is being saved counts what it
waits for, and OTHER where it waits for nothing else. -/
def stallIndex (s : State) (key : Nat) (g : Gang) (b : Block) : Nat :=
  if standsOther s b g then stallOther
  else if g.pausing && g.pauseLeft != 0 then stallPause
  else match g.fence with
    | some w => (fenceReason s key b w).getD stallOther
    | none =>
      match tabFind g.frags g.cur with
      | some f =>
        if f.wait == .running && !fetched f then (if fetchDead s key then stallOther else stallFetch)
        else match fragReason s key g b f with
          | none => stallOther
          | some r => if otherReady s key g b then stallFragment else r
      | none => if otherReady s key g b then stallFragment else stallOther

/-- A gang counts as one that holds a ready fragment, for the urgent mark: it could issue at a turn. One whose words are not
fetched, that pauses, waits at a FENCE or is stopped does not count (R41; log 43). -/
def gangReady (s : State) (key : Nat) (g : Gang) (b : Block) : Bool :=
  !(stopped s b g || g.pausing || g.retired) && g.fence.isNone &&
  (match tabFind g.frags (slotHolder s key g b) with
    | some f => (fragReason s key g b f).isNone && fetched f
    | none => false)

/-- A read is urgent: no other slot of its pipe holds a gang that is ready as of its next turn (R41; log 43). -/
def urgentNow (s : State) (key : Nat) (g : Gang) (core : Nat) : Bool :=
  s.gangs.all fun e => e.1 == key || e.2.retired || e.2.pipe != g.pipe || (match tabFind s.blocks e.2.block with
    | some b => b.core != core || !gangReady s e.1 { e.2 with turn := e.2.turn + 1 } b
    | none => true)

end Sys2Proof.Machine
end

