-- ==== Sys2Proof/Machine/DebugOps.lean ====
section
/-! DEFINITION. What the debug unit of a core does by itself: records, halting a block, holds at a breakpoint, and what a
gang's retirement means for it and for the col network (R99 to R103, R107, R315). -/

namespace Sys2Proof.Machine

/-- Address of a PC in a record: bits [56:2], zero without debug permission (R98, R107). -/
def recordPc (s : State) (b : Block) (pc : W64) : Nat :=
  if debugPermitted s b.ctx b.world then pc.toNat % 2 ^ 57 / 4 else 0

/-- The 32-byte header of a record (R107). -/
def recordHeader (seq : W32) (b : Block) (kind gid detail pc : Nat) : List Byte :=
  leBytes 4 seq.toNat ++ leBytes 2 b.core ++ leBytes 1 kind ++ leBytes 1 gid ++ leBytes 4 b.launch ++
  leBytes 4 b.cx.toNat ++ leBytes 2 b.cy.toNat ++ leBytes 2 b.cz.toNat ++ leBytes 4 b.phase.toNat ++
  leBytes 1 detail ++ leBytes 7 pc

/-- Units of the record ring of a core from a unit on, wrapping round its end. The debug unit posts them, so that TAIL may be ahead of a
unit whose line is held or on another device, of which the spec says nothing (R107; DESIGN CHOICE, log 10). -/
def putUnits (s : State) (base size unit : Nat) (bs : List Byte) : State :=
  (List.range (bs.length / 32)).foldl (fun s k =>
    physPost s (base + (unit + k) % size * 32) ((bs.drop (32 * k)).take 32)) s

/-- Write a record of whole units into a core's ring, or drop it with its sequence number used; the first number of a unit is 0
(R107, R108; log 22). -/
def putRecord (s : State) (core : Nat) (record : W32 → List Byte) : State :=
  let seq := tabGet s.dbgSeq core 0
  let s := { s with dbgSeq := tabPut s.dbgSeq core (seq + 1) }
  let bs := record seq
  let units := bs.length / 32
  let log := regField s (.debug core 0x028) 60 56
  let size := 2 ^ log
  let tail := regField s (.debug core 0x030) 31 0
  if 4 ≤ log ∧ log ≤ 16 ∧ seqDiff tail (regField s (.debug core 0x030) 63 32) + units ≤ size then
    setField (putUnits s (regField s (.debug core 0x028) 55 5 * 32) size tail bs) (.debug core 0x030) 31 0
      ((tail + units) % 2 ^ 32)
  else s

/-- The unit of a block's core is enabled and serves its context (R98, R108). -/
def unitOn (s : State) (b : Block) (bit : Nat) : Bool :=
  debugServes s b && regField s (.debug b.core 0) bit bit == 1

/-- A trace record of a block (R107). -/
def traceRecord (s : State) (b : Block) (kind gid detail : Nat) (pc : W64) : State :=
  if unitOn s b 4 then putRecord s b.core fun seq => recordHeader seq b kind gid detail (recordPc s b pc) else s

/-- A halt of a block is requested: its gangs stop at their next turns (R99). In a block that is halted a gang that steps stands
again, and its step ends (R101, R103, R104). -/
def requestHalt (s : State) (uid : Nat) : State :=
  match tabFind s.blocks uid with
  | some b =>
    if b.halted then { s with gangs := tabMap s.gangs fun g => if g.block == uid then { g with stepLeft := none } else g }
    else putBlock s uid { b with haltReq := true }
  | none => s

/-- The block halts once every live gang of it holds at one breakpoint (R103). -/
def gatherCheck (s : State) (uid : Nat) : State :=
  match liveGangs s uid with
  | [] => s
  | (_, g) :: r => if g.held.isSome && r.all (fun e => e.2.held == g.held) then requestHalt s uid else s

/-- A responder's answer goes up the col network, with the fields it sends or as an empty response (R315). -/
def sendResponse (s : State) (uid : Nat) (fields : List W32) (empty : Bool) : State :=
  match tabFind s.blocks uid with
  | some b => match b.responder with
    | some r =>
      let s := putBlock s uid { b with responder := some { r with responded := true } }
      { s with censuses := tabUpd s.censuses r.census fun c =>
          { c with
            pending := c.pending ++ [{ counted := r.counted, fields := fields, empty := empty, gang := gangKey uid 0,
                                       bound := s.nextId }]
            responded := c.responded + 1 } }
    | none => s
  | none => s

/-- A responder that retires without responding has responded with an empty response (R315). -/
def responderGone (s : State) (uid : Nat) : State :=
  match tabFind s.blocks uid with
  | some b => match b.responder with
    | some r => if r.responded then s else sendResponse s uid [] true
    | none => s
  | none => s

/-- A program buffer that a RESUME has suspended stops with REFUSED where its gang has retired meanwhile, of which the spec says nothing
(R105; log 22). -/
def endBuffers (s : State) (uid : Nat) : State :=
  s.stuffing.foldl (fun s e =>
    if e.2.gang / 32 == uid && (match tabFind s.gangs e.2.gang with
      | some g => g.retired
      | none => true) then endBuffer s e.1 e.2.next 1 0 else s) s

/-- What the retirement of a gang means beyond the gang (R103, R105, R315). -/
def gangRetired (s : State) (uid : Nat) : State :=
  gatherCheck (endBuffers (if (liveGangs s uid).isEmpty then responderGone s uid else s) uid) uid

end Sys2Proof.Machine
end

