-- ==== Sys2Proof/Machine/Scalar.lean ====
section
/-! DEFINITION. Scalar integer and immediate instructions, classes 0x1 and 0x2 (R70 to R74). -/

namespace Sys2Proof.Machine

/-- A scalar instruction that writes one value computed from the gang's state to sd (R70, R71). -/
def scalarOp (s : State) (sd : BitVec 6) (value : Issue → W64) : Answer :=
  onIssue s fun i => finish s i (setSreg i.g sd (value i)) 4

/-- The scalar registers of the issuing gang. -/
def rs (i : Issue) (n : BitVec 6) : W64 := sreg i.g n

/-- A truth value as a word. -/
def boolWord (b : Bool) : W64 := if b then 1 else 0

/-- Shift count of a scalar shift: the low 6 bits (R73). -/
def shiftCount (x : W64) : Nat := x.toNat % 64

/-- Bits [127:64] of a product of integers (R73). -/
def highProduct (a b : Int) : W64 := BitVec.ofInt 64 (a * b / 2 ^ 64)

/-- Leading zero bits of a word of `n` bits (R73, R135). -/
def leadingZeros (x n : Nat) : Nat :=
  match n with
  | 0 => 0
  | n + 1 => if 2 ^ n ≤ x then 0 else 1 + leadingZeros x n

/-- SADD: wrapping sum (R73). -/
def execSadd (sd sa sb : BitVec 6) (s : State) : Answer :=
  scalarOp s sd fun i => rs i sa + rs i sb

/-- SSUB: wrapping difference (R73). -/
def execSsub (sd sa sb : BitVec 6) (s : State) : Answer :=
  scalarOp s sd fun i => rs i sa - rs i sb

/-- SMUL: low 64 bits of the product (R73). -/
def execSmul (sd sa sb : BitVec 6) (s : State) : Answer :=
  scalarOp s sd fun i => rs i sa * rs i sb

/-- SMULH: high half of the signed product (R73). -/
def execSmulh (sd sa sb : BitVec 6) (s : State) : Answer :=
  scalarOp s sd fun i => highProduct (rs i sa).toInt (rs i sb).toInt

/-- SMULHN: high half of the unsigned product (R73). -/
def execSmulhn (sd sa sb : BitVec 6) (s : State) : Answer :=
  scalarOp s sd fun i => highProduct (rs i sa).toNat (rs i sb).toNat

/-- SAND (R73). -/
def execSand (sd sa sb : BitVec 6) (s : State) : Answer :=
  scalarOp s sd fun i => rs i sa &&& rs i sb

/-- SOR (R73). -/
def execSor (sd sa sb : BitVec 6) (s : State) : Answer :=
  scalarOp s sd fun i => rs i sa ||| rs i sb

/-- SXOR (R73). -/
def execSxor (sd sa sb : BitVec 6) (s : State) : Answer :=
  scalarOp s sd fun i => rs i sa ^^^ rs i sb

/-- SSHL: zeros in (R73). -/
def execSshl (sd sa sb : BitVec 6) (s : State) : Answer :=
  scalarOp s sd fun i => rs i sa <<< shiftCount (rs i sb)

/-- SSHR: zeros in (R73). -/
def execSshr (sd sa sb : BitVec 6) (s : State) : Answer :=
  scalarOp s sd fun i => rs i sa >>> shiftCount (rs i sb)

/-- SSRA: copies of bit 63 in (R73). -/
def execSsra (sd sa sb : BitVec 6) (s : State) : Answer :=
  scalarOp s sd fun i => (rs i sa).sshiftRight (shiftCount (rs i sb))

/-- SMIN: signed minimum (R73). -/
def execSmin (sd sa sb : BitVec 6) (s : State) : Answer :=
  scalarOp s sd fun i => if (rs i sa).slt (rs i sb) then rs i sa else rs i sb

/-- SMAX: signed maximum (R73). -/
def execSmax (sd sa sb : BitVec 6) (s : State) : Answer :=
  scalarOp s sd fun i => if (rs i sa).slt (rs i sb) then rs i sb else rs i sa

/-- SMINN: unsigned minimum (R73). -/
def execSminn (sd sa sb : BitVec 6) (s : State) : Answer :=
  scalarOp s sd fun i => if (rs i sa).ult (rs i sb) then rs i sa else rs i sb

/-- SMAXN: unsigned maximum (R73). -/
def execSmaxn (sd sa sb : BitVec 6) (s : State) : Answer :=
  scalarOp s sd fun i => if (rs i sa).ult (rs i sb) then rs i sb else rs i sa

/-- SSLT: signed less than (R73). -/
def execSslt (sd sa sb : BitVec 6) (s : State) : Answer :=
  scalarOp s sd fun i => boolWord ((rs i sa).slt (rs i sb))

/-- SSLTN: unsigned less than (R73). -/
def execSsltn (sd sa sb : BitVec 6) (s : State) : Answer :=
  scalarOp s sd fun i => boolWord ((rs i sa).ult (rs i sb))

/-- SCLZ: leading zero bits (R73). -/
def execSclz (sd sa : BitVec 6) (s : State) : Answer :=
  scalarOp s sd fun i => BitVec.ofNat 64 (leadingZeros (rs i sa).toNat 64)

/-- SPOPC: one bits (R73). -/
def execSpopc (sd sa : BitVec 6) (s : State) : Answer :=
  scalarOp s sd fun i => BitVec.ofNat 64 (countOnes (rs i sa).toNat 64)

/-- SADDI (R74). -/
def execSaddi (sd sa : BitVec 6) (imm : BitVec 10) (s : State) : Answer :=
  scalarOp s sd fun i => rs i sa + imm.signExtend 64

/-- SANDI: sign-extended immediate (R74). -/
def execSandi (sd sa : BitVec 6) (imm : BitVec 10) (s : State) : Answer :=
  scalarOp s sd fun i => rs i sa &&& imm.signExtend 64

/-- SORI: zero-extended immediate (R74). -/
def execSori (sd sa : BitVec 6) (imm : BitVec 10) (s : State) : Answer :=
  scalarOp s sd fun i => rs i sa ||| imm.setWidth 64

/-- SXORI: zero-extended immediate (R74). -/
def execSxori (sd sa : BitVec 6) (imm : BitVec 10) (s : State) : Answer :=
  scalarOp s sd fun i => rs i sa ^^^ imm.setWidth 64

/-- SSLTI: signed less than (R74). -/
def execSslti (sd sa : BitVec 6) (imm : BitVec 10) (s : State) : Answer :=
  scalarOp s sd fun i => boolWord ((rs i sa).slt (imm.signExtend 64))

/-- SSHLI (R74). -/
def execSshli (sd sa : BitVec 6) (n : BitVec 6) (s : State) : Answer :=
  scalarOp s sd fun i => rs i sa <<< n.toNat

/-- SSHRI (R74). -/
def execSshri (sd sa : BitVec 6) (n : BitVec 6) (s : State) : Answer :=
  scalarOp s sd fun i => rs i sa >>> n.toNat

/-- SSRAI (R74). -/
def execSsrai (sd sa : BitVec 6) (n : BitVec 6) (s : State) : Answer :=
  scalarOp s sd fun i => (rs i sa).sshiftRight n.toNat

/-- SLUI: the immediate times 65536, sign-extended from 32 bits (R74). -/
def execSlui (sd : BitVec 6) (imm : BitVec 16) (s : State) : Answer :=
  scalarOp s sd fun _ => ((imm ++ (0 : BitVec 16)) : W32).signExtend 64

/-- SADDPC: its own address plus four times the immediate (R74). -/
def execSaddpc (sd : BitVec 6) (imm : BitVec 16) (s : State) : Answer :=
  scalarOp s sd fun i => i.f.pc + 4 * imm.signExtend 64

/-- SMOVI (R74). -/
def execSmovi (sd : BitVec 6) (imm : BitVec 16) (s : State) : Answer :=
  scalarOp s sd fun _ => imm.signExtend 64

/-- SINS16: shifts sd up by 16 and inserts the immediate (R74). -/
def execSins16 (sd : BitVec 6) (imm : BitVec 16) (s : State) : Answer :=
  scalarOp s sd fun i => (rs i sd <<< 16) ||| imm.setWidth 64

end Sys2Proof.Machine
end

