-- ==== Sys2Proof/Machine/Integer.lean ====
section
/-! DEFINITION. Lane integer, compare, select and move instructions, classes 0x0 and 0x1 (R135 to R140). -/

namespace Sys2Proof.Machine

/-- The sources of a lane instruction in a lane, by its type (R50, R135). -/
def srcA (i : Issue) (f : Lane) (l : Nat) : W64 := srcVal i f.a.toNat f.ty.toNat f.imm l
def srcB (i : Issue) (f : Lane) (l : Nat) : W64 := srcVal i f.b.toNat f.ty.toNat f.imm l
def srcC (i : Issue) (f : Lane) (l : Nat) : W64 := srcVal i f.c.toNat f.ty.toNat f.imm l

/-- Width of an integer type in bits (R57). -/
def tyWidth (f : Lane) : Nat := if is64 f.ty.toNat then 64 else 32

/-- A signed integer type: s32 or s64 (R57). -/
def tySigned (f : Lane) : Bool := f.ty == 1 || f.ty == 3

/-- The integer a pattern stands for under the type (R111, R135). -/
def asInt (f : Lane) (x : W64) : Int :=
  if tySigned f then (if is64 f.ty.toNat then x.toInt else (x.setWidth 32).toInt) else x.toNat

/-- An integer wrapped to the type's width (R135). -/
def wrapTo (f : Lane) (i : Int) : W64 := BitVec.ofNat 64 (wrapInt (tyWidth f) i)

/-- An integer saturated to the type when SAT is set, else wrapped (R135). -/
def wsat (f : Lane) (i : Int) : W64 :=
  if f.mod.getLsbD 0 then wrapTo f (clampInt (tyWidth f) (tySigned f) i) else wrapTo f i

/-- A class 0x0 op of latency and interval 1 that sets no flag (R135, R159). -/
def intOp (s : State) (op : Nat) (f : Lane) (value : Issue → Nat → W64) : Answer :=
  laneOp s 0 op f 1 1 fun i l => (value i l, noFlags)

/-- The operand's integer in a lane. -/
def intA (i : Issue) (f : Lane) (l : Nat) : Int := asInt f (srcA i f l)
def intB (i : Issue) (f : Lane) (l : Nat) : Int := asInt f (srcB i f l)
def intC (i : Issue) (f : Lane) (l : Nat) : Int := asInt f (srcC i f l)

/-- Lane shift count: bits [31:0] of the operand, unsigned and clamped by each op (R136). -/
def laneCount (x : W64) : Nat := x.toNat % 2 ^ 32

/-- A pattern shifted right arithmetically from its own top bit, with a clamped count (R136). -/
def shiftRightArith (w n : Nat) (x : W64) : W64 :=
  let y : Int := if x.toNat / 2 ^ (w - 1) % 2 = 1 then (x.toNat : Int) - 2 ^ w else x.toNat
  BitVec.ofNat 64 (wrapInt w (y / 2 ^ (min n w)))

/-- One bit of the truth table by three operand bits (R135). -/
def ternWord (tt : Nat) (a b c : W64) : W64 :=
  let pick (n : Nat) (x : W64) : W64 := if bitN n 0 then x else ~~~x
  low32 (((List.range 8).filter fun n => bitN tt n).foldl
    (fun r n => r ||| (pick n a &&& pick (n / 2) b &&& pick (n / 4) c)) 0)

/-- Reverse the low 32 bits (R135). -/
def reverse32 (x : W64) : W64 :=
  BitVec.ofNat 64 (((List.range 32).map fun j => if bitN x.toNat j then 2 ^ (31 - j) else 0).foldl (· + ·) 0)

/-- Funnel shift of h:l (R136). -/
def funnel (mod : BitVec 10) (lo hi c : W64) : W64 :=
  let n := if mod.getLsbD 1 then min (laneCount c) 32 else laneCount c % 32
  let x := hi.toNat % 2 ^ 32 * 2 ^ 32 + lo.toNat % 2 ^ 32
  if mod.getLsbD 0 then BitVec.ofNat 64 (x / 2 ^ n % 2 ^ 32) else BitVec.ofNat 64 (x * 2 ^ n / 2 ^ 32 % 2 ^ 32)

/-- Field position and length of BFE and BFI (R137). -/
def fieldPos (b : W64) : Nat := b.toNat % 256
def fieldLen (b : W64) : Nat := min (b.toNat / 256 % 256) 32

/-- Field extract (R137). -/
def extractField (signed : Bool) (a b : W64) : W64 :=
  let x : Int := if signed then (a.setWidth 32).toInt else (a.setWidth 32).toNat
  let len := fieldLen b
  let v := wrapInt len (x / 2 ^ fieldPos b)
  if len = 0 then 0
  else if signed && v / 2 ^ (len - 1) % 2 == 1 then BitVec.ofNat 64 (2 ^ 32 - 2 ^ len + v) else BitVec.ofNat 64 v

/-- Field insert (R137). -/
def insertField (a b c : W64) : W64 :=
  let pos := fieldPos c
  let len := fieldLen c
  if len = 0 ∨ 32 ≤ pos then low32 b
  else
    let n := min (pos + len) 32 - pos
    wput (low32 b) (pos + n - 1) pos (a.toNat % 2 ^ n)

/-- Byte permute (R137). -/
def permute (a b c : W64) : W64 :=
  let x := b.toNat % 2 ^ 32 * 2 ^ 32 + a.toNat % 2 ^ 32
  let byte (j : Nat) : Nat :=
    let sel := c.toNat / 2 ^ (4 * j) % 16
    let v := x / 2 ^ (8 * (sel % 8)) % 256
    if sel / 8 = 1 then (if v / 128 = 1 then 255 else 0) else v
  BitVec.ofNat 64 (byte 0 + 256 * byte 1 + 65536 * byte 2 + 16777216 * byte 3)

/-- IADD (R135). -/
def execIadd (f : Lane) (s : State) : Answer :=
  intOp s 0 f fun i l => wsat f (intA i f l + intB i f l)

/-- ISUB (R135). -/
def execIsub (f : Lane) (s : State) : Answer :=
  intOp s 1 f fun i l => wsat f (intA i f l - intB i f l)

/-- IMUL: low half (R135). -/
def execImul (f : Lane) (s : State) : Answer :=
  intOp s 2 f fun i l => wrapTo f (intA i f l * intB i f l)

/-- IMULH: bits [63:32] of the exact product (R135). -/
def execImulh (f : Lane) (s : State) : Answer :=
  intOp s 3 f fun i l => BitVec.ofNat 64 (wrapInt 32 (intA i f l * intB i f l / 2 ^ 32))

/-- IMAD (R135). -/
def execImad (f : Lane) (s : State) : Answer :=
  intOp s 4 f fun i l => wrapTo f (intA i f l * intB i f l + intC i f l)

/-- IADD3 (R135). -/
def execIadd3 (f : Lane) (s : State) : Answer :=
  intOp s 5 f fun i l => wsat f (intA i f l + intB i f l + intC i f l)

/-- IABS (R135). -/
def execIabs (f : Lane) (s : State) : Answer :=
  intOp s 6 f fun i l => wsat f ((intA i f l).natAbs : Int)

/-- INEG (R135). -/
def execIneg (f : Lane) (s : State) : Answer :=
  intOp s 7 f fun i l => wsat f (-(intA i f l))

/-- IMIN (R135). -/
def execImin (f : Lane) (s : State) : Answer :=
  intOp s 8 f fun i l => if intA i f l ≤ intB i f l then srcA i f l else srcB i f l

/-- IMAX (R135). -/
def execImax (f : Lane) (s : State) : Answer :=
  intOp s 9 f fun i l => if intA i f l ≤ intB i f l then srcB i f l else srcA i f l

/-- IAND (R135). -/
def execIand (f : Lane) (s : State) : Answer :=
  intOp s 10 f fun i l => srcA i f l &&& srcB i f l

/-- IOR (R135). -/
def execIor (f : Lane) (s : State) : Answer :=
  intOp s 11 f fun i l => srcA i f l ||| srcB i f l

/-- IXOR (R135). -/
def execIxor (f : Lane) (s : State) : Answer :=
  intOp s 12 f fun i l => srcA i f l ^^^ srcB i f l

/-- INOT (R135). -/
def execInot (f : Lane) (s : State) : Answer :=
  intOp s 13 f fun i l => wrapTo f (~~~(srcA i f l)).toNat

/-- TERN: truth table in mod[7:0] (R135). -/
def execTern (f : Lane) (s : State) : Answer :=
  intOp s 14 f fun i l => ternWord (bitsN f.mod.toNat 7 0) (srcA i f l) (srcB i f l) (srcC i f l)

/-- ISHL (R136). -/
def execIshl (f : Lane) (s : State) : Answer :=
  intOp s 15 f fun i l => if tyWidth f ≤ laneCount (srcB i f l) then 0 else wrapTo f ((srcA i f l).toNat * 2 ^ laneCount (srcB i f l))

/-- ISHR (R136). -/
def execIshr (f : Lane) (s : State) : Answer :=
  intOp s 16 f fun i l => srcA i f l >>> laneCount (srcB i f l)

/-- ISRA (R136). -/
def execIsra (f : Lane) (s : State) : Answer :=
  intOp s 17 f fun i l => shiftRightArith (tyWidth f) (laneCount (srcB i f l)) (srcA i f l)

/-- SHF (R136). -/
def execShf (f : Lane) (s : State) : Answer :=
  intOp s 18 f fun i l => funnel f.mod (srcA i f l) (srcB i f l) (srcC i f l)

/-- POPC (R135). -/
def execPopc (f : Lane) (s : State) : Answer :=
  intOp s 19 f fun i l => BitVec.ofNat 64 (countOnes (srcA i f l).toNat 32)

/-- CLZ (R135). -/
def execClz (f : Lane) (s : State) : Answer :=
  intOp s 20 f fun i l => BitVec.ofNat 64 (leadingZeros ((srcA i f l).toNat % 2 ^ 32) 32)

/-- BREV (R135). -/
def execBrev (f : Lane) (s : State) : Answer :=
  intOp s 21 f fun i l => reverse32 (srcA i f l)

/-- BFE (R137). -/
def execBfe (f : Lane) (s : State) : Answer :=
  intOp s 22 f fun i l => extractField (f.ty == 1) (srcA i f l) (srcB i f l)

/-- BFI (R137). -/
def execBfi (f : Lane) (s : State) : Answer :=
  intOp s 23 f fun i l => insertField (srcA i f l) (srcB i f l) (srcC i f l)

/-- PRMT (R137). -/
def execPrmt (f : Lane) (s : State) : Answer :=
  intOp s 24 f fun i l => permute (srcA i f l) (srcB i f l) (srcC i f l)

/-- A comparison by its code, from equality and less-than (R62, R138). -/
def condHolds (code : Nat) (eq lt : Bool) : Bool :=
  match code with
  | 0 => eq
  | 1 => !eq
  | 2 => lt
  | 3 => lt || eq
  | 4 => !(lt || eq)
  | _ => !lt

/-- ICMP (R138). -/
def execIcmp (f : Lane) (s : State) : Answer :=
  predOp s 1 0 f 1 1 fun i l =>
    (condHolds (bitsN f.mod.toNat 2 0) (intA i f l == intB i f l) (decide (intA i f l < intB i f l)), noFlags)

/-- KLOP: a truth table over two predicates (R139). -/
def execKlop (f : Lane) (s : State) : Answer :=
  predOp s 1 2 f 1 1 fun i l =>
    (bitN (bitsN f.mod.toNat 9 6)
      (2 * (pred i.g (f.mod.extractLsb' 0 3) l).toNat + (pred i.g (f.mod.extractLsb' 3 3) l).toNat), noFlags)

/-- KMOV: whether a is nonzero (R139). -/
def execKmov (f : Lane) (s : State) : Answer := predOp s 1 3 f 1 1 fun i l => (srcA i f l != 0, noFlags)

/-- KTOV: the lane's predicates as a word (R139). -/
def execKtov (f : Lane) (s : State) : Answer :=
  laneOp s 1 4 f 1 1 fun i l =>
    (BitVec.ofNat 64 (((List.range 8).map fun n => if pred i.g (BitVec.ofNat 3 n) l then 2 ^ n else 0).foldl (· + ·) 0), noFlags)

/-- SEL (R140). -/
def execSel (f : Lane) (s : State) : Answer :=
  laneOp s 1 5 f 1 1 fun i l =>
    (if pred i.g (f.mod.extractLsb' 0 3) l != f.mod.getLsbD 3 then srcA i f l else srcB i f l, noFlags)

/-- MOV (R140). -/
def execMov (f : Lane) (s : State) : Answer := laneOp s 1 6 f 1 1 fun i l => (srcA i f l, noFlags)

/-- MOVI: W2 as a 32-bit immediate (R140). -/
def execMovi (f : Lane) (s : State) : Answer :=
  laneOp s 1 7 f 1 1 fun _ _ => ((f.c ++ f.imm : W32).setWidth 64, noFlags)

end Sys2Proof.Machine
end

