-- ==== Sys2Proof/Machine/Control.lean ====
section
/-! DEFINITION. Control flow: jumps, scalar and lane branches, JOIN, WIDE and ENDW, REGROUP, the barriers of a block and a team,
YIELD, PAUSE, EXIT and RETC (R24 to R40, R79 to R97). -/

namespace Sys2Proof.Machine

/-- Continue at a next PC; a taken branch to or below its own PC is a switch point (R29, R81). -/
def jump (s : State) (i : Issue) (g : Gang) (next : W64) (taken : Bool) : Answer :=
  let g := tickIssue g 1
  let g := if taken && decide (next.toNat ≤ i.f.pc.toNat) then switchAt i g else g
  .next (putGang s i.cur.gang (setPc i g next))

/-- Target of a word offset (R42, R46). -/
def branchTarget (i : Issue) (off : W64) : W64 := i.f.pc + 4 * off

/-- A branch on a condition of the gang's state (R80). -/
def condBranch (s : State) (off : BitVec 10) (cond : Issue → Bool) : Answer :=
  onIssue s fun i =>
    if cond i then jump s i i.g (branchTarget i (off.signExtend 64)) true else jump s i i.g (i.f.pc + 4) false

/-- Lanes of the fragment that are no helpers (R80). -/
def workLanes (i : Issue) : Mask := lanesMask i &&& ~~~i.g.helper

/-- NOP (R96). -/
def execNop (s : State) : Answer := onIssue s fun i => finish s i i.g 4

/-- BRA (R80). -/
def execBra (off : BitVec 16) (s : State) : Answer :=
  onIssue s fun i => jump s i i.g (branchTarget i (off.signExtend 64)) true

/-- JAL (R80). -/
def execJal (sd : BitVec 6) (off : BitVec 16) (s : State) : Answer :=
  onIssue s fun i => jump s i (setSreg i.g sd (i.f.pc + 4)) (branchTarget i (off.signExtend 64)) true

/-- JALR: the target is read before sd is written (R66, R80). -/
def execJalr (sd sa : BitVec 6) (imm : BitVec 10) (s : State) : Answer :=
  onIssue s fun i =>
    jump s i (setSreg i.g sd (i.f.pc + 4)) ((rs i sa + imm.signExtend 64) &&& ~~~(3 : W64)) true

/-- BEQ (R80). -/
def execBeq (sa sb : BitVec 6) (off : BitVec 10) (s : State) : Answer :=
  condBranch s off fun i => rs i sa == rs i sb

/-- BNE (R80). -/
def execBne (sa sb : BitVec 6) (off : BitVec 10) (s : State) : Answer :=
  condBranch s off fun i => rs i sa != rs i sb

/-- BLT: signed (R80). -/
def execBlt (sa sb : BitVec 6) (off : BitVec 10) (s : State) : Answer :=
  condBranch s off fun i => (rs i sa).slt (rs i sb)

/-- BGE: signed (R80). -/
def execBge (sa sb : BitVec 6) (off : BitVec 10) (s : State) : Answer :=
  condBranch s off fun i => !(rs i sa).slt (rs i sb)

/-- BLTN: unsigned (R80). -/
def execBltn (sa sb : BitVec 6) (off : BitVec 10) (s : State) : Answer :=
  condBranch s off fun i => (rs i sa).ult (rs i sb)

/-- BGEN: unsigned (R80). -/
def execBgen (sa sb : BitVec 6) (off : BitVec 10) (s : State) : Answer :=
  condBranch s off fun i => !(rs i sa).ult (rs i sb)

/-- BANY (R80). -/
def execBany (p : BitVec 3) (off : BitVec 10) (s : State) : Answer :=
  condBranch s off fun i => workLanes i &&& predMask i.g p != 0

/-- BALL (R80). -/
def execBall (p : BitVec 3) (off : BitVec 10) (s : State) : Answer :=
  condBranch s off fun i => workLanes i &&& ~~~predMask i.g p == 0

/-- BNONE: not BANY (R80). -/
def execBnone (p : BitVec 3) (off : BitVec 10) (s : State) : Answer :=
  condBranch s off fun i => workLanes i &&& predMask i.g p == 0

/-- A fragment issues a blocking wait and waits there (R29). -/
def waitHere (i : Issue) (w : Wait) : Gang := setWait i (switchAt i (tickIssue i.g 1)) w

/-- JOIN (R27, R86). -/
def execJoin (s : State) : Answer :=
  onIssue s fun i =>
    match i.f.link with
    | none => finish s i i.g 4
    | some j => match tabFind i.g.joins j with
      | none => finish s i i.g 4
      | some r =>
        if r.target = i.f.pc then
          let g := waitHere i (.join j)
          .next (putGang s i.cur.gang
            (settle { g with joins := tabPut g.joins j { r with arrived := r.arrived ||| i.f.mask } }))
        else finish s i i.g 4

/-- The gang is asked to yield, and its YIELD acknowledges (R89, R332). -/
def yieldAsked (s : State) (ctx : Nat) : Bool :=
  s.disp.yields.any (fun y => y.victim == ctx && decide (s.cycle ≤ y.since + y.limit)) && imageFits s ctx

/-- YIELD; in a halted block, whose gang a debug step runs, it acknowledges nothing (R89, R102, R332). -/
def execYield (s : State) : Answer :=
  onIssue s fun i =>
    let g := switchAt i (tickIssue i.g 1)
    let ask := !i.b.halted && yieldAsked s i.b.ctx
    let g := { g with yieldAck := g.yieldAck || ask, yieldStop := g.yieldStop || ask }
    .next (putGang s i.cur.gang (setPc i g (i.f.pc + 4)))

/-- PAUSE (R24, R90). -/
def execPause (n : BitVec 16) (s : State) : Answer :=
  onIssue s fun i => finish s i { i.g with pausing := true, pauseLeft := n.toNat } 4

/-- PAUSE_EXPIRY: the gang can issue again once its count has run out (R24). -/
def execPauseExpiry (gang : Nat) (s : State) : Answer :=
  .next { s with gangs := tabUpd s.gangs gang fun g =>
    if g.pausing && g.pauseLeft == 0 then { g with pausing := false } else g }

/-- WIDE (R31, R32). -/
def execWide (s : State) : Answer :=
  onIssue s fun i =>
    if gstatWide i.g then .next (takeTrap s i causeNestwide 9 0 (trapWords i.cur.words))
    else .next (putGang s i.cur.gang (settle (waitHere i .wide)))

/-- ENDW (R32). -/
def execEndw (s : State) : Answer :=
  onIssue s fun i =>
    if gstatWide i.g then .next (putGang s i.cur.gang (settle (waitHere i .endw)))
    else trapIllegal s i 9

/-- EXIT (R94): the fragment's lanes retire, and with the last non-helper lane the gang. -/
def execExit (s : State) : Answer :=
  onIssue s fun i =>
    let g := retireLanes (switchAt i (tickIssue i.g 1)) i.f.mask
    if g.live &&& ~~~g.helper = 0 then .next (gangRetired (putGang s i.cur.gang (retireGang g)) i.g.block)
    else .next (putGang s i.cur.gang (settle g))

/-- BSYNC: the fragment waits; the release is a step of its own (R91, R92). -/
def execBsync (s : State) : Answer := onIssue s fun i => .next (putGang s i.cur.gang (waitHere i .bsync))

/-- TSYNC; in a block launched without `.team` it acts as BSYNC (R37, R91, R92). -/
def execTsync (s : State) : Answer :=
  onIssue s fun i => .next (putGang s i.cur.gang (waitHere i (if i.b.teamed then .tsync else .bsync)))

/-- RETC (R95). -/
def execRetc (s : State) : Answer :=
  onIssue s fun i =>
    if gstatCont i.g then trapIllegal s i 9
    else
      let g := tickIssue (raiseGstat i.g 0x200) 1
      .next (putGang s i.cur.gang (setPc i g i.g.cpc))

/-- Every fragment of a gang waits at one kind of barrier (R91). -/
def reached (g : Gang) (w : Wait) : Bool := !g.frags.isEmpty && g.frags.all fun e => e.2.wait == w

/-- The live gangs of a gang's block, or of its team (R37). -/
def barrierGangs (s : State) (uid : Nat) (b : Block) (team : Bool) : List (Nat × Gang) :=
  s.gangs.filter fun e => !e.2.retired &&
    (if team then (match tabFind s.blocks e.2.block with
      | some q => q.team == b.team
      | none => false) else e.2.block == uid)

/-- A list has a member of another. -/
def meets (xs ys : List Nat) : Bool := xs.any fun x => ys.contains x

/-- Every lane and scalar read and write of the participants is performed at a scope, those awaited by a status and those taken over
with an acquire among them (R92, R207, R301). -/
def barrierPerformed (s : State) (keys : List Nat) (scope : Nat) : Bool :=
  (s.accs.all fun e => !(e.2.sets.r || e.2.sets.w) || !meets e.2.before keys || accPerformed s scope e.1 e.2) &&
  passedDone s scope s.nextId fun l => meets l keys

/-- The barrier a gang waits at is ready for its release: the kind (true: TSYNC) and the participants (R92). While its context is
being restored a gang still stands in the image, and waits (R93, R252). -/
def barrierReady (s : State) (gang : Nat) : Option (Bool × List Nat) :=
  match tabFind s.gangs gang with
  | none => none
  | some g =>
    match tabFind s.blocks g.block with
    | none => none
    | some b =>
      let team := reached g .tsync
      let w : Wait := if team then .tsync else .bsync
      let ps := barrierGangs s g.block b team
      if !g.retired && !restoring s b.ctx && reached g w && (ps.all fun e => reached e.2 w) &&
          barrierPerformed s (ps.map (·.1)) (if team then 2 else 1)
      then some (team, ps.map (·.1)) else none

/-- Gangs before which something stands, once what is before some gangs is before all gangs of a list. -/
def extBefore (from_ tgt l : List Nat) : List Nat := if meets l from_ then l ++ tgt.filter (fun k => !l.contains k) else l

/-- What is before some gangs in program order is before all gangs of a list from now on: after a REGROUP (R213). -/
def mergeBefore (s : State) (from_ tgt : List Nat) : State :=
  { s with
    accs := tabMap s.accs fun a => { a with before := extBefore from_ tgt a.before }
    reqs := tabMap s.reqs fun r => { r with before := extBefore from_ tgt r.before }
    cmds := tabMap s.cmds fun c => { c with before := extBefore from_ tgt c.before }
    mq := tabMap s.mq fun q => q.map fun e => { e with before := extBefore from_ tgt e.before } }

/-- The lane and scalar reads and writes of some gangs happen before what the gangs of a barrier issue next; engine and matrix
accesses take no part (R92, R207, R210). -/
def passBarrier (s : State) (keys : List Nat) : State :=
  { s with
    accs := tabMap s.accs fun a => if a.sets.r || a.sets.w then { a with before := extBefore keys keys a.before } else a
    reqs := tabMap s.reqs fun r => if isRW r.kind && r.cmd.isNone then { r with before := extBefore keys keys r.before } else r }

/-- The fragments of a gang go on behind the instruction they wait at. -/
def releaseGang (g : Gang) : Gang :=
  { g with frags := tabMap g.frags fun f => { f with pc := f.pc + 4, wait := .running, words := [] } }

/-- The blocks of some gangs. -/
def blocksOf (s : State) (keys : List Nat) : List Nat :=
  (s.blocks.filter fun e => keys.any fun k => k / 32 == e.1).map (·.1)

/-- BARRIER_RELEASE: all waiting gangs go on together, ordered by R92; their blocks count a phase (R91, R92, R100). -/
def execBarrierRelease (gang : Nat) (s : State) : Answer :=
  match barrierReady s gang with
  | none => .next s
  | some (team, keys) =>
    let s := passBarrier s keys
    let s := keys.foldl (fun s k => { s with gangs := tabUpd s.gangs k releaseGang }) s
    let us := blocksOf s keys
    let s := { s with blocks := us.foldl (fun t u => tabUpd t u fun b => { b with phase := b.phase + 1 }) s.blocks }
    .next (if team then us.foldl (fun s u => match tabFind s.blocks u with
        | some b => discardL1 s b.core b.world
        | none => s) s
      else s)

/-- REGROUP arrives and waits (R33, R34). -/
def execRegroup (vfirst vlast : BitVec 9) (k : BitVec 3) (block : Bool) (s : State) : Answer :=
  onIssue s fun i =>
    let w0 : W32 := 0x04C00000#32 + (vfirst.setWidth 32 <<< 13) + (vlast.setWidth 32 <<< 4) + (k.setWidth 32 <<< 1) +
      (if block then 1 else 0)
    if i.b.regs ≤ vlast.toNat then .next (takeTrap s i causeIllreg 8 6 (trapWords i.cur.words))
    else if 1 < i.g.frags.length ∨ gstatWide i.g then trapIllegal s i 9
    else .next (putGang s i.cur.gang (waitHere i (.regroup w0)))

/-- The word a gang waits with at REGROUP. -/
def regroupWord (g : Gang) : Option W32 :=
  match g.frags with
  | [(_, f)] => match f.wait with
    | .regroup w => some w
    | _ => none
  | _ => none

/-- The participants of a gang's REGROUP, in ascending gang id (R34). -/
def regroupGangs (s : State) (g : Gang) (w : W32) : List (Nat × Gang) :=
  (liveGangs s g.block).filter fun e => w.getLsbD 0 || e.2.gid / 2 == g.gid / 2

/-- A result is still pending in a gang (R34). -/
def resultsDue (g : Gang) : Bool :=
  g.pend.any fun p => match p.due with
    | .turn t => decide (g.turn < t)
    | .access _ => true

/-- The REGROUP of a gang can proceed or trap: its word and its participants; not while its context is being restored (R34, R93). -/
def regroupReady (s : State) (gang : Nat) : Option (W32 × List (Nat × Gang)) :=
  match tabFind s.gangs gang with
  | none => none
  | some g =>
    match regroupWord g, tabFind s.blocks g.block with
    | some w, some b =>
      let ps := regroupGangs s g w
      let same := ps.all fun e => regroupWord e.2 == some w
      if g.retired || restoring s b.ctx || !(ps.all fun e => (regroupWord e.2).isSome) then none
      else if same && (ps.any fun e => resultsDue e.2 || !(gangHolds s e.1 b.core).isEmpty) then none
      else some (w, ps)
    | _, _ => none

/-- A gang that waits at REGROUP takes the illegal-instruction trap there, at no turn of its own: what its last turn did stays known
(R34, R107). -/
def regroupTrap (s : State) (key : Nat) : State :=
  match tabFind s.gangs key with
  | none => s
  | some g =>
    match tabFind s.blocks g.block, g.frags with
    | some b, (e, f) :: _ =>
      let f := { f with wait := .running }
      let ws := match regroupWord g with
        | some w => [w]
        | none => []
      let t := takeTrap s { cur := { gang := key, entry := e, words := ws, stuffed := none }, g := putFrag g e f, b := b, f := f }
        causeIllegal 9 0 (trapWords ws)
      { t with gangs := tabUpd t.gangs key fun h => { h with issued := g.issued } }
    | _, _ => s

/-- Selected lanes of the participants, as position of the gang in the list and lane (R33, R35). -/
def regroupSel (ps : List (Nat × Gang)) (k : BitVec 3) : List (Nat × Nat) :=
  ps.zipIdx.flatMap fun e =>
    (lanesOf (e.1.2.live &&& ~~~e.1.2.helper &&& predMask e.1.2 k)).map fun l => (e.2, l)

/-- A lane register of a destination lane after REGROUP: moved within the range, else a free value (R35; log 6). -/
def regroupReg (src : Gang) (l lo hi n free : Nat) : W32 := if lo ≤ n ∧ n ≤ hi then vreg src n l else Config.freeWord (free + n)

/-- The lanes of a destination gang after REGROUP, filled from the selected lanes it receives (R35). -/
def regroupDest (ps : List (Nat × Gang)) (mine : List (Nat × Nat)) (regs lo hi free : Nat) (g : Gang) : Gang :=
  let fill (g : Gang) (e : (Nat × Nat) × Nat) : Gang :=
    match ps[e.1.1]? with
    | none => g
    | some (_, src) =>
      let g := (List.range regs).foldl
        (fun g n => setVreg g n e.2 (regroupReg src e.1.2 lo hi n (free + 512 * e.2))) g
      (List.range 7).foldl (fun g n =>
        setPreds g (BitVec.ofNat 3 (n + 1)) (laneBit e.2) (if pred src (BitVec.ofNat 3 (n + 1)) e.1.2 then laneBit e.2 else 0)) g
  let m := maskOf fun l => decide (l < mine.length)
  let g := mine.zipIdx.foldl fill g
  let frags := match g.frags with
    | (e, f) :: _ => [(e, { f with pc := f.pc + 4, mask := m, link := none, wait := .running, words := [] })]
    | [] => []
  loseLatches { g with created := g.created ||| m, helper := g.helper &&& ~~~m, live := m, frags := frags, joins := [] }

/-- The destination that receives a participant's first moved lane, else the lowest (R36). -/
def regroupHeir (sel : List (Nat × Nat)) (p : Nat) : Nat :=
  match sel.findIdx? fun e => e.1 == p with
  | some j => j / 32
  | none => 0

/-- REGROUP_PROCEED (R34 to R36). -/
def execRegroupProceed (gang : Nat) (s : State) : Answer :=
  match regroupReady s gang with
  | none => .next s
  | some (w, ps) =>
    if !ps.all (fun e => regroupWord e.2 == some w) then .next (ps.foldl (fun s e => regroupTrap s e.1) s)
    else
      let sel := regroupSel ps (w.extractLsb' 1 3)
      let c := sel.length
      if !w.getLsbD 0 && decide (ps.length = 2) && decide (32 < c) then
        .next (ps.foldl (fun s e => putGang s e.1 (releaseGang e.2)) s)
      else
        let nd := (c + 31) / 32
        let lo := (w.extractLsb' 13 9).toNat
        let hi := (w.extractLsb' 4 9).toNat
        let regs := match ps with
          | (_, g) :: _ => match tabFind s.blocks g.block with
            | some b => b.regs
            | none => 0
          | [] => 0
        let sticky (d : Nat) : W64 := (ps.zipIdx.filter fun e => decide (nd ≤ e.2) && regroupHeir sel e.2 == d).foldl
          (fun x e => x ||| (e.1.2.gstat &&& 0x7F)) 0
        let dests := (ps.map (·.1)).take nd
        let step (s : State) (e : (Nat × Gang) × Nat) : State :=
          if e.2 < nd then
            putGang s e.1.1 (raiseGstat (regroupDest ps ((sel.drop (32 * e.2)).take 32) regs lo hi
              (s.tick + 16384 * e.2) e.1.2) (sticky e.2))
          else putGang s e.1.1 { retireGang e.1.2 with heir := dests[regroupHeir sel e.2]? }
        let s := ps.zipIdx.foldl step (mergeBefore s (ps.map (·.1)) dests)
        .next (gangRetired { s with tick := s.tick + 16384 * nd } (gang / 32))

/-- A lane branch to a next PC per lane (R26, R84); from the program buffer the split table stays (R105). -/
def laneBranch (s : State) (i : Issue) (g : Gang) (joff : BitVec 22) (next : Nat → W64) : Answer :=
  let g := tickIssue (pushLatch g (lanesMask i) g.turn fun _ => none) 1
  match i.cur.stuffed with
  | some _ => .next (putGang s i.cur.gang { g with handover := i.g.handover })
  | none =>
    let gs := pcGroups i.f.mask next
    let g := splitFrag g i.cur.entry i.f gs (branchTarget i (joff.signExtend 64))
    let back := gs.any fun e => decide (e.1.toNat ≤ i.f.pc.toNat)
    .next (putGang s i.cur.gang (if back then switchPoint g else g))

/-- The taken target offset of BRL, W1[31:10] (R83). -/
def branchOffset (f : Lane) : BitVec 22 := f.dst ++ f.a ++ f.b.extractLsb' 7 3

/-- BRL (R83, R84). -/
def execBrl (f : Lane) (s : State) : Answer :=
  onIssue s fun i =>
    let act := activeMask i f.guard f.neg
    laneBranch s i i.g f.imm fun l =>
      if act.getLsbD l then branchTarget i ((branchOffset f).signExtend 64) else i.f.pc + 12

/-- BRXL (R83, R84). -/
def execBrxl (f : Lane) (s : State) : Answer :=
  onIssue s fun i =>
    let row := laneRowD 6 1
    withRegs s i row f <|
      let act := activeMask i f.guard f.neg
      let g := noteLost i (laneUse row f.ty.toNat f.mod.toNat) f act i.g
      laneBranch s i g f.imm fun l =>
        if act.getLsbD l then addrVal i f.a.toNat l &&& ~~~(3 : W64) else i.f.pc + 12

end Sys2Proof.Machine
end

