-- ==== Sys2Proof/Machine/System.lean ====
section
/-! DEFINITION. System registers, traps and their return, DBGB, and the empty turn with instruction fetch and native
continuation (R43, R104 to R106, R124, R238, R240 to R247). -/

namespace Sys2Proof.Machine

/-- PARKTH in use for a context (R239, R240). -/
def parkThreshold (s : State) (ctx : Nat) : Nat :=
  match tabFind s.ctxs ctx with
  | some c =>
    if c.world = 0 then c.parkth
    else match tabFind s.island.binds ctx with
      | some b => b.parkth.toNat
      | none => 0
  | none => 0

/-- A debug data register, as the program buffer reads it; outside it reads 0 (R105). -/
def debugData (s : State) (i : Issue) (off : Nat) : W64 :=
  if i.cur.stuffed.isSome then reg s (.debug i.b.core off) else 0

/-- The value of a system register as its gang reads it (R240). -/
def sysRead (s : State) (i : Issue) (n : Nat) : W64 :=
  match n with
  | 0x000 => i.g.gstat
  | 0x001 => i.g.gctl
  | 0x002 => i.g.tstat
  | 0x003 => i.g.tval
  | 0x004 => i.g.tpc
  | 0x005 => trapVector s i
  | 0x006 => i.g.contv
  | 0x007 => i.g.cpc
  | 0x008 => i.g.fpctl
  | 0x009 => BitVec.ofNat 64 s.cycle
  | 0x00A => BitVec.ofNat 64 (parkThreshold s i.b.ctx)
  | 0x00C => debugData s i 0x210
  | 0x00D => debugData s i 0x218
  | n => if 0x010 ≤ n ∧ n ≤ 0x01F then (tabGet i.g.stalls (n - 0x010) 0).setWidth 64 else 0

/-- Replace the writable bits of a word. -/
def writeBits (old new mask : W64) : W64 := (old &&& ~~~mask) ||| (new &&& mask)

/-- FPCTL after a write; a rounding code of 0, 6 or 7 becomes 1 (R124). -/
def fpctlWrite (x : W64) : W64 :=
  let y := x &&& 0x3F
  if wbits y 2 0 = 0 ∨ 6 ≤ wbits y 2 0 then wput y 2 0 1 else y

/-- A gang writes a system register: its writable fields take the bits of a value (R240 to R243). -/
def sysWriteGang (g : Gang) (n : Nat) (x : W64) : Gang :=
  match n with
  | 0x000 => { g with gstat := writeBits g.gstat x 0x37F }
  | 0x001 => { g with gctl := writeBits g.gctl x 0x3 }
  | 0x002 => { g with tstat := writeBits g.tstat x 0x1FFFFF }
  | 0x003 => { g with tval := x }
  | 0x004 => { g with tpc := writeBits g.tpc x (~~~(3 : W64)) }
  | 0x006 => { g with contv := writeBits g.contv x (~~~(3 : W64)) }
  | 0x007 => { g with cpc := writeBits g.cpc x (~~~(3 : W64)) }
  | 0x008 => { g with fpctl := fpctlWrite x }
  | _ => g

/-- A write of a system register from an instruction; the debug data registers are written only from the program buffer
(R105, R243). -/
def sysWrite (s : State) (i : Issue) (n : Nat) (x : W64) : Answer :=
  let s := if i.cur.stuffed.isSome && (n == 0x00C || n == 0x00D)
    then setReg s (.debug i.b.core (if n = 0x00C then 0x210 else 0x218)) x else s
  finish s i (sysWriteGang i.g n x) 4

/-- SRD (R243). -/
def execSrd (sd : BitVec 6) (reg : BitVec 10) (s : State) : Answer :=
  onIssue s fun i => finish s i (setSreg i.g sd (sysRead s i reg.toNat)) 4

/-- SWR (R243). -/
def execSwr (sd : BitVec 6) (reg : BitVec 10) (s : State) : Answer :=
  onIssue s fun i => sysWrite s i reg.toNat (rs i sd)

/-- SSETB (R243). -/
def execSsetb (sd : BitVec 6) (reg : BitVec 10) (s : State) : Answer :=
  onIssue s fun i => sysWrite s i reg.toNat (sysRead s i reg.toNat ||| rs i sd)

/-- SCLRB (R243). -/
def execSclrb (sd : BitVec 6) (reg : BitVec 10) (s : State) : Answer :=
  onIssue s fun i => sysWrite s i reg.toNat (sysRead s i reg.toNat &&& ~~~(rs i sd))

/-- SRDX: the number is a sum without wrap; an unassigned one reads 0 (R244). -/
def execSrdx (sd sa : BitVec 6) (reg : BitVec 10) (s : State) : Answer :=
  onIssue s fun i =>
    let n := (rs i sa).toNat + reg.toNat
    finish s i (setSreg i.g sd (if n < 1024 ∧ sysNumberAssigned n then sysRead s i n else 0)) 4

/-- TRAP (R245, R246). -/
def execTrap (code : BitVec 16) (s : State) : Answer :=
  onIssue s fun i => .next (takeTrap s i causeTrap 0 0 (code.setWidth 64))

/-- ERET (R247). -/
def execEret (s : State) : Answer :=
  onIssue s fun i => if gstatTm i.g then .next (returnTrap s i) else trapIllegal s i 9

/-- DBGB halts for the debugger (R104). -/
def dbgbHalts (s : State) (b : Block) : Bool :=
  unitOn s b 1 && debugPermitted s b.ctx b.world

/-- DBGB: halts the block with the PC behind it, or traps (R104, R245). -/
def execDbgb (code : BitVec 16) (s : State) : Answer :=
  onIssue s fun i =>
    if dbgbHalts s i.b then
      let s := traceRecord s i.b 5 i.g.gid (code.toNat % 256) i.f.pc
      .next (requestHalt (putGang s i.cur.gang (setPc i (tickIssue i.g 1) (i.f.pc + 4))) i.g.block)
    else .next (takeTrap s i causeDbgb 0 0 (code.setWidth 64))

/-- Words of a fragment's instruction still to be fetched, as byte offsets from its PC (R42, R43). -/
def wordsToFetch (f : Frag) : List Nat :=
  match f.words with
  | [] => [0]
  | ws => ((List.range 3).filter fun k => decide (ws.length ≤ k) && decide (k < wordsNeeded ws)).map (4 * ·)

/-- A fetch request of a fragment for words in one line (R43). -/
def fetchReq (key : Nat) (g : Gang) (b : Block) (entry : Nat) (pc line : W64) (ps : List Part) : Req :=
  { agent := .gang key, before := [], access := none, cmd := none, unit := none, core := b.core, ctx := b.ctx, world := b.world,
    asid := b.asid, seq := g.seq + 1, kind := .fetch entry pc, space := .g, va := line, pa := 0,
    leaf := { basin := 0, first := false, dom := 0, tier := false, w := false, size := 0 }, order := .rlx, scope := 3,
    urgent := false, parts := ps, stage := .walk, entered := 0, slice := 0, born := b.core }

/-- A fetch of the fragment at its PC is outstanding. -/
def fetching (s : State) (key entry : Nat) (pc : W64) : Bool :=
  s.reqs.any fun e => e.2.agent == .gang key && e.2.kind == .fetch entry pc

/-- Fetch the missing words of a fragment, unless they are on their way (R43). -/
def startFetch (s : State) (key : Nat) (g : Gang) (b : Block) (entry : Nat) (f : Frag) : State :=
  if fetching s key entry f.pc then s
  else
    let ps := (wordsToFetch f).map fun o =>
      let a := f.pc + BitVec.ofNat 64 o
      (lineAddr a, { lane := 0, off := a.toNat % 64, pos := o, len := 4, data := [], cmp := [], res := [] : Part })
    (byLine ps).foldl (fun s l => putReq s (fetchReq key g b entry f.pc l.1 l.2)) s

/-- Fetches of a gang that is not stopped: each fragment that runs and has not all words of its next instruction (R43). -/
def fetchGang (s : State) (e : Nat × Gang) : State :=
  match tabFind s.blocks e.2.block with
  | none => s
  | some b =>
    if e.2.retired || stopped s b e.2 then s
    else e.2.frags.foldl (fun s f =>
      if f.2.wait == .running && !fetched f.2 then startFetch s e.1 e.2 b f.1 f.2 else s) s

/-- The fetches that start at the end of a cycle. The spec does not say when a fetch starts: in the model it starts with the cycle
after the fragment has come to its PC, so that the words can be there at the gang's next turn (R43, R71, R81; log 43). -/
def startFetches (s : State) : State := s.gangs.foldl fetchGang s

/-- A pending register waits for a parked request (R238). -/
def parkedPend (s : State) (p : Pend) : Bool :=
  match p.due with
  | .turn _ => false
  | .access id => (accReqs s id).any fun e => isParked e.2

/-- GCTL enables a continuation on a register (R238). -/
def contEnabled (g : Gang) (r : RegName) : Bool :=
  match r with
  | .v _ | .k _ => g.gctl.getLsbD 0
  | .s _ => g.gctl.getLsbD 1

/-- A native continuation starts: the fragment is not ready only because of registers whose requests are parked (R238). -/
def continues (s : State) (key : Nat) (g : Gang) (b : Block) (f : Frag) : Bool :=
  gstatCont g && g.contv != 0 && f.wait == .running && fetched f && decide (g.issueAt ≤ g.turn) &&
  (match fragInstr f with
    | .instr i =>
      (g.pend.any fun p => (instrUses i).contains p.reg && parkedPend s p && contEnabled g p.reg) &&
      (instrReason s key { g with pend := g.pend.filter fun p => !parkedPend s p } b i).isNone
    | .illegal _ => false)

/-- Enter a native continuation (R238). -/
def enterCont (g : Gang) (entry : Nat) (f : Frag) : Gang :=
  putFrag { g with cpc := f.pc, gstat := g.gstat &&& ~~~(0x200 : W64) } entry { f with pc := g.contv, words := [] }

/-- The gang can take part in the slot search: it is not stopped, paused or at a FENCE. -/
def searches (s : State) (g : Gang) (b : Block) : Bool := !stopped s b g && !g.pausing && g.fence.isNone

/-- The slot handover of a turn: the fragment that has the slot, and the handover while it has not issued (R29). -/
def searchSlot (s : State) (key : Nat) (g : Gang) (b : Block) : Gang :=
  { g with
    cur := slotHolder s key g b
    handover := match g.handover with
      | .switched => .open_
      | h => h }

/-- The program buffer's entry of this turn waits on the operand hold of a queued matrix instruction (R294). -/
def stuffHeld (s : State) (key : Nat) (g : Gang) (b : Block) : Bool :=
  match s.cur with
  | some { words := w0 :: w1 :: w2 :: _, stuffed := some _, .. } =>
    match decodeWords w0 w1 w2 with
    | .instr i =>
      instrReason s key g b i == some stallMatq &&
        (instrWrites i).any fun r => (gangHolds s key b.core).contains r
    | .illegal _ => false
  | _ => false

/-- The gang stands only because its context is being saved: its turns still find what it waits for (R29, R106, R249). -/
def savesOnly (s : State) (g : Gang) (b : Block) : Bool := !standsOther s b g && !g.pausing && g.fence.isNone

/-- The counter of an empty turn of a gang that does not search: a stuffed write that waits on an operand hold counts under
MATQ, as R294 says of it, every other turn by R106 (DEDUCED, log 22). -/
def idleReason (s : State) (key : Nat) (g : Gang) (b : Block) : Nat :=
  if stuffHeld s key g b then stallMatq else stallIndex s key g b

/-- What an empty turn does to a gang and the state (R24, R99, R106, R238). -/
def emptyTurnOf (s : State) (key : Nat) (g : Gang) (b : Block) : State :=
  if searches s g b then
    let g := searchSlot s key g b
    match tabFind g.frags g.cur with
    | some f =>
      if continues s key g b f then putGang s key (countStall (enterCont g g.cur f) stallParked)
      else
        putGang s key (countStall g (stallIndex s key g b))
    | none => putGang s key (countStall g (stallIndex s key g b))
  else
    let g := if savesOnly s g b then searchSlot s key g b else g
    let g := { countStall g (idleReason s key g b) with atHalt := b.haltReq }
    putGang s key (if g.pausing && !standsOther s b g then { g with pauseLeft := g.pauseLeft - 1 } else g)

/-- EMPTY_TURN (R106). -/
def execEmptyTurn (s : State) : Answer :=
  match s.cur with
  | none => .fault .noIssuingGang
  | some c => match tabFind s.gangs c.gang with
    | none => .fault .noIssuingGang
    | some g => match tabFind s.blocks g.block with
      | none => .fault .noIssuingGang
      | some b => .next (emptyTurnOf s c.gang g b)

end Sys2Proof.Machine
end

