-- ==== Sys2Proof/Machine/Memory.lean ====
section
/-! DEFINITION. Memory, atomic and fence instructions of lanes and gangs: scalar memory, LD, ST, ATOM, RED, CAS, PREF, FENCE,
SWAIT, MONW, MWAITV, CMO (R75 to R77, R183 to R199). -/

namespace Sys2Proof.Machine

/-- Finish an instruction that is a switch point (R29). -/
def finishSwitch (s : State) (i : Issue) (g : Gang) (len : Nat) : Answer :=
  .next (putGang s i.cur.gang (setPc i (switchAt i (tickIssue g 1)) (i.f.pc + BitVec.ofNat 64 len)))

/-- Address of a scalar access, aligned down to its size (R75). -/
def scalarAddr (i : Issue) (sa : BitVec 6) (imm : BitVec 10) (n : Nat) : W64 :=
  (rs i sa + imm.signExtend 64) &&& ~~~(BitVec.ofNat 64 (n - 1))

/-- What a scalar access is (R75, R76). -/
def scalarWant (s : State) (i : Issue) (sp : Space) (kind : ReqKind) (dest : Dest) : Want :=
  { path := some (if translated sp then (if kind == .read then 0 else 1) else 2),
    sets := if kind == .read then setsR else setsW, order := .rlx, scope := if translated sp then 3 else 1,
    space := sp, kind := kind, dest := dest, mask := lanesMask i,
    urgent := kind == .read && translated sp && urgentNow s i.cur.gang i.g i.b.core }

/-- The one part of a scalar access. -/
def scalarPart (sp : Space) (a : W64) (n : Nat) (data : List Byte) : List (W64 × Part) :=
  if translated sp then globalParts 0 a n data [] else [(0, innerPart 0 a n data [])]

/-- PADR for an access whose bytes fall outside what its space provides (R39, R166 to R169). -/
def withPadr (s : State) (i : Issue) (g : Gang) (outside : Bool) : State × Gang :=
  if outside then (countPadr s i.b, raiseGstat g gstatPadr) else (s, g)

/-- A scalar access (R75 to R77). -/
def scalarAccess (s : State) (sp : Space) (kind : ReqKind) (dest : Dest) (sa : BitVec 6) (imm : BitVec 10) (n : Nat)
    (data : Issue → List Byte) : Answer :=
  onIssue s fun i =>
    let a := scalarAddr i sa imm n
    let ps := scalarPart sp a n (data i)
    let out := sp == .p && anyOutside s i.g.block i.b sp (ps.map (·.2))
    let o := withPadr s i i.g out
    let r := openAccess o.1 i o.2 (scalarWant s i sp kind dest) (byLine ps)
    finish r.1 i r.2 4

/-- SLDW (R75). -/
def execSldw (sd sa : BitVec 6) (imm : BitVec 10) (s : State) : Answer :=
  scalarAccess s .g .read (.scalar sd.toNat) sa imm 4 fun _ => []

/-- SLDD (R75). -/
def execSldd (sd sa : BitVec 6) (imm : BitVec 10) (s : State) : Answer :=
  scalarAccess s .g .read (.scalar sd.toNat) sa imm 8 fun _ => []

/-- SSTW (R75). -/
def execSstw (sd sa : BitVec 6) (imm : BitVec 10) (s : State) : Answer :=
  scalarAccess s .g .write .none sa imm 4 fun i => leBytes 4 (rs i sd).toNat

/-- SSTD (R75). -/
def execSstd (sd sa : BitVec 6) (imm : BitVec 10) (s : State) : Answer :=
  scalarAccess s .g .write .none sa imm 8 fun i => leBytes 8 (rs i sd).toNat

/-- SLDK: bit l of the word goes to predicate kn of lane l of the fragment (R75). -/
def execSldk (k : BitVec 3) (sa : BitVec 6) (imm : BitVec 10) (s : State) : Answer :=
  scalarAccess s .g .read (.pred k.toNat) sa imm 4 fun _ => []

/-- SLDP (R75). -/
def execSldp (sd sa : BitVec 6) (imm : BitVec 10) (s : State) : Answer :=
  scalarAccess s .p .read (.scalar sd.toNat) sa imm 8 fun _ => []

/-- SSTP (R75). -/
def execSstp (sd sa : BitVec 6) (imm : BitVec 10) (s : State) : Answer :=
  scalarAccess s .p .write .none sa imm 8 fun i => leBytes 8 (rs i sd).toNat

/-- Address of a lane: 64 bits for .g and .x, 32 bits for the others (R51, R185). -/
def laneAddr (i : Issue) (f : Lane) (sp : Space) (l : Nat) : W64 :=
  if translated sp then addrVal i f.a.toNat l + f.imm.signExtend 64
  else low32 (srcVal i f.a.toNat 12 f.imm l + f.imm.signExtend 64)

/-- The bytes of a data operand at the access width. A scalar code as s64 data of ATOM or RED takes its low half sign-extended, as R50
has it, while R185 speaks of a zero-extended scalar (R50, R185; DESIGN CHOICE, log 46). -/
def operandBytes (i : Issue) (f : Lane) (code n l : Nat) : List Byte :=
  if n = 16 then (List.range 4).flatMap fun j => leBytes 4 (vreg i.g (code + j) l).toNat
  else leBytes n (srcVal i code f.ty.toNat f.imm l).toNat

/-- The parts of one lane's access, by space (R164, R186). -/
def laneParts (s : State) (i : Issue) (sp : Space) (l : Nat) (a : W64) (n : Nat) (data cmp : List Byte) : List (W64 × Part) :=
  match sp with
  | .g => globalParts l a n data cmp
  | .x => privParts i.b i.g l a n data cmp
  | _ => innerParts s i.g.block i.b sp l a n data cmp

/-- Some byte of a lane's access lies outside what its space provides; the chip plain finds that out itself (R166 to R169). -/
def laneOutside (s : State) (i : Issue) (sp : Space) (l : Nat) (a : W64) (n : Nat) : Bool :=
  match sp with
  | .p | .c => anyOutside s i.g.block i.b sp [innerPart l a n [] []]
  | .x => privOutside i.b a n
  | .g | .h => false

/-- A lane memory operation as its entry gives it: what it does, for which lanes, and what becomes of the value. -/
structure MemForm where
  kind : ReqKind
  /-- performed for helper lanes too (R15) -/
  helpers : Bool
  /-- clears low address bits (R186) -/
  aligned : Bool
  /-- a switch point (R29) -/
  switch : Bool
  path : Nat
  sets : Sets
  urgent : Bool

/-- The address a lane of a form uses (R185, R186). -/
def formAddr (i : Issue) (f : Lane) (m : MemForm) (l : Nat) : W64 :=
  let a := laneAddr i f (spaceOf f.mod.toNat) l
  if m.aligned then a &&& ~~~(BitVec.ofNat 64 (accessWidth f.ty.toNat f.mod.toNat - 1)) else a

/-- LD, ST, ATOM, RED and CAS (R184 to R191). -/
def memOp (s : State) (op : Nat) (f : Lane) (m : MemForm) (dest : Nat → Dest) (data cmp : Issue → Nat → List Byte) : Answer :=
  onIssue s fun i =>
    let row := laneRowD 5 op
    withRegs s i row f <|
      let sp := spaceOf f.mod.toNat
      let n := accessWidth f.ty.toNat f.mod.toNat
      let act := activeMask i f.guard f.neg
      let lanes := if m.helpers then act else act &&& ~~~i.g.helper
      let ps := (lanesOf lanes).flatMap fun l => laneParts s i sp l (formAddr i f m l) n (data i l) (cmp i l)
      let out := (lanesOf lanes).any fun l => laneOutside s i sp l (formAddr i f m l) n
      let o := withPadr s i (noteLost i (laneUse row f.ty.toNat f.mod.toNat) f act i.g) out
      let g := pushLatch o.2 (lanesMask i) o.2.turn fun _ => none
      let w : Want :=
        { path := some m.path, sets := m.sets, order := orderOf f.mod.toNat, scope := scopeOf sp f.mod.toNat, space := sp,
          kind := m.kind, dest := dest n, mask := lanes,
          urgent := m.urgent && translated sp && urgentNow s i.cur.gang i.g i.b.core }
      let r := openAccess o.1 i g w (byLine ps)
      if m.switch then finishSwitch r.1 i r.2 12 else finish r.1 i r.2 12

/-- Path of a load and of a store by space (R193). -/
def loadPath (f : Lane) : Nat := if translated (spaceOf f.mod.toNat) then 0 else 2
def storePath (f : Lane) : Nat := if translated (spaceOf f.mod.toNat) then 1 else 2

/-- The operation of ATOM and RED by code (R64). -/
def rmwOf (c : Nat) : RmwOp :=
  match c with
  | 0 => .add | 1 => .min | 2 => .max | 3 => .and | 4 => .or | 5 => .xor | _ => .exch

/-- No operand bytes. -/
def noBytes (_ : Issue) (_ : Nat) : List Byte := []

/-- Operand bytes of a source field. -/
def fieldBytes (f : Lane) (code : Nat) (i : Issue) (l : Nat) : List Byte :=
  operandBytes i f code (accessWidth f.ty.toNat f.mod.toNat) l

/-- LD (R188). -/
def execLd (f : Lane) (s : State) : Answer :=
  memOp s 0 f ⟨.read, true, false, false, loadPath f, setsR, true⟩ (fun n => .lane f.dst.toNat n (f.ty == 1)) noBytes noBytes

/-- ST (R188). -/
def execSt (f : Lane) (s : State) : Answer :=
  memOp s 1 f ⟨.write, false, false, false, storePath f, setsW, false⟩ (fun _ => .none) (fieldBytes f f.b.toNat) noBytes

/-- ATOM (R189). -/
def execAtom (f : Lane) (s : State) : Answer :=
  memOp s 2 f ⟨.rmw (rmwOf f.c.toNat) f.ty.toNat, false, true, true, loadPath f, setsRW, false⟩
    (fun n => .lane f.dst.toNat n false) (fieldBytes f f.b.toNat) noBytes

/-- RED (R190). -/
def execRed (f : Lane) (s : State) : Answer :=
  memOp s 3 f ⟨.rmw (rmwOf f.c.toNat) f.ty.toNat, false, true, false, storePath f, setsW, false⟩
    (fun _ => .none) (fieldBytes f f.b.toNat) noBytes

/-- CAS: srcB is compared, srcC is stored (R191). -/
def execCas (f : Lane) (s : State) : Answer :=
  memOp s 4 f ⟨.cas, false, true, true, loadPath f, setsRW, false⟩
    (fun n => .lane f.dst.toNat n false) (fieldBytes f f.c.toNat) (fieldBytes f f.b.toNat)

/-- The request of a prefetch, unless a range lock drops it (R192). -/
def prefReq (s : State) (i : Issue) (w : Want) (l : W64 × List Part) : State :=
  let r := mkReq i none w l.1 l.2
  if lockHeld s s.nextId r then s else putReq s r

/-- PREF. A prefetch of .x at or above Z sets no PADR, of which the spec says nothing (R166, R192; DESIGN CHOICE, log 46). -/
def execPref (f : Lane) (s : State) : Answer :=
  onIssue s fun i =>
    let row := laneRowD 5 5
    withRegs s i row f <|
      let sp := spaceOf f.mod.toNat
      let act := activeMask i f.guard f.neg
      let g := noteLost i (laneUse row f.ty.toNat f.mod.toNat) f act i.g
      let g := pushLatch g (lanesMask i) g.turn fun _ => none
      let ps := if translated sp then (lanesOf act).flatMap fun l => laneParts s i sp l (laneAddr i f sp l) 1 [] [] else []
      let w : Want := { path := none, sets := setsNone, order := .rlx, scope := 0, space := sp, kind := .pref, dest := .none,
                        mask := act, urgent := false }
      finish ((byLine ps).foldl (fun s l => prefReq s i w l) s) i g 12

/-- FENCE: with both sets nonempty the gang waits until the predecessors are performed (R195, R196). -/
def execFence (pred succ : BitVec 6) (scope : BitVec 3) (s : State) : Answer :=
  onIssue s fun i =>
    if pred = 0 ∨ succ = 0 then finish s i i.g 4
    else finish s i { i.g with fence := some { pred := pred, succ := succ, scope := scope.toNat } } 4

/-- SWAIT (R194). -/
def execSwait (sa : BitVec 6) (path : BitVec 2) (s : State) : Answer :=
  onIssue s fun i =>
    if pathCount i.g path.toNat ≤ (rs i sa).toNat then finishSwitch s i i.g 4
    else .next (putGang s i.cur.gang (waitHere i (.swait path.toNat (rs i sa))))

/-- MONW arms the gang's monitor (R197). -/
def execMonw (sa : BitVec 6) (imm : BitVec 10) (s : State) : Answer :=
  onIssue s fun i => finish s i { i.g with monitor := some (scalarAddr i sa imm 8), monPa := none, woken := false } 4

/-- The read of an MWAITV in a split-table entry (R197). -/
def monitorWant (m : Mask) (entry : Nat) : Want :=
  { path := none, sets := setsR, order := .acq, scope := 5, space := .g, kind := .read, dest := .monitor entry, mask := m,
    urgent := false }

/-- MWAITV starts its first read, and waits (R197). -/
def execMwaitv (sd sa : BitVec 6) (s : State) : Answer :=
  onIssue s fun i =>
    match i.g.monitor with
    | none => trapIllegal s i 9
    | some m =>
      let g := waitHere i (.mwaitvRead sd (rs i sa) s.nextId)
      let r := openAccess s i g (monitorWant i.f.mask i.cur.entry) (byLine (globalParts 0 m 8 [] []))
      .next (putGang r.1 i.cur.gang r.2)

/-- An MWAITV that waits between reads reads the word again (R197). -/
def rereadEntry (s : State) (key entry : Nat) : State :=
  match tabFind s.gangs key with
  | none => s
  | some g =>
    match tabFind s.blocks g.block, tabFind g.frags entry, g.monitor with
    | some b, some f, some m =>
      match f.wait with
      | .mwaitvIdle sd t _ =>
        let f := { f with wait := .mwaitvRead sd t s.nextId }
        let i : Issue := { cur := { gang := key, entry := entry, words := [], stuffed := none }, g := g, b := b, f := f }
        let r := openAccess s i (putFrag g entry f) (monitorWant f.mask entry) (byLine (globalParts 0 m 8 [] []))
        putGang r.1 key r.2
      | _ => s
    | _, _, _ => s

/-- Split-table entries of a gang that stand in an MWAITV between reads, with the cycle of the last read. -/
def idleMonitors (g : Gang) : List (Nat × Nat) :=
  g.frags.filterMap fun e => match e.2.wait with
    | .mwaitvIdle _ _ c => some (e.1, c)
    | _ => none

/-- MONITOR_WAKE: a write to the watched line makes MWAITV read again (R197). -/
def execMonitorWake (gang : Nat) (s : State) : Answer :=
  match tabFind s.gangs gang with
  | none => .next s
  | some g =>
    if g.woken then
      .next ((idleMonitors g).foldl (fun s e => rereadEntry s gang e.1) (putGang s gang { g with woken := false }))
    else .next s

/-- MWAITV_REREAD: 4,096 cycles without a write, and MWAITV reads again (R197). -/
def execMwaitvReread (gang : Nat) (s : State) : Answer :=
  match tabFind s.gangs gang with
  | none => .next s
  | some g => .next (((idleMonitors g).filter fun e => decide (e.2 + 4096 ≤ s.cycle)).foldl
      (fun s e => rereadEntry s gang e.1) s)

/-- Line addresses of a range (R198). -/
def cmoLines (a len : W64) : List W64 :=
  let n := min len.toNat (2 ^ 32)
  let base := a.toNat / 64 * 64
  if n = 0 then [] else (List.range ((a.toNat + n - 1) / 64 - base / 64 + 1)).map fun k => BitVec.ofNat 64 (base + 64 * k)

/-- CMO (R198). -/
def execCmo (sa sb : BitVec 6) (kind : BitVec 2) (s : State) : Answer :=
  onIssue s fun i =>
    let w : Want := { path := some 1, sets := setsW, order := .rlx, scope := 3, space := .g, kind := .cmo kind.toNat,
                      dest := .none, mask := 0, urgent := false }
    let part : Part := { lane := 0, off := 0, pos := 0, len := 64, data := [], cmp := [], res := [] }
    let r := openAccess s i i.g w ((cmoLines (rs i sa) (rs i sb)).map fun a => (a, [part]))
    finish r.1 i r.2 4

/-- A pad access of a barrier instruction: 16 bytes at an offset aligned to 16 (R272, R273). -/
def barrierAccess (s : State) (sa : BitVec 6) (kind : ReqKind) (order : Order) (data : Issue → List Byte) : Answer :=
  onIssue s fun i =>
    let a := low32 (rs i sa) &&& ~~~(15 : W64)
    let p := innerPart 0 a 16 (data i) []
    let o := withPadr s i i.g (anyOutside s i.g.block i.b .p [p])
    let w : Want := { path := some 2, sets := setsW, order := order, scope := 1, space := .p, kind := kind, dest := .none,
                      mask := 0, urgent := false }
    let r := openAccess o.1 i o.2 w [(0, [p])]
    finish r.1 i r.2 4

/-- BARINIT (R272). -/
def execBarinit (sa sb : BitVec 6) (s : State) : Answer :=
  barrierAccess s sa .write .rlx fun i =>
    leBytes 4 (rs i sb).toNat ++ leBytes 4 0 ++ leBytes 4 ((rs i sb).toNat / 2 ^ 32) ++ leBytes 4 0

/-- The counts of BARARR from the gang's registers. -/
def barrierKind (i : Issue) (sb : BitVec 6) (arr : Bool) : ReqKind := .barrier ((rs i sb).toNat % 2 ^ 32) arr.toNat

/-- BARARR: a release at block scope, then the update at the pad (R273). -/
def execBararr (sa sb : BitVec 6) (arr : Bool) (s : State) : Answer :=
  onIssue s fun i => barrierAccess s sa (barrierKind i sb arr) .rel fun _ => []

/-- BARWAIT: waits until the phase differs from S(sb)[0]; it reads the barrier after the gang's earlier stores to it (R212, R274). -/
def execBarwait (sa sb : BitVec 6) (s : State) : Answer :=
  onIssue s fun i =>
    let o := (rs i sa).toNat % 2 ^ 32 / 16 * 16
    let ph := (rs i sb).getLsbD 0
    let r := withPadr s i i.g (!padInside i.b o 16)
    if !padOpen s i.cur.gang i.g.block i.b s.nextId o 16 && (readBarrier i.b o).phase != ph then finishSwitch (absorb r.1 i.cur.gang) i r.2 4
    else .next (putGang r.1 i.cur.gang (waitHere { i with g := r.2 } (.barwait o ph)))

end Sys2Proof.Machine
end

