-- ==== Sys2Proof/Machine/Engine.lean ====
section
/-! DEFINITION. The copy engines, multicast groups and matrix batches: TCOPY, TCOPYM, GENROL, GLEAVE, GLOAD, GPUT, MBATCH and
MWAIT, what a served request does for its command, completion, stamps and rounds (R259 to R282, R297, R298). -/

namespace Sys2Proof.Machine

/-- FENCE sets of an engine command's access (R195). -/
def setsCopy : Sets := ⟨false, false, true, true⟩

/-- Who a command acts for: the issuing gang's block, or the hub for a graph node (R230, R334). -/
structure Owner where
  agent : Agent
  ctx   : Nat
  world : BitVec 16
  asid  : BitVec 16

/-- The owner of a command. -/
def cmdOwner (s : State) (c : Cmd) : Option Owner :=
  match c.node with
  | some _ => (tabFind s.ctxs c.ctx).map fun k => ⟨.hub, c.ctx, k.world, k.asid⟩
  | none => (anyBlock s c.block).map fun b => ⟨.gang c.gang, b.ctx, b.world, b.asid⟩

/-- A request of a command at a line. -/
def cmdReq (o : Owner) (id core : Nat) (kind : ReqKind) (sp : Space) (line : W64) (ps : List Part) (order : Order)
    (scope : Nat) : Req :=
  { agent := o.agent, before := [], access := none, cmd := some id, unit := none, core := core, ctx := o.ctx, world := o.world,
    asid := o.asid, seq := 0, kind := kind, space := sp, va := line, pa := 0,
    leaf := { basin := 0, first := false, dom := 0, tier := false, w := false, size := 0 }, order := order, scope := scope,
    urgent := false, parts := ps, stage := if translated sp then .walk else .home, entered := 0, slice := 0, born := core }

/-- A command's requests for some bytes, one per line (R265). -/
def cmdReqs (s : State) (id : Nat) (c : Cmd) (kind : ReqKind) (sp : Space) (ps : List (W64 × Part)) : State :=
  match cmdOwner s c with
  | none => s
  | some o => (byLine ps).foldl (fun s l => putReq s (cmdReq o id c.core kind sp l.1 l.2 .rlx 3)) s

/-- The part of a command's element in a space, with its position in the dense order (R264). -/
def elemPart (sp : Space) (a : W64) (pos n : Nat) (data : List Byte) : W64 × Part :=
  if translated sp then
    (lineAddr a, { lane := 0, off := a.toNat % 64, pos := pos, len := n, data := data, cmp := [], res := [] })
  else (lineAddr (low32 a), { lane := 0, off := a.toNat % 2 ^ 32, pos := pos, len := n, data := data, cmp := [], res := [] })

/-- The reads of a command's source elements (R264, R265). -/
def sourceReads (s : State) (id : Nat) (c : Cmd) (kind : ReqKind) : State :=
  cmdReqs s id c kind c.ssp ((List.range (cmdElems c)).map fun j => elemPart c.ssp (cmdSrc c j) (j * 2 ^ c.esz) (2 ^ c.esz) [])

/-- The writes of bytes at dense positions to a command's destination (R264). -/
def destWrites (s : State) (id : Nat) (c : Cmd) (bs : List (Nat × List Byte)) : State :=
  cmdReqs s id c .copyWrite c.dsp (bs.map fun e => elemPart c.dsp (cmdDst c (e.1 / 2 ^ c.esz)) e.1 e.2.length e.2)

/-- Change a command. -/
def updCmd (s : State) (id : Nat) (f : Cmd → Cmd) : State := { s with cmds := tabUpd s.cmds id f }

/-- An access of a gang may be lowered: complete, and no older access stands on its path (R193). -/
def pathFirst (s : State) (id : Nat) (a : Access) : Bool :=
  match a.path with
  | none => true
  | some p => s.accs.all fun e => e.2.gang != a.gang || e.2.path != some p || decide (id ≤ e.1)

/-- Every value of an access is there: its requests are performed, and its status has come if it awaits one. -/
def accReady (s : State) (id : Nat) (a : Access) : Bool := accDone s id && (a.cmd.isNone || !a.status.isEmpty)

/-- A command's access no longer waits for it: it completes by its path's order (R261, R269). -/
def freeAccess (s : State) (access : Nat) : State :=
  { s with accs := tabUpd s.accs access fun a => { a with cmd := none } }

/-- A command completes: it leaves the queue and its locks, and its access can be lowered (R269). -/
def finishCmd (s : State) (id : Nat) (c : Cmd) : State :=
  let s := freeAccess s c.access
  if c.follow.isSome then updCmd s id fun c => { c with done := true, locks := [], buf := [] }
  else { s with cmds := tabDel s.cmds id }

/-- Older commands of a block with the same stamp word are stamped (R270). -/
def stampTurn (s : State) (id : Nat) (c : Cmd) : Bool :=
  s.cmds.all fun e => decide (id ≤ e.1) || e.2.block != c.block || e.2.stamp != c.stamp || e.2.stampDone

/-- The stamp's request: add 1 to the word, as a release at sys scope (R270). -/
def stampReq (s : State) (id : Nat) (c : Cmd) (a : W64) : State :=
  match cmdOwner s c with
  | none => s
  | some o => putReq s (cmdReq o id c.core (.rmw .add 2) .g (lineAddr a)
      [{ lane := 0, off := a.toNat % 64, pos := 0, len := 8, data := leBytes 8 1, cmp := [], res := [] }] .rel 5)

/-- A command's stamp is on its way. -/
def stamping (s : State) (id : Nat) : Bool :=
  s.reqs.any fun e => e.2.cmd == some id && (match e.2.kind with
    | .rmw .. => true
    | _ => false)

/-- Follow-ons of a gang that must enter the matrix queue first (R267). -/
def followFirst (s : State) (id : Nat) (c : Cmd) : Bool :=
  s.cmds.all fun e => decide (id ≤ e.1) || e.2.gang != c.gang || e.2.follow.isNone

/-- Put the follow-on MMAT of a command into its core's matrix queue (R267). -/
def issueFollow (s : State) (c : Cmd) (ws ops : List W32) (batch : W32) : State :=
  match decodeWords (ws.getD 0 0) (ws.getD 1 0) (ws.getD 2 0) with
  | .instr (.mmat f) =>
    let e : MatEntry :=
      { id := s.nextId, gang := c.gang, before := c.before, block := c.block, batch := batch, op := 1, f := f,
        x := (ops.getD 0 0).setWidth 64, y := (ops.getD 1 0).setWidth 64, z := (ops.getD 2 0).setWidth 64 }
    { s with nextId := s.nextId + 1, mq := tabPut s.mq c.core (matQueue s c.core ++ [e]) }
  | _ => s

/-- Every destination byte of a command is performed. -/
def payloadDone (c : Cmd) : Bool := c.kind == .copy && decide (c.total ≤ c.landed)

/-- Pad bytes of a command's own barrier (R271). -/
def barBytes (s : State) (c : Cmd) : List Nat :=
  match c.bar with
  | some o => padBytesAt s c.block (o / 16 * 16) 16
  | none => []

/-- A command's barrier may be updated: no update of it is held, and the issuing gang's own earlier stores to its bytes are
performed, a BARINIT among them; no command is held by a range lock (R212, R253, R268). -/
def barClear (s : State) (id : Nat) (c : Cmd) : Bool :=
  match c.bar, anyBlock s c.block with
  | some o, some b => padPlace s c.block != .held && !padStores s c.gang c.block b id (o / 16 * 16) 16
  | _, _ => true

/-- The follow-on MMAT of a command can enter its core's matrix queue (R253, R267). -/
def followReady (s : State) (id : Nat) (c : Cmd) : Bool :=
  c.follow.isSome && padPlace s c.block == .core && decide ((matQueue s c.core).length < 16) && followFirst s id c

/-- A copy whose barrier is updated has its stamp to send, or completes (R269, R270). -/
def stampMoves (s : State) (id : Nat) (c : Cmd) : Bool :=
  !c.done && (c.stampDone || (!stamping s id && stampTurn s id c))

/-- A copy has a step to take: its barrier, its follow-on, its stamp, or its completion (R267, R269, R270). -/
def copyMoves (s : State) (id : Nat) (c : Cmd) : Bool :=
  payloadDone c && (if c.barDone then followReady s id c || stampMoves s id c else barClear s id c)

/-- The barrier update of a command by bytes and arrivals; bytes of an image that do not translate park it (R253, R254, R271). -/
def countOwn (s : State) (id : Nat) (c : Cmd) (bytes arrivals : Nat) (f : Cmd → Cmd) : State :=
  if padReady s c.block (barBytes s c) then
    updCmd (match c.bar with
      | some o => countBarrier s c.block o bytes arrivals
      | none => s) id f
  else padMiss s c.block (barBytes s c)

/-- One step of a copy whose payload is performed (R267, R269, R270). -/
def copyStep (s : State) (id : Nat) (c : Cmd) : State :=
  if !c.barDone then countOwn s id c c.total c.arr.toNat fun c => { c with barDone := true, stampDone := c.stamp.isNone }
  else
    match c.follow, followReady s id c with
    | some (ws, ops, batch), true =>
      let s := issueFollow s c ws ops batch
      if c.done then { s with cmds := tabDel s.cmds id } else updCmd s id fun c => { c with follow := none }
    | _, _ =>
      match c.stamp, c.stampDone with
      | some a, false => stampReq s id c a
      | _, _ => finishCmd s id c

/-- Every byte of a push's source is read (R280). -/
def pushRead (c : Cmd) : Bool := c.kind == .gput && decide (c.total ≤ c.buf.length)

/-- A push is over: its source is counted, its bytes are delivered, and every acknowledgement has come (R280). -/
def pushOver (c : Cmd) : Bool := pushRead c && c.barDone && c.waiting.isEmpty && c.acks.isEmpty

/-- A push counts LEN into the sender's barrier once its source is read; one without receivers is then over (R280). -/
def pushStep (s : State) (id : Nat) (c : Cmd) : State :=
  if pushRead c && !c.barDone && barClear s id c then
    let s := countOwn s id c c.total 0 fun c => { c with barDone := true }
    match tabFind s.cmds id with
    | some c => if pushOver c then finishCmd s id c else s
    | none => s
  else s

/-- Take the steps of a copy that can be taken now. -/
def copySteps (s : State) (id n : Nat) : State :=
  match n with
  | 0 => s
  | n + 1 =>
    match tabFind s.cmds id with
    | some c => if copyMoves s id c then copySteps (copyStep s id c) id n else s
    | none => s

/-- COPY_COMPLETE: barrier, stamp, entry, lock, path and follow-on of a copy whose bytes are all performed (R267, R269, R270); a
push's source is read (R280). -/
def execCopyComplete (cmd : Nat) (s : State) : Answer :=
  match tabFind s.cmds cmd with
  | some c => .next (if c.kind == .gput then pushStep s cmd c else copySteps s cmd 4)
  | none => .next s

/-- A command as its instruction starts it. -/
def newCmd (i : Issue) (kind : CmdKind) (access : Nat) : Cmd :=
  { kind := kind, gang := i.cur.gang, before := [i.cur.gang], access := access, block := i.g.block, core := i.b.core,
    ssp := .g, dsp := .p, src := 0, dst := 0, esz := 0, ext := [], str := [0, 0, 0, 0], side := false,
    total := 0, bar := none, arr := false, stamp := none, follow := none, locks := [], group := 0, rbar := 0,
    range := none,
    waiting := [], acks := [], buf := [], landed := 0, started := false, barDone := false, stampDone := false,
    done := false, node := none, refused := false }

/-- A command of a copy descriptor. -/
def descCmd (s : State) (i : Issue) (d : Desc) (access : Nat) : Cmd :=
  let c : Cmd := { newCmd i (if d.mc then .groupFill else .copy) access with
    ssp := d.ssp, dsp := d.dsp, src := d.src, dst := d.dst, esz := d.esz, ext := d.ext, str := d.str, side := d.side,
    total := copyTotal d.esz d.ext, bar := d.bar, arr := d.arr, stamp := d.stamp }
  let dst := dstHulls s i.g.block i.b c
  { c with locks := if d.mc then dst else srcHulls s i.g.block i.b c ++ dst }

/-- A side of a command reaches a pad byte outside a block's allocation (R166, R167). Chip-plain bytes are judged as they are
performed (R168). -/
def sideOutside (s : State) (uid : Nat) (b : Block) (c : Cmd) (sp : Space) (addr : Nat → W64) : Bool :=
  !translated sp && sp != .h && (List.range (cmdElems c)).any fun j => (List.range (2 ^ c.esz)).any fun k =>
    (padTarget s uid b sp ((addr j).toNat % 2 ^ 32) k).isNone

/-- A command's barrier reaches outside its block's allocation (R166, R264). -/
def barOutside (b : Block) (c : Cmd) : Bool :=
  match c.bar with
  | some o => !padInside b o 16
  | none => false

/-- Some pad or team byte of a copy's or a group load's sides, or of its barrier, lies outside (R166, R167, R264). -/
def cmdOutside (s : State) (i : Issue) (c : Cmd) : Bool :=
  (c.kind == .copy && sideOutside s i.g.block i.b c c.ssp (cmdSrc c)) ||
  sideOutside s i.g.block i.b c c.dsp (cmdDst c) || barOutside i.b c

/-- Some byte of a push's source, of its barriers, or of its destination in a receiver lies outside. For the bytes outside a receiver's
allocation it is the sender's PADR that is set, which R280 leaves open (R166, R280; DESIGN CHOICE, log 19). -/
def gputOutside (s : State) (i : Issue) (c : Cmd) : Bool :=
  sideOutside s i.g.block i.b c c.ssp (cmdSrc c) || barOutside i.b c || c.waiting.any fun u =>
    match anyBlock s u with
    | some q => sideOutside s u q c c.dsp (cmdDst c) || !padInside q c.rbar 16
    | none => false

/-- The access of an engine command: it raises path 3, and `dest` takes its status (R261). -/
def cmdAccess (i : Issue) (dest : Dest) (status : List (Nat × W64)) (cmd : Option Nat) : Access :=
  { mkAccess i { path := some 3, sets := if cmd.isSome then setsCopy else setsNone, order := .rlx, scope := 3, space := .g,
                 kind := .read, dest := dest, mask := 0, urgent := false } with cmd := cmd, status := status }

/-- Put a command under the next number and start its reads if it is a copy. -/
def startCopy (s : State) (c : Cmd) : State :=
  let id := s.nextId
  let s := { s with cmds := tabPut s.cmds id { c with started := true }, nextId := id + 1 }
  if c.kind == .copy then sourceReads s id { c with started := true } .copyRead else s

/-- Count up a field of GRPCNT of a sector (R282). -/
def countGroup (s : State) (sector : Nat) (lo : Nat) : State := countField s (.grpcnt sector) (lo + 15) lo

/-- The range of a group load's ask: that of its descriptor, or the record's address and length (R278). -/
def cmdRange (c : Cmd) : Range := c.range.getD { va := c.src, len := c.total, ctl := 0, ext := [], str := [] }

/-- Change a group-table entry. -/
def updGroup (s : State) (key : Nat) (f : Group → Group) : State := { s with groups := tabUpd s.groups key f }

/-- Number of a group's expected asks (R275). -/
def expected (g : Group) : Nat := g.count - g.left

/-- Trigger the merged fill of a round: one read for every ask not served by itself (R278). -/
def triggerRound (s : State) (key : Nat) : State :=
  match tabFind s.groups key with
  | none => s
  | some g => match g.round with
    | none => s
    | some r =>
      if r.triggered then s
      else
        let merged := r.asks.filter fun id => match tabFind s.cmds id with
          | some c => !c.started
          | none => false
        let s := updGroup s key fun g => { g with round := some { r with triggered := true, timer := none } }
        match merged with
        | [] => s
        | lead :: _ =>
          let s := updCmd s lead fun c => { c with waiting := merged }
          let s := merged.foldl (fun s id => updCmd s id fun c => { c with started := true }) s
          countGroup s (key / 64) 0

/-- Asks have reached the expected count: the round triggers (R278). -/
def checkRound (s : State) (key : Nat) : State :=
  match tabFind s.groups key with
  | some g => match g.round with
    | some r => if expected g ≤ r.asks.length then triggerRound s key else s
    | none => s
  | none => s

/-- A command's ask is served by a read of its own (R278). -/
def ownFill (s : State) (id : Nat) (c : Cmd) : State :=
  let s := updCmd s id fun c => { c with started := true, waiting := [id] }
  sourceReads s id c .fill

/-- A round's timer has run out: its merged fill is triggered before any later ask (R278). -/
def expireRound (s : State) (key : Nat) : State :=
  match (tabFind s.groups key).bind (·.round) with
  | some r => if r.timer == some 0 then triggerRound s key else s
  | none => s

/-- A command asks in its group's round (R278). -/
def askRound (s : State) (key id : Nat) (range : Range) : State :=
  let s := expireRound s key
  match tabFind s.groups key, tabFind s.cmds id with
  | some g, some c =>
    match g.round with
    | none =>
      let t := regField s (.grptim (key / 64)) 23 0
      let s := updGroup s key fun g => { g with
        round := some { range := range, asks := [id], served := [], triggered := false,
                        timer := if t = 0 then none else some t } }
      checkRound (sourceReads s id c .fill) key
    | some r =>
      if r.served.contains c.block then updGroup s key fun g => { g with held := g.held ++ [id] }
      else
        let s := updGroup s key fun g => { g with round := some { r with asks := r.asks ++ [id] } }
        if r.range ≠ range then checkRound (ownFill (countGroup s (key / 64) 32) id c) key
        else if r.triggered then
          ownFill (updCmd (countGroup s (key / 64) 16) id fun c => { c with after := r.asks.head? }) id c
        else checkRound s key
  | _, _ => s

/-- The open round ends, and the asks held for the next one open it (R278). -/
def nextRound (s : State) (key : Nat) : State :=
  match tabFind s.groups key with
  | none => s
  | some g =>
    g.held.foldl (fun s id => match tabFind s.cmds id with
      | some c => askRound s key id (cmdRange c)
      | none => s) (updGroup s key fun g => { g with round := none, held := [] })

/-- Free a group's entry and its claim when its last membership has ended: asks still unserved are triggered, and are served by the
commands that read for them (R275, R277, R278). -/
def freeGroup (s : State) (key : Nat) : State :=
  match tabFind s.groups key with
  | some g =>
    if g.members.isEmpty then
      let s := triggerRound (nextRound (triggerRound s key) key) key
      { s with groups := tabDel s.groups key,
               claims := s.claims.filter fun c => !(c.1 == g.ctx && c.2.1 == g.id) }
    else s
  | none => s

/-- A round closes when every current member has been served; held asks then open the next one. One whose members have all been served by
ordinary loads stays open while the ask of an opener that has left is not triggered, which R277 and the table of R278 leave open
(R277, R278; DESIGN CHOICE, log 19). -/
def closeRound (s : State) (key : Nat) : State :=
  match tabFind s.groups key with
  | none => s
  | some g => match g.round with
    | none => freeGroup s key
    | some r =>
      if r.triggered && g.members.all fun m => r.served.contains m then freeGroup (nextRound s key) key else freeGroup s key

/-- A membership of a block ends (R275, R277). -/
def leaveGroup (s : State) (uid key : Nat) : State :=
  let s := updGroup s key fun g =>
    if g.members.contains uid then { g with members := g.members.erase uid, left := g.left + 1 } else g
  closeRound (checkRound s key) key

/-- Every membership of a block ends (R277). -/
def leaveAll (s : State) (uid : Nat) : State :=
  ((s.groups.filter fun e => e.2.members.contains uid).map (·.1)).foldl (fun s k => leaveGroup s uid k) s

/-- A copy descriptor's command is issued. A group command that is refused leaves its stamp unadvanced, as its data and barrier: R279
names these two alone (R265, R270, R279; DESIGN CHOICE, log 19). -/
def issueCopy (s : State) (i : Issue) (d : Desc) (follow : Option (List W32 × List W32 × W32)) (o : Nat) : Answer :=
  let access := s.nextId
  let c := { descCmd s i d access with
    follow := follow
    range := some { va := d.src, len := 0, ctl := d.ctl, ext := d.ext, str := d.str } }
  let grp := memberGroup s i.g.block i.b (d.group.setWidth 64)
  let bad := d.mc && (match grp with
    | some (_, g) => askPending s g i.g.block
    | none => true)
  let outside := !padInside i.b o (if follow.isSome then 96 else 64) || (!bad && cmdOutside s i c)
  let c := { c with padr := outside }
  let out := withPadr s i (raisePath i.g (some 3)) outside
  if bad then
    let s := putAccess out.1 (cmdAccess i .none [] none)
    finish (countGroup s (sectorOf i.b.core) 48) i out.2 4
  else
    let s := putAccess out.1 (cmdAccess i .none [] (some (access + 1)))
    match grp with
    | some (key, _) =>
      if d.mc then
        let s := { s with cmds := tabPut s.cmds s.nextId { c with group := key }, nextId := s.nextId + 1 }
        finish (askRound s key (access + 1) (cmdRange c)) i out.2 4
      else finish (startCopy s c) i out.2 4
    | none => finish (startCopy s c) i out.2 4

/-- Pad offset of a descriptor operand (R263). -/
def descOff (x : W64) : Nat := x.toNat % 2 ^ 32 / 64 * 64

/-- TCOPY (R265). -/
def execTcopy (sa : BitVec 6) (s : State) : Answer :=
  onIssue s fun i =>
    match readDesc i.b (rs i sa) with
    | none => trapIllegal s i 9
    | some d => issueCopy s i d none (descOff (rs i sa))

/-- TCOPYM (R266, R267). -/
def execTcopym (sa : BitVec 6) (s : State) : Answer :=
  onIssue s fun i =>
    match readDesc i.b (rs i sa), readFollow i.b (rs i sa) with
    | some d, some (ws, ops) =>
      if d.dsp = .p ∧ !d.mc then issueCopy s i d (some (ws, ops, i.g.bn + 1)) (descOff (rs i sa)) else trapIllegal s i 9
    | _, _ => trapIllegal s i 9

/-- What a performed read or write of a command does for it: bytes read go on to the destination, or to every command of a
merged fill (R222, R265, R278, R280). -/
def cmdServed (s : State) (rid : Nat) : State :=
  match tabFind s.reqs rid with
  | none => s
  | some r =>
    match r.cmd, r.stage with
    | some id, .done =>
      match tabFind s.cmds id with
      | none => dropReq s rid
      | some c =>
        let s := dropReq s rid
        match r.kind with
        | .copyRead =>
          if c.kind == .gput then
            let bs := r.parts.flatMap fun p => p.res.zipIdx.map fun e => (p.pos + e.2, e.1)
            updCmd s id fun c => { c with buf := bs.foldl (fun t e => tabPut t e.1 e.2) c.buf }
          else destWrites s id c (r.parts.map fun p => (p.pos, p.res))
        | .copyWrite => updCmd s id fun c => { c with landed := c.landed + (r.parts.map (·.len)).foldl (· + ·) 0 }
        | .fill =>
          let bs := r.parts.flatMap fun p => p.res.zipIdx.map fun e => (p.pos + e.2, e.1)
          c.waiting.foldl (fun s w => updCmd s w fun c => { c with buf := bs.foldl (fun t e => tabPut t e.1 e.2) c.buf }) s
        | .rmw .. => updCmd s id fun c => { c with stampDone := true }
        | _ => s
    | _, _ => s

/-- GROUP_TIMER_EXPIRY: the timer's end triggers the merged fill (R278). -/
def execGroupTimerExpiry (sector group : Nat) (s : State) : Answer :=
  let key := 64 * sector + group
  match tabFind s.groups key with
  | some g => match g.round with
    | some r => if r.timer == some 0 && !r.triggered then .next (triggerRound s key) else .next s
    | none => .next s
  | none => .next s

/-- Pad bytes that a fill writes in its member (R279). -/
def fillBytes (s : State) (c : Cmd) : List Nat :=
  (List.range (cmdElems c)).flatMap fun j => padBytesAt s c.block ((cmdDst c j).toNat % 2 ^ 32) (2 ^ c.esz)

/-- A fill's bytes are all read. -/
def fillRead (c : Cmd) : Bool := c.kind == .groupFill && c.started && decide (c.total ≤ c.buf.length)

/-- Write a fill's bytes into a member's pad (R279). -/
def fillPad (s : State) (c : Cmd) : State :=
  (List.range (cmdElems c)).foldl (fun s j =>
    padWrite s c.block ((cmdDst c j).toNat % 2 ^ 32) ((List.range (2 ^ c.esz)).map fun k => tabGet c.buf (j * 2 ^ c.esz + k) 0)) s

/-- GROUP_FILL_COMPLETE: the bytes are performed in the member's pad, the barrier counts them, the stamp is advanced, and the
command completes (R269, R270, R279). -/
def execGroupFillComplete (cmd : Nat) (s : State) : Answer :=
  match tabFind s.cmds cmd with
  | none => .next s
  | some c =>
    if !fillRead c then .next s
    else if !c.barDone then
      let es := fillBytes s c ++ barBytes s c
      if padPlace s c.block == .held || !barClear s cmd c then .next s
      else if !padReady s c.block es then .next (padMiss s c.block es)
      else
        .next (countOwn (fillPad s c) cmd c c.total c.arr.toNat fun c => { c with barDone := true, stampDone := c.stamp.isNone })
    else
      match c.stamp, c.stampDone with
      | some a, false => .next (if stamping s cmd || !stampTurn s cmd c then s else stampReq s cmd c a)
      | _, _ =>
        let s := finishCmd s cmd c
        let s := updGroup s c.group fun g => { g with
          round := g.round.map fun r => if r.asks.contains cmd then { r with served := r.served ++ [c.block] } else r }
        .next (closeRound s c.group)

/-- GPUT_DELIVERY: a receiver's bytes are performed and counted into its barrier (R280). -/
def execGputDelivery (cmd receiver : Nat) (s : State) : Answer :=
  match tabFind s.cmds cmd with
  | none => .next s
  | some c =>
    if pushRead c && c.waiting.contains receiver && padPlace s receiver != .held then
      let es := padBytesAt s receiver (c.dst.toNat % 2 ^ 32) c.total ++ padBytesAt s receiver (c.rbar / 16 * 16) 16
      if !padReady s receiver es then .next (padMiss s receiver es) else
      let s := padWrite s receiver (c.dst.toNat % 2 ^ 32) ((List.range c.total).map fun k => tabGet c.buf k 0)
      let s := countBarrier s receiver c.rbar c.total 0
      .next (updCmd s cmd fun c => { c with waiting := c.waiting.erase receiver, acks := c.acks ++ [receiver] })
    else .next s

/-- GPUT_ACK: one arrival at the sender's barrier; the last completes the push (R280). -/
def execGputAck (cmd receiver : Nat) (s : State) : Answer :=
  match tabFind s.cmds cmd with
  | none => .next s
  | some c =>
    if c.acks.contains receiver && barClear s cmd c then
      let s := countOwn s cmd c 0 1 fun c => { c with acks := c.acks.erase receiver }
      match tabFind s.cmds cmd with
      | some c => .next (if pushOver c then finishCmd s cmd c else s)
      | none => .next s
    else .next s

/-- Groups a block is a member of. -/
def memberships (s : State) (uid : Nat) : Nat := (s.groups.filter fun e => e.2.members.contains uid).length

/-- The hub's claim of a group key for another sector than a core's (R275). -/
def claimedElsewhere (s : State) (ctx : Nat) (id : BitVec 16) (sector : Nat) : Bool :=
  s.claims.any fun c => c.1 == ctx && c.2.1 == id && c.2.2 != sector

/-- Lowest free entry of a sector's group table (R275). -/
def freeEntry (s : State) (sector : Nat) : Option Nat :=
  ((List.range 64).find? fun k => (tabFind s.groups (64 * sector + k)).isNone).map fun k => 64 * sector + k

/-- GENROL's answer: its status and the state it leaves (R276). -/
def enrol (s : State) (uid : Nat) (b : Block) (x y : W64) : Nat × State :=
  let sector := sectorOf b.core
  let id : BitVec 16 := x.setWidth 16
  let n := y.toNat
  if n = 0 ∨ 24 < n ∨ 2 ^ 16 ≤ x.toNat then (2, s)
  else if (memberGroup s uid b x).isSome then (5, s)
  else if 16 ≤ memberships s uid then (3, s)
  else if claimedElsewhere s b.ctx id sector then (1, s)
  else match groupOf s b.ctx id with
    | some (key, g) =>
      if g.count ≠ n then (2, s)
      else if g.members.length + g.left = g.count then (4, s)
      else (0, updGroup s key fun g => { g with members := g.members ++ [uid] })
    | none => match freeEntry s sector with
      | none => (3, s)
      | some key => (0, { s with
          groups := tabPut s.groups key { ctx := b.ctx, id := id, count := n, members := [uid], left := 0, round := none, held := [] }
          claims := s.claims ++ [(b.ctx, id, sector)] })

/-- An access whose status is there: it lands in sd at its completion (R276). -/
def statusAccess (i : Issue) (path : Option Nat) (sets : Sets) (sd : BitVec 6) (st : Nat) : Access :=
  { mkAccess i { path := path, sets := sets, order := .rlx, scope := 3, space := .g, kind := .read,
                 dest := .scalar sd.toNat, mask := 0, urgent := false } with status := [(0, BitVec.ofNat 64 st)] }

/-- GENROL (R276). -/
def execGenrol (sd sa sb : BitVec 6) (s : State) : Answer :=
  onIssue s fun i =>
    let r := enrol s i.g.block i.b (rs i sa) (rs i sb)
    let s := if r.1 = 0 then r.2 else countGroup r.2 (sectorOf i.b.core) 48
    let g := pendOn i.g (.scalar sd.toNat) s.nextId
    finish (putAccess s (statusAccess i none setsNone sd r.1)) i g 4

/-- GLEAVE (R277). -/
def execGleave (sa : BitVec 6) (s : State) : Answer :=
  onIssue s fun i =>
    match memberGroup s i.g.block i.b (rs i sa) with
    | some (key, _) => finish (leaveGroup s i.g.block key) i i.g 4
    | none => finish s i i.g 4

/-- GLOAD's or GPUT's refusal: its status returns and path 3 falls again (R261, R279). -/
def refuseGroup (s : State) (i : Issue) (g : Gang) (sd : BitVec 6) (st : Nat) : Answer :=
  let g := pendOn (raisePath g (some 3)) (.scalar sd.toNat) s.nextId
  finish (putAccess (countGroup s (sectorOf i.b.core) 48) (statusAccess i (some 3) setsNone sd st)) i g 4

/-- GLOAD (R279). -/
def execGload (sd sa sb : BitVec 6) (s : State) : Answer :=
  onIssue s fun i =>
    let st := gloadStatus s i.g.block i.b (rs i sa) (rs i sb)
    let o := withPadr s i i.g (!padInside i.b ((rs i sb).toNat % 2 ^ 32 / 32 * 32) 32)
    match st, readGload i.b (rs i sb), memberGroup s i.g.block i.b (rs i sa) with
    | 0, some r, some (key, _) =>
      let access := s.nextId
      let c : Cmd := { newCmd i .groupFill access with
        src := r.va, dst := BitVec.ofNat 64 r.dst, esz := 4, ext := [r.len / 16, 1, 1, 1, 1], total := r.len,
        bar := some r.bar, group := key }
      let c := { c with locks := dstHulls s i.g.block i.b c }
      let o := if !padInside i.b ((rs i sb).toNat % 2 ^ 32 / 32 * 32) 32 then o else withPadr o.1 i o.2 (cmdOutside s i c)
      let g := pendOn (raisePath o.2 (some 3)) (.scalar sd.toNat) access
      let s := putAccess o.1 (cmdAccess i (.scalar sd.toNat) [(0, 0)] (some (access + 1)))
      let s := { s with cmds := tabPut s.cmds s.nextId c, nextId := s.nextId + 1 }
      finish (askRound s key (access + 1) (cmdRange c)) i g 4
    | st, _, _ => refuseGroup o.1 i o.2 sd st

/-- GPUT (R280). -/
def execGput (sd sa sb : BitVec 6) (s : State) : Answer :=
  onIssue s fun i =>
    let st := gputStatus s i.g.block i.b (rs i sa) (rs i sb)
    let o := withPadr s i i.g (!padInside i.b ((rs i sb).toNat % 2 ^ 32 / 32 * 32) 32)
    match st, readGput i.b (rs i sb), memberGroup s i.g.block i.b (rs i sa) with
    | 0, some r, some (key, grp) =>
      let access := s.nextId
      let c : Cmd := { newCmd i .gput access with
        ssp := .p, src := BitVec.ofNat 64 r.src, dst := BitVec.ofNat 64 r.dst, esz := 4,
        ext := [r.len / 16, 1, 1, 1, 1], total := r.len, bar := some r.sbar, rbar := r.rbar, group := key,
        waiting := grp.members.erase i.g.block, started := true }
      let c := { c with locks := srcHulls s i.g.block i.b c }
      let o := if !padInside i.b ((rs i sb).toNat % 2 ^ 32 / 32 * 32) 32 then o else withPadr o.1 i o.2 (gputOutside s i c)
      let g := pendOn (raisePath o.2 (some 3)) (.scalar sd.toNat) access
      let s := putAccess o.1 (cmdAccess i (.scalar sd.toNat) [(0, 0)] (some (access + 1)))
      let s := { s with cmds := tabPut s.cmds s.nextId c, nextId := s.nextId + 1 }
      finish (sourceReads s (access + 1) c .copyRead) i g 4
    | st, _, _ => refuseGroup o.1 i o.2 sd st

/-- MBATCH (R297). -/
def execMbatch (sd : BitVec 6) (s : State) : Answer :=
  onIssue s fun i => finish s i (setSreg { i.g with bn := i.g.bn + 1 } sd ((i.g.bn + 1).setWidth 64)) 4

/-- A batch number is covered by an MWAIT and closed: matrix work in it keeps the gang waiting (R298). -/
def batchOpen (s : State) (key core : Nat) (bn x batch : W32) : Bool :=
  decide ((x - batch).toNat < 2 ^ 31) && decide ((bn - batch).toNat < 2 ^ 31) &&
  (((matQueue s core).any fun e => e.gang == key && e.batch == batch) ||
    s.cmds.any fun c => c.2.gang == key && (match c.2.follow with
      | some (_, _, b) => b == batch
      | none => false))

/-- Some batch that an MWAIT waits for has work not executed (R298). -/
def mwaitHolds (s : State) (key core : Nat) (bn x : W32) : Bool :=
  ((matQueue s core).any fun e => batchOpen s key core bn x e.batch) ||
  s.cmds.any fun c => match c.2.follow with
    | some (_, _, b) => batchOpen s key core bn x b
    | none => false

/-- MWAIT (R298). -/
def execMwait (sa : BitVec 6) (s : State) : Answer :=
  onIssue s fun i =>
    let x : W32 := (rs i sa).setWidth 32
    if mwaitHolds s i.cur.gang i.b.core i.g.bn x then .next (putGang s i.cur.gang (waitHere i (.mwait x)))
    else finishSwitch s i i.g 4

end Sys2Proof.Machine
end

