-- ==== Sys2Proof/Machine/LaneFloat.lean ====
section
/-! DEFINITION. Lane floating-point and conversion instructions, classes 0x2 and 0x3, and FCMP (R111 to R128, R138, R141 to
R148). -/

namespace Sys2Proof.Machine

/-- The format of a type's elements (R57, R112). -/
def elemFmt (ty : Nat) : Fmt :=
  match ty with
  | 5 => f64
  | 6 => f16
  | 7 => bf16
  | _ => f32

/-- The flush bit of FPCTL for a type (R123). -/
def elemFlush (g : Gang) (ty : Nat) : Bool :=
  match ty with
  | 5 => fz64 g
  | 6 => fz16 g
  | _ => fz32 g

/-- The elements of a value under a floating type (R57). -/
def elemsOf (ty : Nat) (x : W64) : List Nat :=
  if ty = 5 then [x.toNat]
  else if ty = 6 ∨ ty = 7 then [x.toNat % 2 ^ 16, x.toNat / 2 ^ 16 % 2 ^ 16]
  else [x.toNat % 2 ^ 32]

/-- Element results joined into one value, with their flags together (R57, R125). -/
def joinElems (rs : List (Nat × FFlags)) : W64 × FFlags :=
  match rs with
  | [a, b] => (BitVec.ofNat 64 (a.1 % 2 ^ 16 + b.1 % 2 ^ 16 * 2 ^ 16), orFlags a.2 b.2)
  | [a] => (BitVec.ofNat 64 a.1, a.2)
  | _ => (0, noFlags)

/-- Latency and issue interval of a class 0x2 op by type (R159). -/
def floatTurns (ty lat : Nat) : Nat × Nat := if ty = 5 then (4, 4) else (lat, 1)

/-- A floating op of one operand, element by element on the flushed operand, with the result flushed (R123, R125). -/
def floatOp1 (s : State) (op : Nat) (f : Lane) (lat : Nat) (k : Issue → Fmt → Nat → Nat × FFlags) : Answer :=
  let ty := f.ty.toNat
  let t := elemFmt ty
  laneOp s 2 op f (floatTurns ty lat).1 (floatTurns ty lat).2 fun i l =>
    let fz := elemFlush i.g ty
    joinElems ((elemsOf ty (srcA i f l)).map fun a => flushOut t fz (k i t (flushIn t fz a)))

/-- A floating op of two operands (R123, R125). -/
def floatOp2 (s : State) (op : Nat) (f : Lane) (lat : Nat) (k : Issue → Fmt → Nat → Nat → Nat × FFlags) : Answer :=
  let ty := f.ty.toNat
  let t := elemFmt ty
  laneOp s 2 op f (floatTurns ty lat).1 (floatTurns ty lat).2 fun i l =>
    let fz := elemFlush i.g ty
    joinElems (((elemsOf ty (srcA i f l)).zip (elemsOf ty (srcB i f l))).map fun p =>
      flushOut t fz (k i t (flushIn t fz p.1) (flushIn t fz p.2)))

/-- A floating op of three operands (R123, R125). -/
def floatOp3 (s : State) (op : Nat) (f : Lane) (lat : Nat) (k : Issue → Fmt → Nat → Nat → Nat → Nat × FFlags) : Answer :=
  let ty := f.ty.toNat
  let t := elemFmt ty
  laneOp s 2 op f (floatTurns ty lat).1 (floatTurns ty lat).2 fun i l =>
    let fz := elemFlush i.g ty
    joinElems ((((elemsOf ty (srcA i f l)).zip (elemsOf ty (srcB i f l))).zip (elemsOf ty (srcC i f l))).map fun p =>
      flushOut t fz (k i t (flushIn t fz p.1.1) (flushIn t fz p.1.2) (flushIn t fz p.2)))

/-- The rounding mode that mod[2:0] names (R62, R119). -/
def modMode (i : Issue) (f : Lane) : Nat := roundMode i.g (bitsN f.mod.toNat 2 0)

/-- FADD (R141). -/
def execFadd (f : Lane) (s : State) : Answer :=
  floatOp2 s 0 f 1 fun i t a b => faddBits t (modMode i f) (fval t a) (fval t b)

/-- FSUB (R141). -/
def execFsub (f : Lane) (s : State) : Answer :=
  floatOp2 s 1 f 1 fun i t a b => faddBits t (modMode i f) (fval t a) (negVal (fval t b))

/-- FMUL (R141). -/
def execFmul (f : Lane) (s : State) : Answer :=
  floatOp2 s 2 f 1 fun i t a b => fmulBits t (modMode i f) (fval t a) (fval t b)

/-- FFMA: one rounding (R125, R141). -/
def execFfma (f : Lane) (s : State) : Answer :=
  floatOp3 s 3 f 1 fun i t a b c => ffmaBits t (modMode i f) (fval t a) (fval t b) (fval t c)

/-- FMIN (R142). -/
def execFmin (f : Lane) (s : State) : Answer := floatOp2 s 4 f 1 fun _ t a b => fminmaxBits t false a b

/-- FMAX (R142). -/
def execFmax (f : Lane) (s : State) : Answer := floatOp2 s 5 f 1 fun _ t a b => fminmaxBits t true a b

/-- FABS and FNEG on a flushed element: the sign changes, a NaN gives the canonical NaN (R142). -/
def signOp (t : Fmt) (sign : Bool → Bool) (a : Nat) : Nat × FFlags :=
  match fval t a with
  | .nan sn => (canonNan t, if sn then flagNv else noFlags)
  | _ => (signBit t (sign (a / 2 ^ fmtBits t % 2 == 1)) + a % 2 ^ fmtBits t, noFlags)

/-- FABS (R142). -/
def execFabs (f : Lane) (s : State) : Answer := floatOp1 s 6 f 1 fun _ t a => signOp t (fun _ => false) a

/-- FNEG (R142). -/
def execFneg (f : Lane) (s : State) : Answer := floatOp1 s 7 f 1 fun _ t a => signOp t (fun n => !n) a

/-- The exponent of a positive power of two, m 2^e, if it is one. -/
def powerOf (m : Nat) (e : Int) : Option Int := if m = 2 ^ m.log2 then some (e + m.log2) else none

/-- A power of two as an f32 result, exact where f32 holds it. -/
def power32 (neg : Bool) (n : Int) : Nat := (roundFin f32 1 neg 1 n).1

/-- m1 2^e1 ≤ m2 2^e2. -/
def leScaled (m1 : Nat) (e1 : Int) (m2 : Nat) (e2 : Int) : Bool :=
  let e := min e1 e2
  decide (m1 * 2 ^ (e1 - e).toNat ≤ m2 * 2 ^ (e2 - e).toNat)

/-- A candidate lies within 1 ulp of 1 / (m 2^e) or of its square root's reciprocal, on its magnitude (R127): with the exact
value y of exponent k, `pow` 1: |w − y| ≤ 2^(k−23); `pow` 2: the same of y² = 1 / (m 2^e). -/
def withinUlp (pow : Nat) (m : Nat) (e k : Int) (w : FVal) : Bool :=
  match w with
  | .fin _ mw ew =>
    -- w − u and w + u in units of 2^q, q at or below both exponents
    let u : Int := max k (-126) - 23
    let q := min ew u
    let lo := (mw * 2 ^ (ew - q).toNat : Nat) - (2 ^ (u - q).toNat : Nat)
    let hi := (mw * 2 ^ (ew - q).toNat : Nat) + (2 ^ (u - q).toNat : Nat)
    leScaled (lo ^ pow * m) (q * pow + e) 1 0 && leScaled 1 0 (hi ^ pow * m) (q * pow + e)
  | _ => false

/-- The magnitude of 1 / (m 2^e), or of its square root, rounded toward zero, and the exponent of the exact value (R127). -/
def recipMag (pow : Nat) (m : Nat) (e : Int) : Nat × Int :=
  -- n / 2^k approximates 1 / (m 2^e) from below with at least 60 bits
  let k : Nat := m.log2 + 62
  if pow = 1 then
    let n := 2 ^ k / m
    ((roundFin f32 2 false n (-(e + k))).1, (n.log2 : Int) - (e + k))
  else
    let sh : Nat := k + (if (e + k) % 2 = 0 then 0 else 1)
    let n := isqrt (2 ^ sh / m) 40 0
    ((roundFin f32 2 false n (-(e + sh) / 2)).1, (n.log2 : Int) - (e + sh) / 2)

/-- A candidate `w` for the result of FRCP or FRSQ, kept within the bound of 1 ulp that the spec states (R127; log 8). -/
def boundedRecip (w pow : Nat) (neg : Bool) (m : Nat) (e : Int) : Nat :=
  let r := recipMag pow m e
  if withinUlp pow m e r.2 (fval f32 w) && (w / 2 ^ 31 == 1) == neg then w else signBit f32 neg + r.1

/-- Flags of a result that is no exact special case (R128). -/
def transFlags (r : Nat) : FFlags :=
  let v := fval f32 r
  ⟨true, isSubnormal f32 r || (match v with | .zero _ => true | _ => false), (match v with | .inf _ => true | _ => false),
   false, false⟩

/-- A result with the flags of R128. -/
def transResult (r : Nat) : Nat × FFlags := (r, transFlags r)

/-- Numbers with 700 bits of fraction, in which the exact values of FEXP2 to FTANH are computed to far below the distance of any
from a candidate's bound (R127). -/
def fxOne : Nat := 2 ^ 700

/-- Σ x^j / j! from a term on. -/
def expTerms (x term k fuel : Nat) : Nat :=
  match fuel with
  | 0 => 0
  | n + 1 => term + expTerms x (term * x / fxOne / (k + 1)) (k + 1) n

/-- Σ z^(2j+1) / (2j+1) from a power on, with signs that stay or alternate: artanh z, or arctan z. -/
def arcTerms (alt : Bool) (z2 power k fuel : Nat) : Int :=
  match fuel with
  | 0 => 0
  | n + 1 =>
    let r := arcTerms alt z2 (power * z2 / fxOne) (k + 2) n
    ((power / k : Nat) : Int) + (if alt then -r else r)

/-- Σ (-1)^j of the terms of the sine or cosine from a term of degree k on. -/
def trigTerms (r2 term k fuel : Nat) : Int :=
  match fuel with
  | 0 => 0
  | n + 1 => (term : Int) - trigTerms r2 (term * r2 / fxOne / ((k + 1) * (k + 2))) (k + 2) n

/-- e^x for x below 1, ln 2 and 2 π. -/
def fxExp (x : Nat) : Nat := expTerms x fxOne 0 140
def fxLn2 : Nat := (2 * arcTerms false (fxOne / 9) (fxOne / 3) 1 230).toNat
def fxTwoPi : Nat :=
  (32 * arcTerms true (fxOne / 25) (fxOne / 5) 1 160 - 8 * arcTerms true (fxOne / 57121) (fxOne / 239) 1 50).toNat

/-- The exact value of FEXP2, FLOG2, FSIN, FCOS or FTANH at x = (-1)^neg m 2^e, as a signed multiple of a power of two. -/
def transValue (op : Nat) (neg : Bool) (m : Nat) (e : Int) : Int × Int :=
  let mag : Nat := m * 2 ^ (700 + e).toNat
  match op with
  | 2 =>
    let x : Int := if neg then -(mag : Int) else mag
    ((fxExp ((x % fxOne).toNat * fxLn2 / fxOne) : Nat), x / fxOne - 700)
  | 3 =>
    let r := m * 2 ^ (700 - m.log2)
    let z := (r - fxOne) * fxOne / (r + fxOne)
    let ln := (2 * arcTerms false (z * z / fxOne) z 1 230).toNat
    (((m.log2 : Int) + e) * fxOne + (ln * fxOne / fxLn2 : Nat), -700)
  | 4 =>
    let r := mag % fxTwoPi
    let v := trigTerms (r * r / fxOne) r 1 120
    (if neg then -v else v, -700)
  | 5 =>
    let r := mag % fxTwoPi
    (trigTerms (r * r / fxOne) fxOne 0 120, -700)
  | _ =>
    let u := 2 * mag
    let ex := fxExp (u % fxLn2) * 2 ^ (u / fxLn2)
    let v : Nat := (ex - fxOne) * fxOne / (ex + fxOne)
    (if neg then -(v : Int) else v, -700)

/-- A candidate lies within 2 ulp of the value v 2^q (R127); 2^140 units of v stand for what its computation loses. -/
def within2Ulp (v q : Int) (w : FVal) : Bool :=
  let u : Int := max ((v.natAbs.log2 : Int) + q) (-126) - 22
  let near (x ex : Int) : Bool :=
    let b := min ex (min q u)
    decide ((x * 2 ^ (ex - b).toNat - v * 2 ^ (q - b).toNat).natAbs ≤ 2 ^ (u - b).toNat + 2 ^ (140 + q - b).toNat)
  match w with
  | .fin neg m e => near (if neg then -(m : Int) else m) e
  | .zero _ => near 0 0
  | _ => false

/-- A candidate `w` for the result of an op on an input that is no special case, kept within the bound of 2 ulp that the spec
states (R127; log 8). -/
def transFree (op w : Nat) (neg : Bool) (m : Nat) (e : Int) : Nat × FFlags :=
  let v := transValue op neg m e
  transResult (if within2Ulp v.1 v.2 (fval f32 w) then w else (roundFin f32 1 (decide (v.1 < 0)) v.1.natAbs v.2).1)

/-- FRCP on a flushed input, with the candidates of a function where no special case applies (R127). -/
def frcpWith (w : Nat → Nat) (x : Nat) : Nat × FFlags :=
  match fval f32 x with
  | .nan sn => (canonNan f32, if sn then flagNv else noFlags)
  | .zero n => (infBits f32 n, flagDz)
  | .inf n => (signBit f32 n, noFlags)
  | .fin neg m e =>
    match powerOf m e with
    | some n => if -127 ≤ n then (power32 neg (-n), noFlags) else (infBits f32 neg, flagOfNx)
    | none =>
      if leScaled m e 1 (-128) then (infBits f32 neg, flagOfNx)
      else transResult (boundedRecip (w x) 1 neg m e)

/-- FRSQ on a flushed input, with the candidates of a function where no special case applies (R127). -/
def frsqWith (w : Nat → Nat) (x : Nat) : Nat × FFlags :=
  match fval f32 x with
  | .nan sn => (canonNan f32, if sn then flagNv else noFlags)
  | .zero n => (infBits f32 n, flagDz)
  | .inf n => if n then (canonNan f32, flagNv) else (0, noFlags)
  | .fin neg m e =>
    if neg then (canonNan f32, flagNv)
    else
      let other := transResult (boundedRecip (w x) 2 false m e)
      match powerOf m e with
      | some n => if n % 2 = 0 then (power32 false (-(n / 2)), noFlags) else other
      | none => other

/-- FEXP2 on a flushed input, with the candidates of a function where no special case applies (R127). -/
def fexp2With (w : Nat → Nat) (x : Nat) : Nat × FFlags :=
  match fval f32 x with
  | .nan sn => (canonNan f32, if sn then flagNv else noFlags)
  | .zero _ => (0x3F800000, noFlags)
  | .inf n => (if n then 0 else infBits f32 false, noFlags)
  | .fin neg m e =>
    let v := toInt 2 (.fin neg m e)
    if !neg && leScaled 128 0 m e then (infBits f32 false, ⟨false, false, true, false, false⟩)
    else if neg && leScaled 150 0 m e then (0, ⟨false, true, false, false, false⟩)
    else if !v.2 then (power32 false v.1, noFlags)
    else transFree 2 (w x) neg m e

/-- FLOG2 on a flushed input, with the candidates of a function where no special case applies (R127). -/
def flog2With (w : Nat → Nat) (x : Nat) : Nat × FFlags :=
  match fval f32 x with
  | .nan sn => (canonNan f32, if sn then flagNv else noFlags)
  | .zero _ => (infBits f32 true, flagDz)
  | .inf n => if n then (canonNan f32, flagNv) else (infBits f32 false, noFlags)
  | .fin neg m e =>
    if neg then (canonNan f32, flagNv)
    else match powerOf m e with
      | some n => ((roundVal f32 1 (valOfInt n 0 false)).1, noFlags)
      | none => transFree 3 (w x) neg m e

/-- FSIN and FCOS on a flushed input, with the candidates of a function where no special case applies (R127). -/
def fsincosWith (w : Nat → Nat) (op x : Nat) (atZero : Bool → Nat) : Nat × FFlags :=
  match fval f32 x with
  | .nan sn => (canonNan f32, if sn then flagNv else noFlags)
  | .zero n => (atZero n, noFlags)
  | .inf _ => (canonNan f32, flagNv)
  | .fin neg m e => transFree op (w x) neg m e

/-- FTANH on a flushed input, with the candidates of a function where no special case applies (R127). -/
def ftanhWith (w : Nat → Nat) (x : Nat) : Nat × FFlags :=
  match fval f32 x with
  | .nan sn => (canonNan f32, if sn then flagNv else noFlags)
  | .zero n => (signBit f32 n, noFlags)
  | .inf n => (signBit f32 n + 0x3F800000, noFlags)
  | .fin neg m e => if leScaled 91 0 (10 * m) e then (signBit f32 neg + 0x3F800000, noFlags) else transFree 6 (w x) neg m e

/-- The result of an op by its number (R127). -/
def transWith (op : Nat) (w : Nat → Nat) (x : Nat) : Nat :=
  (match op with
    | 0 => frcpWith w x
    | 1 => frsqWith w x
    | 2 => fexp2With w x
    | 3 => flog2With w x
    | 4 => fsincosWith w 4 x (signBit f32)
    | 5 => fsincosWith w 5 x fun _ => 0x3F800000
    | _ => ftanhWith w x).1

/-- An f32 pattern that is no NaN as a number in the order of the values. -/
def orderKey (b : Nat) : Int := if b / 2 ^ 31 % 2 = 1 then -((b % 2 ^ 31 : Nat) : Int) else (b % 2 ^ 31 : Nat)

/-- Number of the interval between two turning points of FSIN or FCOS that a magnitude m 2^e lies in. -/
def trigPiece (op m : Nat) (e : Int) : Nat :=
  let mag : Nat := 2 * (m * 2 ^ (700 + e).toNat)
  (if op = 4 then mag + fxTwoPi / 2 else mag) / fxTwoPi

/-- Whether the mathematical function rises from the smaller of two neighbouring inputs of one sign to the greater, or falls; none
where it does neither (R127). -/
def transRises (op : Nat) (neg : Bool) (a b : FVal) : Option Bool :=
  let piece (v : FVal) : Nat := match v with
    | .fin _ m e => trigPiece op m e
    | _ => trigPiece op 0 0
  match op with
  | 0 => some false
  | 1 => if neg then none else some false
  | 3 => if neg then none else some true
  | 4 => if piece a = piece b then some (piece a % 2 == 0) else none
  | 5 => if piece a = piece b then some ((piece a % 2 == 0) == neg) else none
  | _ => some true

/-- The results at a pattern and at the next of the same sign keep the order of the mathematical function (R127). -/
def monotoneAt (op : Nat) (w : Nat → Nat) (x : Nat) : Bool :=
  let neg : Bool := x / 2 ^ 31 == 1
  if 0x7F800000 ≤ x % 2 ^ 31 then true
  else
    let a := orderKey (transWith op w x)
    let b := orderKey (transWith op w (x + 1))
    match transRises op neg (fval f32 x) (fval f32 (x + 1)) with
    | none => true
    | some up => if up == neg then decide (b ≤ a) else decide (a ≤ b)

/-- The candidates of an op: the free function where the results it gives are monotonic as R127 says on every interval, else none,
and every result is the exact value rounded (R127; log 8). -/
def transPick (op x : Nat) : Nat :=
  let w (y : Nat) : Nat := (Config.transcendental op (BitVec.ofNat 32 y)).toNat
  if ∀ y < 2 ^ 32, monotoneAt op w y then w x else canonNan f32

/-- FRCP on a flushed input (R127). -/
def frcpBits (x : Nat) : Nat × FFlags := frcpWith (transPick 0) x

/-- FRSQ on a flushed input (R127). -/
def frsqBits (x : Nat) : Nat × FFlags := frsqWith (transPick 1) x

/-- FEXP2 on a flushed input (R127). -/
def fexp2Bits (x : Nat) : Nat × FFlags := fexp2With (transPick 2) x

/-- FLOG2 on a flushed input (R127). -/
def flog2Bits (x : Nat) : Nat × FFlags := flog2With (transPick 3) x

/-- FSIN and FCOS on a flushed input (R127). -/
def fsincosBits (op x : Nat) (atZero : Bool → Nat) : Nat × FFlags := fsincosWith (transPick op) op x atZero

/-- FTANH on a flushed input (R127). -/
def ftanhBits (x : Nat) : Nat × FFlags := ftanhWith (transPick 6) x

/-- FRCP (R127, R143). -/
def execFrcp (f : Lane) (s : State) : Answer := floatOp1 s 8 f 2 fun _ _ a => frcpBits a

/-- FRSQ (R127, R143). -/
def execFrsq (f : Lane) (s : State) : Answer := floatOp1 s 9 f 2 fun _ _ a => frsqBits a

/-- FSQRT (R125, R143). -/
def execFsqrt (f : Lane) (s : State) : Answer := floatOp1 s 10 f 2 fun i t a => fsqrtBits t (modMode i f) (fval t a)

/-- FEXP2 (R127, R143). -/
def execFexp2 (f : Lane) (s : State) : Answer := floatOp1 s 11 f 2 fun _ _ a => fexp2Bits a

/-- FLOG2 (R127, R143). -/
def execFlog2 (f : Lane) (s : State) : Answer := floatOp1 s 12 f 2 fun _ _ a => flog2Bits a

/-- FSIN (R127, R143). -/
def execFsin (f : Lane) (s : State) : Answer := floatOp1 s 13 f 2 fun _ _ a => fsincosBits 4 a (signBit f32)

/-- FCOS (R127, R143). -/
def execFcos (f : Lane) (s : State) : Answer := floatOp1 s 14 f 2 fun _ _ a => fsincosBits 5 a fun _ => 0x3F800000

/-- FTANH (R127, R143). -/
def execFtanh (f : Lane) (s : State) : Answer := floatOp1 s 15 f 2 fun _ _ a => ftanhBits a

/-- FDIV (R125, R143). -/
def execFdiv (f : Lane) (s : State) : Answer :=
  floatOp2 s 16 f 5 fun i t a b => fdivBits t (modMode i f) (fval t a) (fval t b)

/-- FRND (R144). -/
def execFrnd (f : Lane) (s : State) : Answer := floatOp1 s 17 f 1 fun i t a => frndBits t (modMode i f) a

/-- FCLASS: the operand as stored (R144). -/
def execFclass (f : Lane) (s : State) : Answer :=
  let ty := f.ty.toNat
  laneOp s 2 18 f (floatTurns ty 1).1 (floatTurns ty 1).2 fun i l =>
    (BitVec.ofNat 64 (fclassBits (elemFmt ty) (if ty = 5 then (srcA i f l).toNat else (srcA i f l).toNat % 2 ^ 32)), noFlags)

/-- FCMP of two flushed patterns (R138). -/
def fcmpBits (t : Fmt) (code : Nat) (unordered : Bool) (a b : Nat) : Bool × FFlags :=
  let x := fval t a
  let y := fval t b
  if anyNan [x, y] then
    (unordered, if anySnan [x, y] || (!unordered && decide (2 ≤ code)) then flagNv else noFlags)
  else (condHolds code (!ltVal x y && !ltVal y x) (ltVal x y), noFlags)

/-- FCMP (R138). -/
def execFcmp (f : Lane) (s : State) : Answer :=
  let ty := f.ty.toNat
  let t := elemFmt ty
  predOp s 1 1 f (floatTurns ty 1).1 (floatTurns ty 1).2 fun i l =>
    let fz := elemFlush i.g ty
    let a := (elemsOf ty (srcA i f l)).getD 0 0
    let b := (elemsOf ty (srcB i f l)).getD 0 0
    fcmpBits t (bitsN f.mod.toNat 2 0) (f.mod.getLsbD 3) (flushIn t fz a) (flushIn t fz b)

/-- Floating type codes (R57). -/
def isFloatTy (ty : Nat) : Bool := ty == 4 || ty == 5

/-- Width and signedness of an integer type code (R57). -/
def intWidth (ty : Nat) : Nat := if is64 ty then 64 else 32
def intSigned (ty : Nat) : Bool := ty == 1 || ty == 3

/-- The integer a pattern stands for under an integer type (R111). -/
def intOf (ty : Nat) (x : W64) : Int :=
  if intSigned ty then (if is64 ty then x.toInt else (x.setWidth 32).toInt)
  else if is64 ty then x.toNat else x.toNat % 2 ^ 32

/-- CVT of one value from a source type to a destination type (R145). -/
def cvtVal (g : Gang) (st dt mode : Nat) (sat : Bool) (x : W64) : W64 × FFlags :=
  if isFloatTy st then
    let t := elemFmt st
    let v := fval t (flushIn t (elemFlush g st) ((elemsOf st x).getD 0 0))
    let r := if isFloatTy dt then flushOut (elemFmt dt) (elemFlush g dt) (roundVal (elemFmt dt) mode v)
      else floatToInt (intWidth dt) (intSigned dt) sat mode v
    (BitVec.ofNat 64 r.1, r.2)
  else
    let i := intOf st x
    if isFloatTy dt then
      let r := flushOut (elemFmt dt) (elemFlush g dt) (roundVal (elemFmt dt) mode (valOfInt i 0 false))
      (BitVec.ofNat 64 r.1, r.2)
    else
      (BitVec.ofNat 64 (wrapInt (intWidth dt) (if sat then clampInt (intWidth dt) (intSigned dt) i else i)), noFlags)

/-- CVT (R145). -/
def execCvt (f : Lane) (s : State) : Answer :=
  let m := f.mod.toNat
  let st := bitsN m 3 0
  let dt := f.ty.toNat
  let turns := if st = 5 ∨ dt = 5 then (4, 4) else (1, 1)
  laneOp s 3 0 f turns.1 turns.2 fun i l =>
    cvtVal i.g st dt (roundMode i.g (bitsN m 6 4)) (bitN m 7) (srcVal i f.a.toNat st f.imm l)

/-- The element format of a packed type that CVTP writes and CVTU reads (R57). -/
def packFmt (ty : Nat) : Fmt :=
  match ty with
  | 6 => f16
  | 7 => bf16
  | 8 => e4m3
  | _ => e5m2

/-- The flush bit of a packed element: none for 8-bit formats (R123, R146, R147). -/
def packFlush (g : Gang) (ty : Nat) : Bool := if ty = 6 then fz16 g else if ty = 7 then fz32 g else false

/-- CVTP of one element (R146). -/
def cvtpElem (g : Gang) (st dt mode : Nat) (sat : Bool) (x : W64) : Nat × FFlags :=
  let v : FVal := if st = 1 then valOfInt (intOf 1 x) 0 false else fval f32 (flushIn f32 (fz32 g) (x.toNat % 2 ^ 32))
  if dt ≤ 9 then
    flushOut (packFmt dt) (packFlush g dt) (if sat then roundSat (packFmt dt) mode v else roundVal (packFmt dt) mode v)
  else
    let signed := dt == 10
    if st = 1 then (wrapInt 8 (if sat then clampInt 8 signed (intOf 1 x) else intOf 1 x), noFlags)
    else floatToInt 8 signed sat mode v

/-- CVTP (R146). -/
def execCvtp (f : Lane) (s : State) : Answer :=
  let m := f.mod.toNat
  let st := bitsN m 3 0
  let dt := f.ty.toNat
  laneOp s 3 1 f 1 1 fun i l =>
    let mode := roundMode i.g (bitsN m 6 4)
    let elem (x : W64) := cvtpElem i.g st dt mode (bitN m 7) x
    if dt = 6 ∨ dt = 7 then joinElems [elem (srcVal i f.a.toNat st f.imm l), elem (srcVal i f.b.toNat st f.imm l)]
    else
      let rs := (List.range 4).map fun j => elem ((vreg i.g (f.a.toNat + j) l).setWidth 64)
      (BitVec.ofNat 64 ((rs.zipIdx.map fun e => e.1.1 % 256 * 2 ^ (8 * e.2)).foldl (· + ·) 0), sumFlags (rs.map (·.2)))

/-- CVTU of one element (R147). -/
def cvtuElem (g : Gang) (st dt x : Nat) : Nat × FFlags :=
  if st ≤ 9 then
    let t := packFmt st
    let v := fval t (flushIn t (packFlush g st) x)
    if dt = 4 then flushOut f32 (fz32 g) (roundVal f32 1 v) else floatToInt 32 true true 1 v
  else
    let i : Int := if st = 10 ∧ 128 ≤ x then (x : Int) - 256 else x
    if dt = 4 then ((roundVal f32 1 (valOfInt i 0 false)).1, noFlags) else (wrapInt 32 i, noFlags)

/-- CVTU (R147). -/
def execCvtu (f : Lane) (s : State) : Answer :=
  let m := f.mod.toNat
  let st := f.ty.toNat
  let w := if st = 6 ∨ st = 7 then 16 else 8
  laneOp s 3 2 f 1 1 fun i l =>
    let x := (srcA i f l).toNat % 2 ^ 32 / 2 ^ (w * bitsN m 9 8) % 2 ^ w
    let r := cvtuElem i.g st (bitsN m 3 0) x
    (BitVec.ofNat 64 r.1, r.2)

/-- QDEC (R148). -/
def execQdec (f : Lane) (s : State) : Answer :=
  let m := f.mod.toNat
  laneOp s 3 3 f 1 1 fun i l =>
    let c := (srcA i f l).toNat / 2 ^ (4 * bitsN m 4 2) % 16
    (BitVec.ofNat 64 (roundVal f32 1 (nibbleVal (bitsN m 1 0) c)).1, noFlags)

/-- QENC (R148). -/
def execQenc (f : Lane) (s : State) : Answer :=
  let m := f.mod.toNat
  laneOp s 3 4 f 1 1 fun i l =>
    let r := nibbleEnc (bitsN m 1 0) (fval f32 (flushIn f32 (fz32 i.g) ((srcA i f l).toNat % 2 ^ 32)))
    let b := (srcB i f l).toNat % 2 ^ 32
    let p := 2 ^ (4 * bitsN m 4 2)
    (BitVec.ofNat 64 (b - b / p % 16 * p + r.1 % 16 * p), r.2)

/-- SCLE (R118, R148). -/
def execScle (f : Lane) (s : State) : Answer :=
  laneOp s 3 5 f 1 1 fun i l =>
    let a := (srcA i f l).toNat % 2 ^ 32
    if f.mod.getLsbD 0 then
      let r := scaleEnc (fval f32 a)
      (BitVec.ofNat 64 r.1, r.2)
    else (BitVec.ofNat 64 (roundVal f32 1 (scaleVal (a % 512))).1, noFlags)

end Sys2Proof.Machine
end

