-- ==== Sys2Proof/Machine/Exchange.lean ====
section
/-! DEFINITION. Exchange and gang-wide instructions, class 0x4: SHFL, QXCH, VOTE, MATCH, REDUX, SCAN, LTOS (R149 to R157). -/

namespace Sys2Proof.Machine

/-- A source of another lane, as it stands at issue; a lane whose quad was never created supplies 0 (R150). -/
def otherLane (i : Issue) (f : Lane) (j : Nat) : W64 := if i.g.created.getLsbD j then srcA i f j else 0

/-- Source lane of SHFL for a lane (R151). -/
def shflLane (mode w d l : Nat) : Nat :=
  let base := l - l % w
  match mode with
  | 0 => base + d % w
  | 1 => if d ≤ l - base then l - d else l
  | 2 => if l + d < base + w then l + d else l
  | _ => base + ((l - base) ^^^ (d % w))

/-- SHFL's source lane from its operands (R151). -/
def shflFrom (i : Issue) (f : Lane) (l : Nat) : Nat :=
  shflLane (bitsN f.mod.toNat 1 0) (32 / 2 ^ bitsN f.mod.toNat 4 2)
    ((srcVal i f.b.toNat 12 f.imm l).toNat % 2 ^ 32) l

/-- QXCH's source lane (R152). -/
def qxchFrom (f : Lane) (l : Nat) : Nat := l ^^^ (bitsN f.mod.toNat 1 0 + 1)

/-- An exchange of srcA between lanes: the lost latches are those of the lanes it is read from (R54, R150). The latch of a lane that was
never created counts as lost and sets GSTAT.LATCH, of which the spec says nothing (DESIGN CHOICE, log 46). -/
def exchange (s : State) (op : Nat) (f : Lane) (src : Issue → Nat → Nat) : Answer :=
  laneOpWith s 4 op f 1 1
    (fun i r m => readsLost i (maskOf fun j => (lanesOf m).any fun l => src i l == j) f.a.toNat ||
      (isSource r.b && readsLost i m f.b.toNat))
    fun i l => (otherLane i f (src i l), noFlags)

/-- SHFL (R151). -/
def execShfl (f : Lane) (s : State) : Answer := exchange s 0 f fun i l => shflFrom i f l

/-- QXCH (R152). -/
def execQxch (f : Lane) (s : State) : Answer := exchange s 1 f fun _ l => qxchFrom f l

/-- Contributing lanes of a gang-wide op (R149). -/
def contributing (i : Issue) (f : Lane) : List Nat := lanesOf (workMask i f.guard f.neg)

/-- The predicate VOTE reads in the contributing lanes (R153). -/
def votes (i : Issue) (f : Lane) : List Bool := (contributing i f).map fun l => pred i.g (f.mod.extractLsb' 2 3) l

/-- VOTE (R153). -/
def execVote (f : Lane) (s : State) : Answer :=
  match bitsN f.mod.toNat 1 0 with
  | 0 => predOp s 4 2 f 1 1 fun i _ => ((votes i f).all id, noFlags)
  | 1 => predOp s 4 2 f 1 1 fun i _ => ((votes i f).any id, noFlags)
  | 2 => laneOp s 4 2 f 1 1 fun i _ =>
    ((workMask i f.guard f.neg &&& predMask i.g (f.mod.extractLsb' 2 3)).setWidth 64, noFlags)
  | _ => predOp s 4 2 f 1 1 fun i _ => ((votes i f).all id || !(votes i f).any id, noFlags)

/-- MATCH (R154). -/
def execMatchLanes (f : Lane) (s : State) : Answer :=
  laneOp s 4 3 f 1 1 fun i l =>
    let c := contributing i f
    if f.mod.getLsbD 0 then
      (if c.all fun j => c.all fun k => srcA i f j == srcA i f k then (workMask i f.guard f.neg).setWidth 64 else 0, noFlags)
    else ((maskOf fun j => c.contains j && srcA i f j == srcA i f l).setWidth 64, noFlags)

/-- Identities of REDUX and SCAN (R155). -/
def combIdentity (op ty : Nat) : Nat :=
  match op with
  | 0 => 0
  | 1 => if ty = 0 then 0xFFFFFFFF else if ty = 1 then 0x7FFFFFFF else infBits f32 false
  | 2 => if ty = 0 then 0 else if ty = 1 then 0x80000000 else infBits f32 true
  | 3 => 0xFFFFFFFF
  | _ => 0

/-- One combination of REDUX and SCAN (R155). -/
def comb (g : Gang) (op ty u v : Nat) : Nat × FFlags :=
  let fz := fz32 g
  let fu := flushIn f32 fz u
  let fv := flushIn f32 fz v
  match op with
  | 0 => if ty = 4 then flushOut f32 fz (faddBits f32 1 (fval f32 fu) (fval f32 fv)) else ((u + v) % 2 ^ 32, noFlags)
  | 1 => if ty = 4 then fminmaxBits f32 false fu fv
    else (if intOf ty (BitVec.ofNat 64 v) < intOf ty (BitVec.ofNat 64 u) then v else u, noFlags)
  | 2 => if ty = 4 then fminmaxBits f32 true fu fv
    else (if intOf ty (BitVec.ofNat 64 u) < intOf ty (BitVec.ofNat 64 v) then v else u, noFlags)
  | 3 => (u &&& v, noFlags)
  | 4 => (u ||| v, noFlags)
  | _ => (u ^^^ v, noFlags)

/-- What a contributing lane brings to the tree: a NaN of f32 as the canonical one, and NV for a signalling one, for R114 holds of every
result, that of a sole lane too (R114, R155). -/
def treeLeaf (ty bits : Nat) : Nat × FFlags :=
  match ty, fval f32 bits with
  | 4, .nan sn => (canonNan f32, if sn then flagNv else noFlags)
  | _, _ => (bits, noFlags)

/-- Combine two positions of the tree, of which either may be absent (R155). -/
def combOpt (g : Gang) (op ty : Nat) (u v : Option (Nat × FFlags)) : Option (Nat × FFlags) :=
  match u, v with
  | some a, some b =>
    let r := comb g op ty a.1 b.1
    some (r.1, orFlags (orFlags a.2 b.2) r.2)
  | some a, none => some a
  | none, v => v

/-- One level of the tree: neighbours combined in pairs (R155). -/
def treeLevel (g : Gang) (op ty : Nat) (xs : List (Option (Nat × FFlags))) : List (Option (Nat × FFlags)) :=
  match xs with
  | u :: v :: r => combOpt g op ty u v :: treeLevel g op ty r
  | l => l

/-- The tree's result over 32 positions (R155). -/
def treeOf (g : Gang) (op ty n : Nat) (xs : List (Option (Nat × FFlags))) : Option (Nat × FFlags) :=
  match n with
  | 0 => xs.getD 0 none
  | n + 1 => treeOf g op ty n (treeLevel g op ty xs)

/-- The 32 bits a lane contributes. -/
def laneBits (i : Issue) (f : Lane) (l : Nat) : Nat := (srcA i f l).toNat % 2 ^ 32

/-- REDUX (R155). -/
def execRedux (f : Lane) (s : State) : Answer :=
  let op := bitsN f.mod.toNat 2 0
  laneOp s 4 4 f 1 1 fun i _ =>
    let c := contributing i f
    let xs := allLanes.map fun l => if c.contains l then some (treeLeaf f.ty.toNat (laneBits i f l)) else none
    match treeOf i.g op f.ty.toNat 5 xs with
    | some r => (BitVec.ofNat 64 r.1, r.2)
    | none => (BitVec.ofNat 64 (combIdentity op f.ty.toNat), noFlags)

/-- SCAN (R156). -/
def execScan (f : Lane) (s : State) : Answer :=
  let op := bitsN f.mod.toNat 2 0
  laneOp s 4 5 f 1 1 fun i l =>
    let cs := (contributing i f).filter fun c => decide (c < l) || (c == l && !f.mod.getLsbD 3)
    let r := cs.foldl (fun (a : Nat × FFlags) c =>
      let x := comb i.g op f.ty.toNat a.1 (laneBits i f c)
      (x.1, orFlags a.2 x.2)) (combIdentity op f.ty.toNat, noFlags)
    (BitVec.ofNat 64 r.1, r.2)

/-- The lane LTOS reads, if any (R157). -/
def ltosLane (i : Issue) (f : Lane) : Option Nat :=
  if f.mod.getLsbD 5 then some (bitsN f.mod.toNat 4 0)
  else match lowLane (workMask i f.guard f.neg) with
    | some l => some l
    | none => lowLane (activeMask i f.guard f.neg)

/-- LTOS (R157). -/
def execLtos (f : Lane) (s : State) : Answer :=
  onIssue s fun i =>
    withRegs s i (laneRowD 4 6) f <|
      let g := match ltosLane i f with
        | some l =>
          let x := otherLane i f l
          let g := if readsLost i (laneBit l) f.a.toNat then raiseGstat i.g gstatLatch else i.g
          setSreg g (f.dst.setWidth 6) (if f.ty = 2 then x else low32 x)
        | none => i.g
      finishLane s i (pushLatch g (lanesMask i) g.turn fun _ => none) 1

end Sys2Proof.Machine
end

