-- ==== Sys2Proof/Machine/Matrix.lean ====
section
/-! DEFINITION. Matrix instructions and the matrix array (R65, R129 to R131, R284 to R298). -/

namespace Sys2Proof.Machine

/-- A matrix instruction enters its core's queue, in the gang's open batch, and pushes a lost latch entry (R289, R293, R297). -/
def matrixIssue (s : State) (op : Nat) (f : Lane) (ops : Issue → W64 × W64 × W64) : Answer :=
  onIssue s fun i =>
    withRegs s i (laneRowD 7 op) f <|
      let o := ops i
      let e : MatEntry :=
        { id := s.nextId, gang := i.cur.gang, before := [i.cur.gang], block := i.g.block, batch := i.g.bn + 1, op := op, f := f,
          x := o.1, y := o.2.1, z := o.2.2 }
      let s := { s with nextId := s.nextId + 1, mq := tabPut s.mq i.b.core (matQueue s i.b.core ++ [e]) }
      finishLane s i (pushLatch i.g (lanesMask i) i.g.turn fun _ => none) 1

/-- The low 32 bits of a scalar or broadcast operand (R290). -/
def matScalar (i : Issue) (f : Lane) (code : BitVec 10) : W64 := srcVal i code.toNat 12 f.imm 0

/-- The zero-block bitmap of MMAZ (R290). -/
def matBitmap (i : Issue) (f : Lane) : W64 :=
  if f.c.toNat < 512 then (if i.g.created.getLsbD 0 then vpair i.g f.c.toNat 0 else 0) else addrVal i f.c.toNat 0

/-- MMA (R291). -/
def execMma (f : Lane) (s : State) : Answer := matrixIssue s 0 f fun _ => (0, 0, 0)

/-- MMAT: pad offsets of A and B, and the stride (R287, R291). -/
def execMmat (f : Lane) (s : State) : Answer :=
  matrixIssue s 1 f fun i => (matScalar i f f.a, matScalar i f f.b, matScalar i f f.c)

/-- MMAZ (R291, R292). -/
def execMmaz (f : Lane) (s : State) : Answer := matrixIssue s 2 f fun i => (0, 0, matBitmap i f)

/-- MZERO (R295). -/
def execMzero (f : Lane) (s : State) : Answer := matrixIssue s 3 f fun _ => (0, 0, 0)

/-- MLD (R295). -/
def execMld (f : Lane) (s : State) : Answer := matrixIssue s 4 f fun i => (matScalar i f f.a, 0, 0)

/-- MST (R295). -/
def execMst (f : Lane) (s : State) : Answer := matrixIssue s 5 f fun i => (matScalar i f f.a, 0, 0)

/-- MOUT (R296). -/
def execMout (f : Lane) (s : State) : Answer :=
  matrixIssue s 6 f fun i => (matScalar i f f.a, if f.mod.getLsbD 4 then matScalar i f f.b else 0, 0)

/-- Depth K of a pairing by the format of A (R285). -/
def matDepth (fa : Nat) : Nat := if formatBits fa = 16 then 32 else if formatBits fa = 8 then 64 else 128

/-- Chunk size C of a pairing (R129, R285). -/
def matChunk (fa fb : Nat) : Nat :=
  let small (x : Nat) : Bool := decide (4 ≤ x)
  if formatBits fa = 16 ∨ formatBits fb = 16 then 8 else if small fa && small fb then 32 else 16

/-- Element k of a row or column from its bytes; `wide` says that a 4-bit element takes a whole byte (R286). -/
def elemCode (fmt : Nat) (wide : Bool) (byte : Nat → Nat) (k : Nat) : Nat :=
  if formatBits fmt = 16 then byte (2 * k) + 256 * byte (2 * k + 1)
  else if formatBits fmt = 8 then byte k
  else if wide then byte k % 16
  else if k % 2 = 0 then byte (k / 2) % 16 else byte (k / 2) / 16

/-- The value of an element (R112, R115). -/
def elemVal (fmt c : Nat) : FVal :=
  match fmt with
  | 0 => fval bf16 c
  | 1 => fval f16 c
  | 2 => fval e4m3 c
  | 3 => fval e5m2 c
  | 4 => valOfInt ((BitVec.ofNat 8 c).toInt) 0 false
  | 5 => nibbleVal 0 c
  | 6 => nibbleVal 1 c
  | _ => nibbleVal 2 c

/-- The integer of an s8, s4 or h4 element, in half units when `half` is set (R131). -/
def elemInt (fmt c : Nat) (half : Bool) : Int :=
  let n : Int := if fmt = 4 then (BitVec.ofNat 8 c).toInt else (BitVec.ofNat 4 c).toInt
  if fmt = 6 then 2 * n + 1 else if half then 2 * n else n

/-- Byte b of row i of a lane-register operand (R286). -/
def laneOperand (g : Gang) (p : Nat) (narrow : Bool) (i b : Nat) : Nat :=
  let r := if narrow then p + i / 4 else p + i / 2
  let l := if narrow then i % 4 * 8 + b / 4 else i % 2 * 16 + b / 4
  if g.created.getLsbD l then (vreg g r l).toNat / 2 ^ (8 * (b % 4)) % 256 else 0

/-- A pad offset operand: its low 32 bits with bits [3:0] cleared (R287, R295). -/
def matOffset (x : W64) : Nat := x.toNat % 2 ^ 32 / 16 * 16

/-- Byte b of row i of a pad operand (R287). -/
def padOperand (blk : Block) (p st i b : Nat) : Nat := (padByte blk ((p + i * st + b) % 2 ^ 32)).toNat

/-- Exact sum of products of a chunk (R129, R130). -/
def chunkSum (ps : List (FVal × FVal)) : FVal :=
  let step (s : FVal) (p : FVal × FVal) (first : Bool) : FVal :=
    if anyNan [s, p.1, p.2] then .nan false
    else match mulVal p.1 p.2 with
      | none => .nan false
      | some q => if first then q else (sumVal 1 s q).getD (.nan false)
  match ps with
  | [] => .zero false
  | p :: r => r.foldl (fun s q => step s q false) (step (.zero false) p true)

/-- Product of values, a NaN where none exists (R130). -/
def mulAll (a b : FVal) : FVal := if anyNan [a, b] then .nan false else (mulVal a b).getD (.nan false)

/-- A part of a scale table: scale of row or column i for block g (R116, R117, R288). -/
def tableScale (blk : Block) (t i g : Nat) : FVal :=
  let rd (o n : Nat) : Nat := leNat (padBytes blk ((t + o) % 2 ^ 32) n)
  mulAll (scaleVal (rd (256 + 4 * i + 2 * g) 2 % 512)) (fval f32 (rd (4 * i) 4))

/-- The operands of a multiply as it executes. -/
structure MatOps where
  a  : Nat → Nat → Nat
  b  : Nat → Nat → Nat
  /-- row m and element k are marked zero (R292) -/
  zero : Nat → Nat → Bool
  scaleA : Nat → Nat → FVal
  scaleB : Nat → Nat → FVal

/-- One element of an f32 accumulation (R129, R130). -/
def accumF32 (fa fb : Nat) (o : MatOps) (m n : Nat) (acc : W32) : W32 :=
  let c := matChunk fa fb
  let chunk (acc : Nat) (ch : Nat) : Nat :=
    let ps := (List.range c).map fun j =>
      let k := ch * c + j
      (if o.zero m k then FVal.zero false else elemVal fa (o.a m k), elemVal fb (o.b n k))
    let g := ch * c / 64
    let x := mulAll (mulAll (chunkSum ps) (o.scaleA m g)) (o.scaleB n g)
    (faddBits f32 1 (fval f32 acc) (fval f32 (roundVal f32 1 x).1)).1
  BitVec.ofNat 32 ((List.range (matDepth fa / c)).foldl chunk acc.toNat)

/-- One element of an s32 accumulation, and whether some chunk's exact sum left the range (R131). -/
def accumS32 (fa fb : Nat) (o : MatOps) (m n : Nat) (acc : W32) : W32 × Bool :=
  let c := matChunk fa fb
  let half := fa == 6 || fb == 6
  let chunk (st : Int × Bool) (ch : Nat) : Int × Bool :=
    let sum := ((List.range c).map fun j =>
      let k := ch * c + j
      if o.zero m k then 0 else elemInt fa (o.a m k) half * elemInt fb (o.b n k) half).foldl (· + ·) 0
    let e := st.1 + sum
    ((BitVec.ofInt 32 e).toInt, st.2 || decide (e < -(2 ^ 31)) || decide (2 ^ 31 - 1 < e))
  let r := (List.range (matDepth fa / c)).foldl chunk (acc.toInt, false)
  (BitVec.ofInt 32 r.1, r.2)

/-- A word of a tile (R284). -/
def tileWord (b : Block) (t j : Nat) : W32 := tabGet b.tiles (4096 * t + j) 0

/-- Replace the words of a tile. -/
def putTile (b : Block) (t : Nat) (w : Nat → W32) : Block :=
  let new := (List.range 4096).filterMap fun j => if w j = 0 then none else some (4096 * t + j, w j)
  { b with tiles := (b.tiles.filter fun e => decide (e.1 < 4096 * t)) ++ new ++
                    (b.tiles.filter fun e => decide (4096 * t + 4096 ≤ e.1)) }

/-- The operands of a queued multiply (R286 to R288, R291, R292). -/
def entryOps (g : Gang) (b : Block) (e : MatEntry) : MatOps :=
  let fa := bitsN e.f.mod.toNat 3 0
  let fb := bitsN e.f.mod.toNat 7 4
  let narrow := narrowB fa fb
  let scl := e.f.mod.getLsbD 9
  let t := e.f.imm.toNat
  let aByte (i k : Nat) : Nat := if e.op = 1 then padOperand b (matOffset e.x) (matOffset e.z) i k
    else laneOperand g e.f.a.toNat false i k
  let bByte (i k : Nat) : Nat := if e.op = 1 then padOperand b (matOffset e.y) (matOffset e.z) i k
    else laneOperand g e.f.b.toNat narrow i k
  { a := fun m k => elemCode fa false (aByte m) k
    b := fun n k => elemCode fb (formatBits fa == 16) (bByte n) k
    zero := fun m k => e.op == 2 && e.z.getLsbD (8 * (m / 8) + k / (matDepth fa / 8))
    scaleA := fun m g => if scl && formatBits fa == 4 then tableScale b (t + 512) m g else .fin false 1 0
    scaleB := fun n g => if scl then tableScale b t n g else .fin false 1 0 }

/-- Pad ranges a queued entry reads or writes: offset and bytes (R287, R288, R295). -/
def entryPad (e : MatEntry) : List (Nat × Nat) :=
  let fa := bitsN e.f.mod.toNat 3 0
  let fb := bitsN e.f.mod.toNat 7 4
  let rows (p st n : Nat) : List (Nat × Nat) := (List.range 64).map fun i => ((p + i * st) % 2 ^ 32, n)
  let scl := if e.op ≤ 2 && e.f.mod.getLsbD 9 then [(e.f.imm.toNat, if formatBits fa = 4 then 1024 else 512)] else []
  match e.op with
  | 1 => rows (matOffset e.x) (matOffset e.z) 64 ++ rows (matOffset e.y) (matOffset e.z) (if narrowB fa fb then 32 else 64) ++ scl
  | 4 | 5 => [(matOffset e.x, 16384)]
  | 6 => [(matOffset e.x, if bitsN e.f.mod.toNat 3 0 = 2 then 4096 else 8192)]
  | _ => scl

/-- MOUT of one element: its bytes in format F (R296). -/
def moutBytes (mod : BitVec 10) (s32 : Bool) (scale : W64) (w : W32) : List Byte :=
  let x : FVal := if s32 then valOfInt w.toInt 0 false else fval f32 w.toNat
  let x := if mod.getLsbD 4 then mulAll x (fval f32 (scale.toNat % 2 ^ 32)) else x
  match bitsN mod.toNat 3 0 with
  | 0 => leBytes 2 (roundVal bf16 1 x).1
  | 1 => leBytes 2 (roundVal f16 1 x).1
  | _ => leBytes 1 (roundSat e4m3 1 x).1

/-- Pad bytes written from an offset of the block's pad (R166). -/
def blockPuts (b : Block) (o : Nat) (bs : List Byte) : Block := padPuts b (o % 2 ^ 32) bs

/-- The effect of a queued entry on its block, and whether an integer sum overflowed (R291, R295, R296). Where the range of MST or MOUT
wraps in a smaller pad, the elements are written in ascending order, so that the last one stays, of which the spec says nothing (R166;
DESIGN CHOICE, log 46). -/
def entryEffect (g : Gang) (b : Block) (e : MatEntry) : Block × Bool :=
  let t := e.f.dst.toNat
  let p := matOffset e.x
  match e.op with
  | 3 => (putTile b t fun _ => 0, false)
  | 4 => (putTile b t fun j => BitVec.ofNat 32 (leNat (padBytes b ((p + 4 * j) % 2 ^ 32) 4)), false)
  | 5 => ((List.range 4096).foldl (fun q j => blockPuts q (p + 4 * j) (leBytes 4 (tileWord b t j).toNat)) b, false)
  | 6 =>
    let n := if bitsN e.f.mod.toNat 3 0 = 2 then 1 else 2
    ((List.range 4096).foldl
      (fun q j => blockPuts q (p + n * j) (moutBytes e.f.mod (b.kinds.getLsbD t) e.y (tileWord b t j))) b, false)
  | _ =>
    let fa := bitsN e.f.mod.toNat 3 0
    let fb := bitsN e.f.mod.toNat 7 4
    let o := entryOps g b e
    if pairingS32 fa fb then
      let r (j : Nat) := accumS32 fa fb o (j / 64) (j % 64) (tileWord b t j)
      ({ putTile b t (fun j => (r j).1) with kinds := b.kinds ||| BitVec.ofNat 16 (2 ^ t) },
       (List.range 4096).any fun j => (r j).2)
    else
      ({ putTile b t (fun j => accumF32 fa fb o (j / 64) (j % 64) (tileWord b t j)) with
         kinds := b.kinds &&& ~~~(BitVec.ofNat 16 (2 ^ t)) }, false)

/-- The gang that receives the OF of a queued entry: its own, or the heir of its sticky bits. Where the heir has retired by a REGROUP too,
the heir of that one receives it, and where it has retired otherwise none does, of which R131 says nothing (R36, R131; DESIGN CHOICE,
log 46). -/
def flagHeir (s : State) (key n : Nat) : Option Nat :=
  match n with
  | 0 => none
  | n + 1 =>
    match tabFind s.gangs key with
    | some g => if !g.retired then some key else match g.heir with
      | some h => flagHeir s h n
      | none => none
    | none => none

/-- MATRIX_EXECUTE: the entry at the head of a core's queue takes effect and leaves it (R291, R293, R294). -/
def execMatrixExecute (core : Nat) (s : State) : Answer :=
  match matQueue s core with
  | [] => .next s
  | e :: r =>
    let s := { s with mq := tabPut s.mq core r }
    match tabFind s.blocks e.block, tabFind s.gangs e.gang with
    | some b, some g =>
      let o := entryEffect g b e
      let s := putBlock s e.block o.1
      let s := match if o.2 then flagHeir s e.gang 32 else none with
        | some k => { s with gangs := tabUpd s.gangs k fun g => raiseGstat g 0x4 }
        | none => s
      .next (if (entryPad e).any fun x => !padInside b x.1 x.2 then flagPadr s e.gang else s)
    | _, _ => .next s

end Sys2Proof.Machine
end

