-- ==== Sys2Proof/Machine/Place.lean ====
section
/-! DEFINITION. Where a block fits on a core, and how a block and its gangs start (R13, R14, R20, R302, R330, R331). -/

namespace Sys2Proof.Machine

/-- What a block needs of a core (R20). -/
structure Need where
  gangs : Nat
  regs  : Nat
  pad   : Nat
  acc   : Nat
  copyq : Nat

/-- Blocks on a core. -/
def coreBlocks (s : State) (core : Nat) : List (Nat × Block) := s.blocks.filter fun e => e.2.core == core

/-- Slots in use on a core: pipe, slot, registers. A gang's slot and registers are free once it has retired (R40). -/
def coreSlots (s : State) (core : Nat) : List (Nat × Nat × Nat) :=
  s.gangs.filterMap fun e => match tabFind s.blocks e.2.block with
    | some b => if b.core == core && !e.2.retired then some (e.2.pipe, e.2.slot, b.regs) else none
    | none => none

/-- Lowest free slot of a pipe with enough free registers (R20). -/
def pipeSlot (occ : List (Nat × Nat × Nat)) (regs p : Nat) : Option Nat :=
  let mine := occ.filter fun x => x.1 == p
  if (mine.map (·.2.2)).foldl (· + ·) 0 + regs ≤ 1024 then
    (List.range 8).find? fun k => !mine.any fun x => x.2.1 == k
  else none

/-- Lowest-numbered pipe that takes a gang, and its slot (R20). -/
def gangSlot (occ : List (Nat × Nat × Nat)) (regs : Nat) : Option (Nat × Nat) :=
  (List.range 4).findSome? fun p => (pipeSlot occ regs p).map fun k => (p, k)

/-- Pipes and slots of `n` gangs placed in ascending gang id, when all fit (R20). -/
def gangSlots (occ : List (Nat × Nat × Nat)) (regs n : Nat) : Option (List (Nat × Nat)) :=
  match n with
  | 0 => some []
  | n + 1 =>
    match gangSlot occ regs with
    | some (p, k) => (gangSlots (occ ++ [(p, k, regs)]) regs n).map fun r => (p, k) :: r
    | none => none

/-- Lowest free block index of a core (R330). -/
def freeIndexOf (s : State) (core : Nat) : Option Nat :=
  (List.range 32).find? fun k => !(coreBlocks s core).any fun e => e.2.index == k

/-- A sum over blocks. -/
def sumBlocks (bs : List (Nat × Block)) (k : Block → Nat) : Nat := (bs.map fun e => k e.2).foldl (· + ·) 0

/-- A block fits on a core as it stands: its index and its gangs' places (R20, R330). -/
def fitCore (s : State) (core : Nat) (n : Need) : Option (Nat × List (Nat × Nat)) :=
  let bs := coreBlocks s core
  if sumBlocks bs (·.padSize) + n.pad ≤ 393216 ∧ sumBlocks bs (·.acc) + n.acc ≤ 16 ∧
      sumBlocks bs (·.copyq) + n.copyq ≤ 32 then
    match freeIndexOf s core, gangSlots (coreSlots s core) n.regs n.gangs with
    | some k, some g => some (k, g)
    | _, _ => none
  else none

/-- A block fits on an empty core (R13, R20). -/
def fitsEmpty (n : Need) : Bool :=
  decide (n.pad ≤ 393216) && decide (n.acc ≤ 16) && decide (n.copyq ≤ 32) && (gangSlots [] n.regs n.gangs).isSome

/-- A pad size rounded up to 1 KiB (R166). -/
def padRound (n : Nat) : Nat := (n + 1023) / 1024 * 1024

/-- Bytes of a block's lane-private frame (R330). -/
def frameBytes (gangs z : Nat) : Nat := gangs * 32 * z

/-- Frames in use in a context's lane-private pool, of its blocks on the device and in its image: base and bytes. -/
def poolRuns (s : State) (ctx : Nat) : List (Nat × Nat) :=
  (s.blocks ++ s.savedBlocks).filterMap fun e =>
    if e.2.ctx == ctx && e.2.zpriv != 0 then some (e.2.frame.toNat, frameBytes e.2.gangs e.2.zpriv) else none

/-- An address rounded up to 128. -/
def round128 (n : Nat) : Nat := (n + 127) / 128 * 128

/-- Frame base of a block: the lowest free run of the pool that is large enough, beside other runs taken (R331). -/
def framePlace (s : State) (ctx n : Nat) (taken : List (Nat × Nat)) : Option Nat :=
  match tabFind s.ctxs ctx with
  | none => none
  | some c =>
    if n = 0 then some 0
    else
      let used := poolRuns s ctx ++ taken
      let starts := round128 c.poolBase.toNat :: used.map fun r => round128 (r.1 + r.2)
      let ok := starts.filter fun a => decide (c.poolBase.toNat ≤ a) && decide (a + n ≤ c.poolBase.toNat + c.poolSize) &&
        used.all fun r => decide (a + n ≤ r.1) || decide (r.1 + r.2 ≤ a)
      match ok with
      | [] => none
      | a :: r => some (r.foldl min a)

/-- Lanes of gang `gid` that a block of L lanes creates, and its helper lanes (R14). -/
def createdLanes (lanes gid : Nat) : Mask := maskOf fun l => decide (32 * gid + l < 4 * ((lanes + 3) / 4))
def helperLanes (lanes gid : Nat) : Mask := createdLanes lanes gid &&& maskOf fun l => decide (lanes ≤ 32 * gid + l)

/-- A gang as it starts at an entry with some scalar registers (R302, R331). -/
def newGang (uid gid pipe slot lanes : Nat) (entry : W64) (scalars : Tab W64) : Gang where
  block := uid
  gid := gid
  pipe := pipe
  slot := slot
  created := createdLanes lanes gid
  helper := helperLanes lanes gid
  live := createdLanes lanes gid
  v := []
  k := []
  s := scalars.filter fun e => e.2 != 0
  latch := []
  latchDue := [0, 0, 0, 0]
  frags := [(0, { pc := entry, mask := createdLanes lanes gid, link := none, wait := .running, words := [] })]
  joins := []
  cur := 0
  handover := .closed
  saved := []
  paths := []
  gstat := 0
  gctl := 3
  tstat := 0
  tval := 0
  tpc := 0
  cpc := 0
  contv := 0
  fpctl := 1
  stalls := []
  monitor := none
  monPa := none
  woken := false
  bn := 0
  pausing := false
  pauseLeft := 0
  pend := []
  turn := 0
  issueAt := 0
  flagsDue := 0
  seq := 0
  fence := none
  halted := false
  held := none
  skipBp := false
  stepLeft := none
  yieldAck := false
  yieldStop := false
  mended := false
  atHalt := false
  lastStall := none
  issued := false
  retired := false
  heir := none

/-- Put the gangs of a block on the pipes and slots it takes. -/
def putGangs (s : State) (uid lanes : Nat) (entry : W64) (scalars : Tab W64) (places : List (Nat × Nat)) : State :=
  places.zipIdx.foldl (fun s e =>
    putGang s (gangKey uid e.2) (newGang uid e.2 e.1.1 e.1.2 lanes entry scalars)) s

/-- A block of one unit position with the resources of a kernel; team, rank and frame are set by its placement (R12, R16). -/
def newBlock (core index launch ctx : Nat) (world asid : BitVec 16) (n : Need) : Block where
  core := core
  index := index
  launch := launch
  ctx := ctx
  world := world
  asid := asid
  cx := 0
  cy := 0
  cz := 0
  gx := 1
  gy := 1
  gz := 1
  sx := 32
  sy := 1
  sz := 1
  rank := 0
  size := 1
  team := 0
  teamed := false
  gangs := n.gangs
  regs := n.regs
  padSize := n.pad
  pad := []
  acc := n.acc
  tiles := []
  kinds := 0
  copyq := n.copyq
  zpriv := 0
  frame := 0
  phase := 0
  haltReq := false
  halted := false
  responder := none

end Sys2Proof.Machine
end

