-- ==== Sys2Proof/Machine/Census.lean ====
section
/-! DEFINITION. Solicit directories and the col network: DIRADD, DIRDEL, DIRMOV and their handoffs, SOLICIT, CWAIT, RESPOND,
reports, responders and censuses (R301, R302, R305 to R320). -/

namespace Sys2Proof.Machine

/-- Directory of a core: entry number and entry, ascending (R305). -/
def coreDir (s : State) (core : Nat) : List (Nat × DirEntry) :=
  (s.dirs.filter fun e => e.1 / 256 == core).map fun e => (e.1 % 256, e.2)

/-- Lowest-numbered HOME entry of a key and context (R307, R309). -/
def homeEntry (s : State) (core ctx : Nat) (key : W64) : Option Nat :=
  ((coreDir s core).find? fun e => e.2.st == .home && e.2.ctx == ctx && e.2.key == key).map (·.1)

/-- A free entry of a directory: the lowest, as the spec does not say which (R305, R309; DESIGN CHOICE, log 21). -/
def freeDirEntry (s : State) (core : Nat) : Option Nat :=
  (List.range 256).find? fun k => (tabFind s.dirs (256 * core + k)).isNone

/-- Set a directory entry. -/
def putDir (s : State) (core k : Nat) (e : DirEntry) : State := { s with dirs := tabPut s.dirs (256 * core + k) e }

/-- Free a directory entry. -/
def dropDir (s : State) (core k : Nat) : State := { s with dirs := tabDel s.dirs (256 * core + k) }

/-- A responder entry field keeps its layout (R306). -/
def responderEntryOk (x : W64) : Bool := wbits x 1 0 == 0 && wbits x 59 56 == 0

/-- An access whose status is still awaited: it stands for a W access once the status is written (R301). -/
def awaitedAccess (i : Issue) (sd : BitVec 6) (status : List (Nat × W64)) : Access :=
  { mkAccess i { path := none, sets := setsW, order := .rlx, scope := 3, space := .p, kind := .read,
                 dest := .scalar sd.toNat, mask := 0, urgent := false } with cmd := some 0, status := status }

/-- Pad offset of a directory record (R309) and of a solicit descriptor (R310). -/
def recordOff (x : W64) : Nat := x.toNat % 2 ^ 32 / 16 * 16
def solicitOff (x : W64) : Nat := x.toNat % 2 ^ 32 / 32 * 32

/-- A directory instruction on its way: it is performed like any W access, after the acquires before it (R208, R301); DIRADD first
reads its record from the pad (R309). -/
def startDir (s : State) (i : Issue) (g : Gang) (sd : BitVec 6) (op : DirOp) (ps : List Part) : Answer :=
  let w : Want := { path := none, sets := setsW, order := .rlx, scope := 1, space := .p, kind := .read,
                    dest := .scalar sd.toNat, mask := 0, urgent := false }
  let id := s.nextId
  finish (putReq (putAccess s { awaitedAccess i sd [] with dir := some op }) (mkReq i (some id) w 0 ps)) i
    (pendOn g (.scalar sd.toNat) id) 4

/-- DIRADD (R309). -/
def execDiradd (sd sa sb : BitVec 6) (s : State) : Answer :=
  onIssue s fun i =>
    let p := innerPart 0 (BitVec.ofNat 64 (recordOff (rs i sb))) 16 [] []
    let r := withPadr s i i.g (anyOutside s i.g.block i.b .p [p])
    startDir r.1 i r.2 sd (.add (rs i sa)) [p]

/-- DIRDEL (R309). -/
def execDirdel (sd sa : BitVec 6) (s : State) : Answer := onIssue s fun i => startDir s i i.g sd (.del (rs i sa)) []

/-- DIRMOV (R309). -/
def execDirmov (sd sa sb : BitVec 6) (s : State) : Answer :=
  onIssue s fun i => startDir s i i.g sd (.mov (rs i sa) (rs i sb)) []

/-- A status reaches an access. -/
def giveStatus (s : State) (access : Nat) (status : List (Nat × W64)) : State :=
  { s with accs := tabUpd s.accs access fun a => { a with status := status } }

/-- DIRADD with its record read: the checks, the entry and the status (R309). -/
def addDir (s : State) (access : Nat) (b : Block) (key : W64) (bs : List Byte) : State :=
  let entry : W64 := BitVec.ofNat 64 (leAt bs 8 8)
  if !responderEntryOk entry then giveStatus s access [(0, 4)]
  else match freeDirEntry s b.core with
    | none => giveStatus s access [(0, 1)]
    | some k =>
      giveStatus (putDir s b.core k { key := key, handle := BitVec.ofNat 64 (leAt bs 0 8), entry := entry, ctx := b.ctx, st := .home })
        access [(0, 0)]

/-- DIRDEL performed (R309). -/
def delDir (s : State) (access : Nat) (b : Block) (key : W64) : State :=
  match homeEntry s b.core b.ctx key with
  | none => giveStatus s access [(0, 2)]
  | some k => giveStatus (dropDir s b.core k) access [(0, 0)]

/-- DIRMOV performed: the entry becomes LEAVING and a handoff starts (R307, R309). -/
def moveDir (s : State) (access : Nat) (a : Access) (b : Block) (key core : W64) : State :=
  if 287 < core.toNat then giveStatus s access [(0, 3)]
  else match homeEntry s b.core b.ctx key with
    | none => giveStatus s access [(0, 2)]
    | some k =>
      if core.toNat = b.core then giveStatus s access [(0, 0)]
      else
        let h : Handoff :=
          { gang := a.gang, access := access, ctx := b.ctx, src := b.core, srcIx := k, dst := core.toNat, dstIx := none,
            departed := false, installed := false, freed := false, attached := [], behind := []
            prev := (s.handoffs.find? fun x => x.2.dst == b.core && x.2.dstIx == some k && x.2.installed).map (·.1) }
        let id := s.nextId
        { s with handoffs := tabPut s.handoffs id h, nextId := id + 1,
                 dirs := tabUpd s.dirs (256 * b.core + k) fun e => { e with st := .leaving id } }

/-- A directory instruction is performed on its core; `bs` is DIRADD's record (R301, R309). -/
def performDir (s : State) (access : Nat) (a : Access) (op : DirOp) (bs : List Byte) : State :=
  match anyBlock s (a.gang / 32) with
  | none => s
  | some b => match op with
    | .add key => addDir s access b key bs
    | .del key => delDir s access b key
    | .mov key core => moveDir s access a b key core

/-- Change a handoff. -/
def updHandoff (s : State) (h : Nat) (f : Handoff → Handoff) : State := { s with handoffs := tabUpd s.handoffs h f }

/-- Scope of a census (R310). -/
def censusScope (c : Census) : Nat := wbits c.ctrl 1 0

/-- A core lies in the scope of a census (R17, R310). -/
def inScope (c : Census) (core : Nat) : Bool :=
  match censusScope c with
  | 0 => core / 24 == c.core / 24
  | 1 => core / 72 == c.core / 72
  | _ => decide (core < 288)

/-- Cores in the scope of a census. -/
def scopeCores (c : Census) : List Nat := (List.range 288).filter (inScope c)

/-- A core lies below the departure node of a handoff: in the sector or the die of both cores, or anywhere (R307, R312). -/
def belowNode (h : Handoff) (core : Nat) : Bool :=
  if h.src / 24 = h.dst / 24 then core / 24 == h.dst / 24
  else if h.src / 72 = h.dst / 72 then core / 72 == h.dst / 72
  else decide (core < 288)

/-- The broadcast of an open census is known to have passed the node where it meets the install of a handoff, the departure node or,
where that lies above the census's scope, the scope's root node: it has reached a core below it (R307, R314). -/
def hasPassed (c : Census) (h : Handoff) : Bool :=
  (List.range 288).any fun k => inScope c k && belowNode h k && !c.toReach.contains k

/-- Censuses of a handoff's context whose broadcast goes to its destination, over the links that the install takes (R307). -/
def nodeCensuses (s : State) (h : Handoff) : List (Nat × Census) :=
  s.censuses.filter fun c => !c.2.complete && c.2.ctx == h.ctx && inScope c.2 h.dst

/-- The last broadcast that has passed the departure node when the entry departs, in the order of the censuses: at least the last one
known to have passed, and else one that no rule states (R307, R314; log 1). -/
def passedUpTo (s : State) (h : Handoff) : Nat :=
  let cs := nodeCensuses s h
  let known := ((cs.filter fun c => hasPassed c.2 h).map fun c => c.2.order + 1).foldl max 0
  let later := (cs.map fun c => c.2.order + 1).filter fun o => decide (known < o)
  match Config.pick s.tick % (later.length + 1) with
  | 0 => known
  | j + 1 => later.getD j known

/-- Level of the departure node of a handoff: the sector, the die, or the root (R307). -/
def nodeLevel (h : Handoff) : Nat := if h.src / 24 = h.dst / 24 then 0 else if h.src / 72 = h.dst / 72 then 1 else 2

/-- What departed before some moment and is still on its way down to a core, the departure to its source or the install to its
destination, over a node that what comes later to that core passes too: links deliver in order (R307). -/
def linkAhead (s : State) (core before : Nat) (passes : Handoff → Bool) : Bool :=
  s.handoffs.any fun x => x.2.departed && decide (x.2.left < before) && passes x.2 &&
    ((x.2.src == core && !x.2.freed) || (x.2.dst == core && !x.2.installed))

/-- A DIRMOV's ask for an entry comes to its destination behind what passed the nodes on its way before it was asked (R307). -/
def askBehind (s : State) (handoff : Nat) (h : Handoff) : Bool :=
  linkAhead s h.dst handoff fun x => match nodeLevel x with
    | 0 => true
    | 1 => h.src / 24 != h.dst / 24
    | _ => h.src / 72 != h.dst / 72

/-- A departure or an install comes down to a core behind what departed before it at a node on its way (R307). -/
def downBehind (s : State) (h : Handoff) (core : Nat) : Bool :=
  linkAhead s core h.left fun x => decide (nodeLevel x ≤ nodeLevel h)

/-- The handoff that brought an entry to where it is has still to free the entry that it came from: the entry departs anew only behind
that (R307, R314; DEDUCED, log 21). -/
def prevOpen (s : State) (h : Handoff) : Bool :=
  match h.prev.bind (tabFind s.handoffs) with
  | some x => !x.freed
  | none => false

/-- DIR_DEPARTURE: the destination reserves an entry, and then ownership passes to it (R307). -/
def execDirDeparture (handoff : Nat) (s : State) : Answer :=
  match tabFind s.handoffs handoff with
  | none => .next s
  | some h =>
    match tabFind s.dirs (256 * h.src + h.srcIx) with
    | none => .next s
    | some e =>
      match h.dstIx with
      | none => match if askBehind s handoff h then none else freeDirEntry s h.dst with
        | none => .next s
        | some k =>
          .next (updHandoff (putDir s h.dst k { e with st := .arriving handoff }) handoff fun h => { h with dstIx := some k })
      | some _ =>
        if h.departed || prevOpen s h then .next s
        else
          let behind := ((nodeCensuses s h).filter fun c => decide (c.2.order < passedUpTo s h)).map (·.1)
          .next { updHandoff s handoff (fun h => { h with departed := true, behind := behind, left := s.nextId }) with
            tick := s.tick + 1, nextId := s.nextId + 1 }

/-- A solicit queue of a core, with the matches it holds back (R313). -/
def solicitQueue (s : State) (core : Nat) : List Match := tabGet s.solicits core []

/-- A context's blocks are not on the cores: its matches wait in the root's deferred store (R320). -/
def ctxAway (s : State) (ctx : Nat) : Bool :=
  match tabFind s.ctxs ctx with
  | some c => c.st == .saved || c.st == .restoring
  | none => false

/-- A match enters the solicit queue of a core, or the deferred store of its saved context (R313, R320). -/
def queueMatch (s : State) (core : Nat) (m : Match) : State :=
  if ctxAway s m.ctx then { s with deferred := s.deferred ++ [(core, m)] }
  else { s with solicits := tabPut s.solicits core (solicitQueue s core ++ [m]) }

/-- A handoff whose parts are all done is forgotten. -/
def endHandoff (s : State) (handoff : Nat) : State :=
  match tabFind s.handoffs handoff with
  | some h => if h.installed && h.freed then { s with handoffs := tabDel s.handoffs handoff } else s
  | none => s

/-- Censuses whose broadcast must still reach a core before a departure that it passed ahead of (R307). -/
def reachFirst (s : State) (h : Handoff) (core : Nat) : Bool :=
  h.behind.any fun c => match tabFind s.censuses c with
    | some c => c.toReach.contains core
    | none => false

/-- DIR_INSTALL: the destination entry becomes HOME, its waiting matches queue, and DIRMOV's status is written (R307, R312). -/
def execDirInstall (handoff : Nat) (s : State) : Answer :=
  match tabFind s.handoffs handoff with
  | none => .next s
  | some h =>
    match h.dstIx with
    | none => .next s
    | some k =>
      if h.departed && !h.installed && !reachFirst s h h.dst && !downBehind s h h.dst then
        let s := { s with dirs := tabUpd s.dirs (256 * h.dst + k) fun e => { e with st := .home } }
        let s := updHandoff (giveStatus s h.access [(0, 0)]) handoff fun h => { h with told := some s.nextId }
        let s := h.attached.foldl (fun s m => queueMatch s h.dst m) s
        .next (endHandoff (updHandoff s handoff fun h => { h with installed := true, attached := [] }) handoff)
      else .next s

/-- DEPARTURE_AT_SOURCE: the source frees its entry (R307). -/
def execDepartureAtSource (handoff : Nat) (s : State) : Answer :=
  match tabFind s.handoffs handoff with
  | none => .next s
  | some h =>
    if h.departed && !h.freed && !reachFirst s h h.src && !downBehind s h h.src then
      .next (endHandoff (updHandoff (dropDir s h.src h.srcIx) handoff fun h => { h with freed := true }) handoff)
    else .next s

/-- HANDOFF_FAILURE: no free entry at the destination; the source entry is HOME again and answers attached solicits (R307,
R314). -/
def execHandoffFailure (handoff : Nat) (s : State) : Answer :=
  match tabFind s.handoffs handoff with
  | none => .next s
  | some h =>
    if h.dstIx.isNone && !askBehind s handoff h && (freeDirEntry s h.dst).isNone then
      let s := { s with dirs := tabUpd s.dirs (256 * h.src + h.srcIx) fun e => { e with st := .home } }
      let s := h.attached.foldl (fun s m => queueMatch s h.src m) (giveStatus s h.access [(0, 1)])
      .next { s with handoffs := tabDel s.handoffs handoff }
    else .next s

/-- Operation code of a field in CTRL (R310). -/
def fieldOp (ctrl : W64) (k : Nat) : Nat := wbits ctrl (10 + 4 * k) (8 + 4 * k)

/-- Number of fields minus one (R310). -/
def fieldTop (ctrl : W64) : Nat := wbits ctrl 3 2

/-- A solicit descriptor keeps R310: its CTRL and its result address. -/
def solicitOk (ctrl result : W64) : Bool :=
  wbits ctrl 1 0 != 3 && wbits ctrl 7 4 == 0 && !ctrl.getLsbD 11 && !ctrl.getLsbD 15 && !ctrl.getLsbD 19 &&
  !ctrl.getLsbD 23 && wbits ctrl 63 25 == 0 &&
  ((List.range 4).all fun k => if k ≤ fieldTop ctrl then decide (fieldOp ctrl k ≤ 5) else fieldOp ctrl k == 0) &&
  result.toNat % 16 == 0

/-- A field's value when no response has come (R316). -/
def fieldStart (op : Nat) : W32 := if op = 1 then 0x7FFFFFFF else if op = 2 then 0x80000000 else 0

/-- SOLICIT: the descriptor's checks, then the ask on its way to the root (R310, R311). -/
def execSolicit (sd sa sb : BitVec 6) (s : State) : Answer :=
  onIssue s fun i =>
    let o := solicitOff (rs i sb)
    let d := padBytes i.b o 32
    let w (k : Nat) : W64 := BitVec.ofNat 64 (leAt d (8 * k) 8)
    if i.b.responder.isSome then .next (takeTrap s i causeRespsol 9 0 (trapWords i.cur.words))
    else if !solicitOk (w 0) (w 2) then trapIllegal s i 9
    else
      let r := withPadr s i i.g (!padInside i.b o 32)
      let access := r.1.nextId
      let c : Census :=
        { gang := i.cur.gang, block := i.g.block, core := i.b.core, launch := i.b.launch, ctx := i.b.ctx, world := i.b.world,
          key := rs i sa, ctrl := w 0, query := w 1, result := w 2, timeout := w 3, issued := s.cycle, order := 0,
          lateSent := false, toReach := [], reported := [], counted := 0, responded := 0, pending := [],
          fields := (List.range 4).map fun k => if k ≤ fieldTop (w 0) then fieldStart (fieldOp (w 0) k) else 0,
          any := false, combined := 0, complete := false, consumed := false, orphan := false }
      let a := { awaitedAccess i sd [] with sets := setsNone, solicit := true }
      let s := putAccess r.1 a
      finish { s with asks := s.asks ++ [{ gang := i.cur.gang, access := access, census := c }] } i
        (pendOn r.2 (.scalar sd.toNat) access) 4

/-- Reads and writes of a gang before an access are performed at dev scope: a release is done (R207, R226). -/
def releaseDone (s : State) (key bound : Nat) : Bool :=
  (s.accs.all fun e => !decide (e.1 < bound) || !e.2.before.contains key || !(e.2.sets.r || e.2.sets.w) ||
    accPerformed s 3 e.1 e.2) &&
  passedDone s 3 bound fun l => l.contains key

/-- Next free census id from a number on, wrapping from 65,535 to 1 (R311). -/
def freeCensus (s : State) : Option Nat :=
  ((List.range 1025).map fun k => (s.nextCensus + k - 1) % 65535 + 1).find? fun id => (tabFind s.censuses id).isNone

/-- The first ask whose release is done. Of several, the one issued first comes to the root first, of which the spec says nothing (R311;
DESIGN CHOICE, log 21). -/
def readyAsk (s : State) : Option Ask := s.asks.find? fun a => releaseDone s a.gang a.access

/-- SOLICIT_AT_ROOT: an id while fewer than 1,024 censuses are open, and the broadcast begins (R311, R312). -/
def execSolicitAtRoot (s : State) : Answer :=
  match readyAsk s, freeCensus s with
  | some a, some id =>
    if s.censuses.length < 1024 then
      let c := { a.census with toReach := scopeCores a.census, order := s.nextId }
      .next (giveStatus { s with
        asks := s.asks.erase a
        nextId := s.nextId + 1
        nextCensus := id % 65535 + 1
        censuses := tabPut s.censuses id c } a.access [(0, BitVec.ofNat 64 id)])
    else .next s
  | _, _ => .next s

/-- Handoffs from a core that carry 16 attached solicits and have neither departed nor failed (R312). -/
def handoffFull (s : State) (core : Nat) : Bool :=
  s.handoffs.any fun h => h.2.src == core && !h.2.departed && decide (16 ≤ h.2.attached.length)

/-- A departure that a census finds has not yet reached its source: one ahead of its broadcast at the departure node, or one whose DIRMOV
has its status already, where the census has its place from later (R301, R307). -/
def departureAhead (s : State) (id : Nat) (c : Census) (core : Nat) : Bool :=
  s.handoffs.any fun h => h.2.src == core && h.2.departed && !h.2.freed && h.2.ctx == c.ctx &&
    ((inScope c h.2.dst && !h.2.behind.contains id) || (match h.2.told with
      | some o => decide (o ≤ c.order)
      | none => false))

/-- The broadcast of a census can reach a core now: in arrival order, with the core able to take it (R312, R313). -/
def canReport (s : State) (id core : Nat) : Bool :=
  match tabFind s.censuses id with
  | none => false
  | some c =>
    c.toReach.contains core && decide ((solicitQueue s core).length ≤ 16) && !handoffFull s core &&
    !departureAhead s id c core &&
    s.censuses.all fun e => decide (c.order ≤ e.2.order) || !e.2.toReach.contains core

/-- What one directory entry means for a report: counted, and where its match goes (R312, R314). -/
def reportEntry (id core : Nat) (c : Census) (s : State) (e : Nat × DirEntry) : State :=
  if e.2.key ≠ c.key ∨ e.2.ctx ≠ c.ctx then s
  else
    let m : Match := { census := id, ctx := c.ctx, key := e.2.key, handle := e.2.handle, entry := e.2.entry, query := c.query,
                       counted := core, deferred := false }
    let count (s : State) : State := { s with censuses := tabUpd s.censuses id fun c => { c with counted := c.counted + 1 } }
    match e.2.st with
    | .home => count (queueMatch s core m)
    | .leaving h =>
      let m := { m with deferred := true }
      match tabFind s.handoffs h with
      | some x =>
        if x.installed then count (queueMatch s x.dst m)
        else count (updHandoff s h fun x => { x with attached := x.attached ++ [m] })
      | none => s
    | .arriving h =>
      match tabFind s.handoffs h with
      | some x =>
        if x.departed && !x.behind.contains id then count (updHandoff s h fun x => { x with attached := x.attached ++ [m] })
        else s
      | none => s

/-- CORE_REPORT: the broadcast reaches a core, which looks up its directory and reports (R312). -/
def execCoreReport (census core : Nat) (s : State) : Answer :=
  match tabFind s.censuses census with
  | none => .next s
  | some c =>
    if canReport s census core then
      let s := (coreDir s core).foldl (reportEntry census core c) s
      .next { s with censuses := tabUpd s.censuses census fun c =>
        { c with toReach := c.toReach.erase core, reported := c.reported ++ [core] } }
    else .next s

/-- Registers of a responder (R306). -/
def responderNeed (m : Match) : Need := { gangs := 1, regs := 32 * (wbits m.entry 63 60 + 1), pad := 0, acc := 0, copyq := 0 }

/-- Address of a responder's first instruction (R306). -/
def responderPc (m : Match) : W64 := BitVec.ofNat 64 (wbits m.entry 55 2 * 4)

/-- RESPOND (R315). -/
def execRespond (sa sb : BitVec 6) (s : State) : Answer :=
  onIssue s fun i =>
    match i.b.responder with
    | none => trapIllegal s i 9
    | some r =>
      if r.responded then trapIllegal s i 9
      else
        let lo (x : W64) : W32 := x.setWidth 32
        let hi (x : W64) : W32 := (x >>> 32).setWidth 32
        finish (sendResponse s i.g.block [lo (rs i sa), hi (rs i sa), lo (rs i sb), hi (rs i sb)] false) i i.g 4

/-- Two values of a field combined: the running one, and a response's (R316). -/
def combineField (op : Nat) (any : Bool) (u v : W32) : W32 :=
  match op with
  | 0 => u + v
  | 1 => if v.slt u then v else u
  | 2 => if u.slt v then v else u
  | 3 => u ||| v
  | 4 => if v = 0 then u else u + 1
  | _ => if any then u else v

/-- A response is combined into a census's partial result (R316). -/
def combineInto (c : Census) (r : Response) : Census :=
  if r.empty then { c with combined := c.combined + 1 }
  else { c with
    combined := c.combined + 1
    any := true
    fields := (List.range 4).map fun k =>
      if k ≤ fieldTop c.ctrl then combineField (fieldOp c.ctrl k) c.any (c.fields.getD k 0) (r.fields.getD k 0) else 0 }

/-- RESPONSE_COMBINE: a response whose release is done is combined (R315, R316). -/
def execResponseCombine (census index : Nat) (s : State) : Answer :=
  match tabFind s.censuses census with
  | none => .next s
  | some c =>
    match c.pending[index]? with
    | none => .next s
    | some r =>
      if releaseDone s r.gang r.bound then
        .next { s with censuses := tabPut s.censuses census { combineInto c r with pending := c.pending.eraseIdx index } }
      else .next s

/-- Every core has reported and every counted response is combined (R317). -/
def censusReady (c : Census) : Bool := !c.complete && c.toReach.isEmpty && c.combined == c.counted

/-- The request that a unit of the hub awaits, if there is one. -/
def unitReq (s : State) (unit : Nat × Nat) : Option (Nat × Req) :=
  (s.reqs.find? fun e => e.2.unit == some unit).map fun e => (e.1, e.2)

/-- A census's result has been written: it is complete, and its id is free if its block has retired (R317, R318). -/
def closeCensus (s : State) (id : Nat) (c : Census) : State :=
  if c.orphan then { s with censuses := tabDel s.censuses id }
  else { s with censuses := tabPut s.censuses id { c with complete := true } }

/-- CENSUS_COMPLETE: the root writes the 16-byte result, and once that is performed the census is complete (R317). -/
def execCensusComplete (census : Nat) (s : State) : Answer :=
  match tabFind s.censuses census with
  | none => .next s
  | some c =>
    if !censusReady c then .next s
    else match unitReq s (0, census) with
      | none => .next (hubReq s c.ctx (some (0, census)) .write .rlx 3 c.result 16 (c.fields.flatMap fun w => leBytes 4 w.toNat))
      | some (id, r) => if r.stage = .done then .next (closeCensus (dropReq s id) census c) else .next s

/-- A census is late: its timeout has passed and it is not complete (R319). -/
def censusLate (s : State) (c : Census) : Bool :=
  !c.lateSent && c.timeout != 0 && !c.complete && decide (c.issued + c.timeout.toNat ≤ s.cycle)

/-- CENSUS_TIMEOUT: one CENSUSLATE event under TPOL, and the census goes on (R319). -/
def execCensusTimeout (census : Nat) (s : State) : Answer :=
  match tabFind s.censuses census with
  | none => .next s
  | some c =>
    if censusLate s c then
      let s := { s with censuses := tabPut s.censuses census { c with lateSent := true } }
      .next (if c.ctrl.getLsbD 24 then
        raiseEvent s (sourceId 9 0) 0x0040 (contextRing s c.ctx)
          (leBytes 2 census ++ leBytes 2 c.core ++ leBytes 4 c.launch ++ leBytes 2 c.reported.length ++
           leBytes 2 (scopeCores c).length ++ leBytes 4 c.counted ++ leBytes 4 c.responded) (ctxWorld s c.ctx)
      else s)
    else .next s

/-- A census asked by a block and not yet consumed (R318). -/
def blockCensus (s : State) (uid : Nat) (x : W64) : Option (Nat × Census) :=
  if x.toNat < 2 ^ 16 then
    match tabFind s.censuses x.toNat with
    | some c => if c.block == uid then some (x.toNat, c) else none
    | none => none
  else none

/-- A CWAIT returns: the count goes to sd, the id is freed, and the gang acquires (R226, R318). -/
def consumeCensus (s : State) (b : Block) (id : Nat) : State :=
  discardL1 { s with censuses := tabDel s.censuses id } b.core b.world

/-- CWAIT (R318). -/
def execCwait (sd sa : BitVec 6) (s : State) : Answer :=
  onIssue s fun i =>
    match blockCensus s i.g.block (rs i sa) with
    | none => finishSwitch s i (setSreg i.g sd (BitVec.allOnes 64)) 4
    | some (id, c) =>
      if c.complete then
        finishSwitch (consumeCensus s i.b id) i (setSreg i.g sd (BitVec.ofNat 64 c.counted)) 4
      else .next (putGang s i.cur.gang (waitHere i (.cwait sd id c.order)))

/-- The censuses of a block that retires: complete ones are freed, others at their completion (R318). -/
def orphanCensuses (s : State) (uid : Nat) : State :=
  { s with
    asks := s.asks.map fun a => if a.census.block == uid then { a with census := { a.census with orphan := true } } else a
    censuses := tabMap (tabKeep s.censuses fun c => !(c.block == uid && c.complete)) fun c =>
      if c.block == uid then { c with orphan := true } else c }

end Sys2Proof.Machine
end

