-- ==== Sys2Proof/Machine/Context.lean ====
section
/-! DEFINITION. Contexts: descriptors and their STATE, bindings to worlds, and memory of a context as units of the hub reach it
(R229, R367). -/

namespace Sys2Proof.Machine

/-- Physical address of a context's descriptor (R229). -/
def ctxAddr (s : State) (ctx : Nat) : Nat := regField s .ctxbase 55 7 * 128 + 128 * ctx

/-- Code of STATE (R229). -/
def ctxCode (st : CtxState) : Nat :=
  match st with
  | .idle => 0 | .resident => 1 | .saving => 2 | .saved => 3 | .restoring => 4 | .cancelled => 5

/-- STATE of a code (R229). -/
def ctxOfCode (n : Nat) : CtxState :=
  match n with
  | 0 => .idle | 1 => .resident | 2 => .saving | 3 => .saved | 4 => .restoring | _ => .cancelled

/-- Every byte of a field is zero. -/
def zeroAt (bs : List Byte) (o n : Nat) : Bool := leAt bs o n == 0

/-- A context from its descriptor's bytes, unless they are malformed (R229). -/
def parseCtx (d : List Byte) : Option Ctx :=
  let world := leAt d 10 2
  let ok := leAt d 0 8 % 8192 == 0 && zeroAt d 12 4 && leAt d 16 8 % 4 == 0 && (world != 0 || decide (leAt d 24 1 ≤ 100)) &&
    decide (leAt d 25 1 < 32) && zeroAt d 26 6 && leAt d 32 8 % 65536 == 0 && leAt d 48 8 % 128 == 0 && leAt d 56 8 % 128 == 0 &&
    decide (leAt d 64 4 ≤ 5) && zeroAt d 68 60
  if ok then
    some { root := leAt d 0 8, asid := BitVec.ofNat 16 (leAt d 8 2), world := BitVec.ofNat 16 world,
           trapv := BitVec.ofNat 64 (leAt d 16 8), parkth := leAt d 24 1, evr := leAt d 25 1,
           save := BitVec.ofNat 64 (leAt d 32 8), saveSz := leAt d 40 8, poolBase := BitVec.ofNat 64 (leAt d 48 8),
           poolSize := leAt d 56 8, st := ctxOfCode (leAt d 64 4), past := false, needsReplay := false, saved := [] }
  else none

/-- The unit number of the read of a context's descriptor. -/
def ctxUnit (ctx : Nat) : Nat × Nat := (7, ctx)

/-- A context's descriptor as memory holds it (R229). -/
def loadCtx (s : State) (ctx : Nat) : Option Ctx := parseCtx (physReadOf s (ctxUnit ctx) (ctxAddr s ctx) 128)

/-- A world is there and active: not PENDING, not moved away, not lost (R370, R381, R382). -/
def worldActive (s : State) (w : BitVec 16) : Bool :=
  match tabFind s.island.worlds w.toNat with
  | some x => x.st == .active
  | none => false

/-- The island's table binds a context of a confidential world to that world and root, in a frame of it (R367). -/
def ctxBound (s : State) (ctx : Nat) (c : Ctx) : Bool :=
  c.world == 0 || ((match tabFind s.island.binds ctx with
    | some b => b.world == c.world && b.root == BitVec.ofNat 64 c.root
    | none => false) && worldActive s c.world && frameOwner s c.root == c.world)

/-- The device is using a context: its descriptor does not change meanwhile (R229). -/
def ctxActive (c : Ctx) : Bool :=
  match c.st with
  | .resident | .saving | .saved | .restoring => true
  | .idle | .cancelled => false

/-- The device is using a context. -/
def ctxInUse (s : State) (ctx : Nat) : Bool :=
  match tabFind s.ctxs ctx with
  | some c => ctxActive c
  | none => false

/-- A context's descriptor is still to be read: a line of it is held at its home or not answered, or a STATE is still to be written
there (R220, R229, R359). -/
def ctxHeld (s : State) (ctx : Nat) : Bool :=
  !ctxInUse s ctx && (!physGot s (ctxUnit ctx) (ctxAddr s ctx) 128 || posted s (ctxAddr s ctx + 64))

/-- Take up a context for placement: read its descriptor, or ask for it, unless the device is using it already. What another device
answered stands until the context is resident, refused or cancelled (R229; log 10). -/
def refreshCtx (s : State) (ctx : Nat) : State :=
  if ctxInUse s ctx then s
  else if ctxHeld s ctx then physAsk s (ctxUnit ctx) 0 (ctxAddr s ctx) 128
  else match loadCtx s ctx with
    | some d => { s with ctxs := tabPut s.ctxs ctx d }
    | none => { s with ctxs := tabDel s.ctxs ctx }

/-- What a read of a context's descriptor brought is taken. -/
def ctxRead (s : State) (ctx : Nat) : State := physEnd s (ctxUnit ctx)

/-- A context can be placed: well formed, not cancelled, and bound where its world asks for it (R229, R367). -/
def ctxUsable (s : State) (ctx : Nat) : Bool :=
  match tabFind s.ctxs ctx with
  | some c => c.st != .cancelled && ctxBound s ctx c
  | none => false

/-- The device writes STATE (R229). -/
def setCtxState (s : State) (ctx : Nat) (st : CtxState) : State :=
  let s := { s with ctxs := tabUpd s.ctxs ctx fun c => { c with st := st } }
  physPost s (ctxAddr s ctx + 64) (leBytes 4 (ctxCode st))

/-- A block of a context is placed: STATE is resident (R229). -/
def noteResident (s : State) (ctx : Nat) : State :=
  match tabFind s.ctxs ctx with
  | some c => if c.st == .idle then setCtxState (ctxRead s ctx) ctx .resident else s
  | none => s

/-- Some work of a context is outstanding: a block placed or saved, a request, completion, copy or census (R229). -/
def ctxBusy (s : State) (ctx : Nat) : Bool :=
  (s.blocks.any fun e => e.2.ctx == ctx) || (s.savedBlocks.any fun e => e.2.ctx == ctx) ||
  (s.reqs.any fun e => e.2.ctx == ctx && !isAnswer e.2) || (s.censuses.any fun e => e.2.ctx == ctx) ||
  (s.accs.any fun e => e.2.ctx == ctx) ||
  (s.cmds.any fun e => match cmdOwner s e.2 with
    | some o => o.ctx == ctx
    | none => false) ||
  (s.asks.any fun a => a.census.ctx == ctx) || (s.handoffs.any fun e => e.2.ctx == ctx) ||
  (s.deferred.any fun e => e.2.ctx == ctx) || (s.solicits.any fun e => e.2.any fun m => m.ctx == ctx)

/-- Contexts with nothing outstanding become idle (R229). -/
def idleContexts (s : State) : State :=
  s.ctxs.foldl (fun s e => if e.2.st == .resident && !ctxBusy s e.1 then setCtxState s e.1 .idle else s) s

/-- RESPONDER_START: the head of a core's solicit queue starts as a block of one gang (R302, R313); its start is an acquire
(R226). A match that stands in the queue when its context is saved stays there until the restore, and those behind it wait; the spec
speaks only of matches of a saved context (R320; DESIGN CHOICE, log 21). -/
def execResponderStart (core : Nat) (s : State) : Answer :=
  match solicitQueue s core with
  | [] => .next s
  | m :: r =>
    match tabFind s.censuses m.census, tabFind s.ctxs m.ctx, fitCore s core (responderNeed m) with
    | some c, some k, some (index, places) =>
      if ctxAway s m.ctx || k.st == .saving || k.st == .cancelled || !ctxBound s m.ctx k then .next s else
      let uid := s.nextId
      let b := { newBlock core index c.launch m.ctx k.world k.asid (responderNeed m) with
        team := uid
        responder := some { census := m.census, counted := m.counted, deferred := m.deferred, responded := false } }
      let s := { s with
        nextId := uid + 1
        solicits := if r.isEmpty then tabDel s.solicits core else tabPut s.solicits core r
        blocks := tabPut s.blocks uid b }
      .next (discardL1 (putGangs (noteResident s m.ctx) uid 32 (responderPc m)
        [(1, m.key), (2, m.handle), (3, BitVec.ofNat 64 m.census), (4, m.query)] places) core k.world)
    | _, _, _ => .next s

end Sys2Proof.Machine
end

