-- ==== Sys2Proof/Machine/Launch.lean ====
section
/-! DEFINITION. The dispatcher: launch records, placement, yield requests, and the retirement of blocks and launches (R13, R20,
R38, R40, R323 to R332). -/

namespace Sys2Proof.Machine

/-- A kernel descriptor (R323). -/
structure Kernel where
  entry : W64
  team  : Bool
  need  : Need

/-- A kernel descriptor's bytes, unless they break R323 or R19. -/
def parseKernel (d : List Byte) : Option Kernel :=
  let regs := leAt d 8 2
  let gangs := leAt d 10 1
  let ok := leAt d 0 8 % 4 == 0 && regs % 32 == 0 && decide (32 ≤ regs) && decide (regs ≤ 512) && decide (1 ≤ gangs) &&
    decide (gangs ≤ 32) && decide (leAt d 11 1 < 2) && zeroAt d 18 14
  if ok then
    some { entry := BitVec.ofNat 64 (leAt d 0 8), team := leAt d 11 1 == 1,
           need := { gangs := gangs, regs := regs, pad := padRound (leAt d 12 4), acc := leAt d 16 1, copyq := leAt d 17 1 } }
  else none

/-- The fields of a launch record that both kinds keep (R324). -/
def recordFieldsOk (r : List Byte) : Bool :=
  let flags := leAt r 37 1
  decide (leAt r 31 1 ≤ 1) && decide (leAt r 36 1 < 16) && decide (flags < 2) && zeroAt r 38 2 && zeroAt r 56 8 &&
  (flags == 0 || leAt r 40 8 % 8 == 0) && leAt r 48 8 % 8 == 0 &&
  (leAt r 31 1 == 0 || (zeroAt r 8 23 && zeroAt r 32 4))

/-- The block shape of a record; 0, 0, 0 is the default (R13). -/
def recordShape (r : List Byte) (gangs : Nat) : Nat × Nat × Nat :=
  let x := leAt r 24 2
  let y := leAt r 26 2
  let z := leAt r 28 2
  if x = 0 ∧ y = 0 ∧ z = 0 then (32 * gangs, 1, 1) else (x, y, z)

/-- Extents, shape and team size keep R13 and R38. -/
def recordExtentsOk (r : List Byte) (k : Kernel) : Bool :=
  let x := leAt r 16 4
  let y := leAt r 20 2
  let z := leAt r 22 2
  let sh := recordShape r k.need.gangs
  let lanes := sh.1 * sh.2.1 * sh.2.2
  let t := leAt r 30 1
  decide (1 ≤ x) && decide (x < 2 ^ 31) && decide (1 ≤ y) && decide (1 ≤ z) && decide (1 ≤ lanes) && decide (lanes ≤ 1024) &&
  decide (32 * (k.need.gangs - 1) < lanes) && decide (lanes ≤ 32 * k.need.gangs) &&
  (if k.team then decide (1 ≤ t) && decide (t ≤ 4) else decide (t ≤ 1))

/-- Reason of a refusal (R396), or none; `k` is the kernel descriptor. -/
def refusal (r : List Byte) (k : Option Kernel) : Option Nat :=
  if !recordFieldsOk r || !(leAt r 32 4 % 4 == 0 && decide (leAt r 32 4 ≤ 65536)) then some 1
  else match k with
    | none => some 1
    | some k => if !recordExtentsOk r k then some 2 else if !fitsEmpty k.need then some 3 else none

/-- An address used when a flag says so. -/
def addrWhen (b : Bool) (x : Nat) : Option W64 := if b then some (BitVec.ofNat 64 x) else none

/-- A launch of a record (R324). -/
def launchOf (r : List Byte) (k : Kernel) (queue slot ctx prio : Nat) : Launch :=
  let sh := recordShape r k.need.gangs
  { queue := queue, slotSeq := slot, ctx := ctx, entry := k.entry, args := BitVec.ofNat 64 (leAt r 8 8), x := leAt r 16 4,
    y := leAt r 20 2, z := leAt r 22 2, sx := sh.1, sy := sh.2.1, sz := sh.2.2, size := max 1 (leAt r 30 1), team := k.team,
    regs := k.need.regs, gangs := k.need.gangs, pad := k.need.pad, acc := k.need.acc, copyq := k.need.copyq,
    zpriv := leAt r 32 4, dies := if leAt r 36 1 = 0 then 15 else leAt r 36 1,
    done := addrWhen (leAt r 37 1 == 1) (leAt r 40 8), yieldw := addrWhen (leAt r 48 8 != 0) (leAt r 48 8), prio := prio,
    placed := 0, retired := 0, uids := [], node := none, regions := [], graph := false }

/-- Launch queue: context, priority, and ring when the queue is enabled (R326, R329). -/
def queueCtx (s : State) (q : Nat) : Nat := regField s (.lqctl q) 31 16
def queuePrio (s : State) (q : Nat) : Nat := regField s (.lqctl q) 3 1
def queueRingOf (s : State) (q : Nat) : Option (Nat × Nat) :=
  if regField s (.lqctl q) 0 0 = 1 then ringOf s (.lqbase q) 2 16 else none
def queueTail (s : State) (q : Nat) : Nat := regField s (.lqptr q) 31 0
def queueHead (s : State) (q : Nat) : Nat := regField s (.lqptr q) 63 32

/-- The dispatcher advances HEAD past a record (R326). -/
def advanceHead (s : State) (q : Nat) : State := setField s (.lqptr q) 63 32 ((queueHead s q + 1) % 2 ^ 32)

/-- Launches of a queue's records, not of graph nodes. -/
def queueLaunches (s : State) (q : Nat) : List (Nat × Launch) :=
  s.disp.launches.filter fun e => e.2.queue == q && e.2.node.isNone

/-- The queue's head record waits to be taken: it is enabled, not empty, its head is not taken yet, and its mode lets the head
start (R327, R328). -/
def headWaits (s : State) (q : Nat) : Bool :=
  (queueRingOf s q).isSome && queueTail s q != queueHead s q &&
  !(queueLaunches s q).any (fun e => e.2.slotSeq == queueHead s q) &&
  (regField s (.lqctl q) 5 5 == 0 || (queueLaunches s q).isEmpty)

/-- A new launch number: 32 bits, never 0 (R325). -/
def takeNumber (s : State) : Nat × State :=
  let n := s.disp.nextLaunch
  (n.toNat, { s with disp := { s.disp with nextLaunch := if n + 1 = 0 then 1 else n + 1 } })

/-- A record is refused: LAUNCHREF on the queue's ring, and HEAD passes it (R13, R324, R396). -/
def refuseRecord (s : State) (q reason : Nat) : State :=
  advanceHead (raiseEvent s (sourceId 1 0) 0x0001 (queueRing s q)
    (leBytes 4 q ++ leBytes 4 (queueHead s q) ++ leBytes 1 reason)) q

/-- Ring address of a queue's head record. -/
def headVa (s : State) (q : Nat) : W64 :=
  match queueRingOf s q with
  | some (base, size) => BitVec.ofNat 64 (base + queueHead s q % size * 64)
  | none => 0

/-- A graph from its header's bytes (R333). -/
def parseGraph (header : W64) (done : Option W64) (h : List Byte) : Graph :=
  { header := header, nodes := BitVec.ofNat 64 (leAt h 0 8), nn := leAt h 8 4, ne := leAt h 12 4,
    edges := BitVec.ofNat 64 (leAt h 16 8), work := BitVec.ofNat 64 (leAt h 24 8), done := done, started := false, node := [],
    seen := [], taken := [], regions := [], looping := [], held := false }

/-- A graph header keeps R333. -/
def headerOk (h : List Byte) : Bool :=
  leAt h 0 8 % 64 == 0 && decide (1 ≤ leAt h 8 4) && decide (leAt h 8 4 ≤ 65535) && decide (leAt h 12 4 ≤ 1048575) &&
  leAt h 16 8 % 32 == 0 && leAt h 32 8 % 8 == 0 && zeroAt h 40 24

/-- A launch that stands for a GRAPH record. -/
def graphLaunch (r : List Byte) (queue slot ctx prio : Nat) : Launch :=
  { queue := queue, slotSeq := slot, ctx := ctx, entry := 0, args := 0, x := 0, y := 0, z := 0, sx := 0, sy := 0, sz := 0, size := 1,
    team := false, regs := 0, gangs := 0, pad := 0, acc := 0, copyq := 0, zpriv := 0, dies := 15,
    done := addrWhen (leAt r 37 1 == 1) (leAt r 40 8), yieldw := addrWhen (leAt r 48 8 != 0) (leAt r 48 8), prio := prio,
    placed := 0, retired := 0, uids := [], node := none, regions := [], graph := true }

/-- Two contexts have one address space: their world and ASID are the same (R165). -/
def sameSpace (s : State) (a b : Nat) : Bool :=
  a == b || (match tabFind s.ctxs a, tabFind s.ctxs b with
    | some x, some y => x.world == y.world && x.asid == y.asid
    | _, _ => false)

/-- Another instance of a graph header runs in an address space (R165, R334). -/
def headerRuns (s : State) (ctx : Nat) (header : W64) : Bool :=
  s.disp.graphs.any fun e => e.2.started && e.2.header == header && (match tabFind s.disp.launches e.1 with
    | some l => sameSpace s l.ctx ctx
    | none => false)

/-- GRAPHBAD (R334, R396). -/
def graphBad (s : State) (launch node reason : Nat) : State :=
  match tabFind s.disp.launches launch with
  | none => s
  | some l =>
    let s := { s with disp := { s.disp with graphs := tabUpd s.disp.graphs launch fun g => { g with held := true } } }
    raiseEvent s (sourceId 1 0) 0x0006 (queueRing s l.queue) (leBytes 4 launch ++ leBytes 4 node ++ leBytes 1 reason)
      (ctxWorld s l.ctx)

/-- A GRAPH record is accepted (R334). -/
def takeGraph (s : State) (q ctx : Nat) (r : List Byte) : State :=
  let header : W64 := BitVec.ofNat 64 (leAt r 0 8)
  if !hubReady s ctx .read header 64 then hubMiss s ctx .read header 64
  else
    let h := hubRead s ctx header 64
    let s := hubTouch s ctx header 64
    let runs := headerRuns s ctx header
    let n := takeNumber s
    let s := n.2
    let g := parseGraph header (addrWhen (leAt h 32 8 != 0) (leAt h 32 8)) h
    let s := { s with disp := { s.disp with
      launches := tabPut s.disp.launches n.1 (graphLaunch r q (queueHead s q) ctx (queuePrio s q))
      graphs := tabPut s.disp.graphs n.1 { g with started := !runs } } }
    if headerOk h then s else graphBad s n.1 0 2

/-- A KERNEL record is accepted or refused (R13, R324). -/
def takeKernel (s : State) (q ctx : Nat) (r : List Byte) : State :=
  let target : W64 := BitVec.ofNat 64 (leAt r 0 8)
  if !hubReady s ctx .read target 32 then hubMiss s ctx .read target 32
  else
    let k := parseKernel (hubRead s ctx target 32)
    let s := hubTouch s ctx target 32
    match refusal r k, k with
    | none, some k =>
      let n := takeNumber s
      let s := n.2
      { s with disp := { s.disp with
          launches := tabPut s.disp.launches n.1 (launchOf r k q (queueHead s q) ctx (queuePrio s q)) } }
    | some reason, _ => refuseRecord s q reason
    | none, none => refuseRecord s q 1

/-- LAUNCH_RECORD_TAKE (R324, R325, R326). -/
def execLaunchRecordTake (queue : Nat) (s : State) : Answer :=
  if !headWaits s queue then .next s
  else
    let ctx := queueCtx s queue
    let held := ctxHeld s ctx
    let s := refreshCtx s ctx
    if held then .next s
    else if !ctxUsable s ctx then .next (refuseRecord (ctxRead s ctx) queue 4)
    else
      let va := headVa s queue
      if !hubReady s ctx .read va 64 then .next (hubMiss s ctx .read va 64)
      else
        let r := hubRead s ctx va 64
        let s := hubTouch s ctx va 64
        if !recordFieldsOk r then .next (refuseRecord s queue 1)
        else if leAt r 31 1 = 1 then .next (takeGraph s queue ctx r)
        else .next (takeKernel s queue ctx r)

/-- What a block of a launch needs of its core (R20, R330). -/
def launchNeed (l : Launch) : Need := { gangs := l.gangs, regs := l.regs, pad := l.pad, acc := l.acc, copyq := l.copyq }

/-- Units of a launch's grid. -/
def unitsOf (l : Launch) : Nat := l.x * l.y * l.z

/-- A launch still has a unit to place. -/
def unplaced (l : Launch) : Bool := !l.graph && decide (l.placed < unitsOf l)

/-- Cores in the order of the placement search: from the core after the last one used (R330). -/
def searchOrder (s : State) : List Nat := (List.range 288).map fun k => (s.disp.cursor + 1 + k) % 288

/-- Places of a unit whose first core is given: one block, or a team from its position 0 on (R38, R330). -/
def fitUnit (s : State) (l : Launch) (core : Nat) : Option (List (Nat × Nat × List (Nat × Nat))) :=
  let cores := (List.range l.size).map fun r => core + r
  let fits := cores.map fun c => (fitCore s c (launchNeed l)).map fun p => (c, p)
  if bitN l.dies (dieOf core) && (l.size == 1 && !l.team || core % 4 == 0) && fits.all Option.isSome
  then some (fits.filterMap id) else none

/-- Lane-private frames for the blocks of a unit, when the pool holds them (R330, R331). -/
def unitFrames (s : State) (ctx n k : Nat) (taken : List (Nat × Nat)) : Option (List Nat) :=
  match k with
  | 0 => some []
  | k + 1 =>
    match framePlace s ctx n taken with
    | some a => (unitFrames s ctx n k (taken ++ [(a, n)])).map fun r => a :: r
    | none => none

/-- The first core that takes the next unit of a launch (R330). -/
def placeOf (s : State) (l : Launch) : Option (List (Nat × Nat × List (Nat × Nat)) × List Nat) :=
  match unitFrames s l.ctx (frameBytes l.gangs l.zpriv) l.size [] with
  | none => none
  | some fs => ((searchOrder s).findSome? (fitUnit s l)).map fun p => (p, fs)

/-- One block of a unit starts on its core (R16, R331). -/
def startBlock (s : State) (n : Nat) (l : Launch) (team rank unit : Nat) (p : Nat × Nat × List (Nat × Nat)) (frame : Nat) : State :=
  match tabFind s.ctxs l.ctx with
  | none => s
  | some c =>
    let uid := s.nextId
    let w (x : Nat) : W32 := BitVec.ofNat 32 x
    let b : Block := { newBlock p.1 p.2.1 n l.ctx c.world c.asid (launchNeed l) with
      cx := w (unit % l.x), cy := w (unit / l.x % l.y), cz := w (unit / l.x / l.y), gx := w l.x, gy := w l.y, gz := w l.z,
      sx := w l.sx, sy := w l.sy, sz := w l.sz, rank := rank, size := l.size, team := team, teamed := l.team, zpriv := l.zpriv,
      frame := BitVec.ofNat 64 frame }
    let s := { s with nextId := uid + 1, blocks := tabPut s.blocks uid b }
    let s := putGangs s uid (l.sx * l.sy * l.sz) l.entry [(1, l.args)] p.2.2
    { s with disp := { s.disp with launches := tabUpd s.disp.launches n fun l => { l with uids := l.uids ++ [uid] } } }

/-- The lines of a region of a context leave the L1 of a core (R227). -/
def discardRegion (s : State) (ctx core : Nat) (r : W64 × Nat) : State :=
  (rangeLines r.1 r.2).foldl (fun s a => match hubPa s ctx .read a with
    | some (pa, _) => dropL1 s core pa
    | none => s) s

/-- What the start of a launch's block discards from its core's L1: the regions of its edges for a graph's node, and everything of
its world where the start of its record is an acquire: a record that LAUNCH sent, or one of a SERIAL queue (R227, R327). -/
def startAcquire (s : State) (l : Launch) (world : BitVec 16) (core : Nat) : State :=
  let s := l.regions.foldl (fun s r => discardRegion s l.ctx core r) s
  if regField s (.lqctl l.queue) 4 4 = 1 ∨ regField s (.lqctl l.queue) 5 5 = 1 then discardL1 s core world else s

/-- The next unit of a launch starts (R227, R330, R331). -/
def startUnit (s : State) (n : Nat) (l : Launch) (ps : List (Nat × Nat × List (Nat × Nat))) (fs : List Nat) : State :=
  let s := noteResident s l.ctx
  let team := s.nextId
  let s := (ps.zip fs).zipIdx.foldl (fun s e => startBlock s n l team e.2 l.placed e.1.1 e.1.2) s
  let world := match tabFind s.ctxs l.ctx with
    | some c => c.world
    | none => 0
  let s := ps.foldl (fun s p => startAcquire s l world p.1) s
  let last := match ps.getLast? with
    | some p => p.1
    | none => s.disp.cursor
  let s := { s with disp := { s.disp with
    cursor := last
    launches := tabUpd s.disp.launches n fun l => { l with placed := l.placed + 1 } } }
  if l.placed + 1 = unitsOf l ∧ l.node.isNone then advanceHead s l.queue else s

/-- A victim of an open yield request: no unit of its launches is placed (R332). -/
def isVictim (s : State) (ctx : Nat) : Bool := s.disp.yields.any fun y => y.victim == ctx

/-- Units of a context's launches can be placed: its descriptor is read, it is idle or resident, bound where its world asks for it, and no
victim (R229, R332, R367). -/
def ctxPlaces (s : State) (ctx : Nat) : Bool :=
  !isVictim s ctx && !ctxHeld s ctx && (match tabFind s.ctxs ctx with
    | some c => (c.st == .idle || c.st == .resident) && ctxBound s ctx c
    | none => false)

/-- The launch whose unit a queue places next (R327, R334). -/
def queueNext (s : State) (q : Nat) : Option (Nat × Launch) :=
  (s.disp.launches.find? fun e => e.2.queue == q && unplaced e.2 && ctxPlaces s e.2.ctx).map fun e => (e.1, e.2)

/-- Queues of a priority that want to place, in round-robin order after the one served last (R328). -/
def queuesAt (s : State) (prio : Nat) : List Nat :=
  let last := tabGet s.disp.rr prio 63
  ((List.range 64).map fun k => (last + 1 + k) % 64).filter fun q =>
    match queueNext s q with
    | some (_, l) => l.prio == prio
    | none => false

/-- What a placement step does: a queue places its unit and passes others over, or queues wait. -/
inductive PlaceChoice where
  | place (q n : Nat) (l : Launch) (ps : List (Nat × Nat × List (Nat × Nat))) (fs : List Nat) (passed : List Nat)
  | wait (qs : List Nat)
  | idle

/-- The first queue of a list whose unit fits, and the queues passed over for it (R328). -/
def firstFit (s : State) (qs passed : List Nat) : PlaceChoice :=
  match qs with
  | [] => .wait passed
  | q :: r =>
    match queueNext s q with
    | some (n, l) => (match placeOf s l with
      | some p => .place q n l p.1 p.2 passed
      | none => firstFit s r (passed ++ [q]))
    | none => firstFit s r passed

/-- The lines that the dispatcher reads to take a queue's head: its record, and its descriptor or graph header (R324). -/
def headLines (s : State) (q : Nat) : List W64 :=
  let ctx := queueCtx s q
  let va := headVa s q
  rangeLines va 64 ++ (if hubReady s ctx .read va 64 then rangeLines (BitVec.ofNat 64 (leAt (hubRead s ctx va 64) 0 8)) 64 else [])

/-- A queue of a priority has a ready head that the dispatcher has still to take; one of whose own reads some are parked does not hold
others back (R328; log 24). -/
def takePending (s : State) (prio : Nat) : Bool :=
  (List.range 64).any fun q => queuePrio s q == prio && headWaits s q &&
    !s.reqs.any fun e => e.2.agent == .hub && e.2.ctx == queueCtx s q && e.2.unit.isNone && e.2.kind == .read && isParked e.2 &&
      (headLines s q).contains e.2.va

/-- The device goes to sleep: SLEEP_PREP runs, or has run and the device was not woken since; contexts stay off the cores (R382;
log 33). -/
def asleep (s : State) : Bool := s.island.preparing.isSome || s.island.wrapped

/-- A saved context may be restored: the device does not sleep, the context is bound where its world asks for it, it is not the victim
of an open request, and after PARKTH a release has replayed one of its requests (R239, R332, R367). -/
def restorable (s : State) (ctx : Nat) : Bool :=
  match tabFind s.ctxs ctx with
  | some c => !asleep s && c.st == .saved && !c.needsReplay && !isVictim s ctx && ctxBound s ctx c
  | none => false

/-- Priority of a context: the highest of its launches (R328, R332; log 24). -/
def ctxPrio (s : State) (ctx : Nat) : Nat :=
  ((s.disp.launches.filter fun e => e.2.ctx == ctx).map (·.2.prio)).foldl max 0

/-- A saved context of a priority waits for its places (R328, R332). -/
def restoreWaits (s : State) (prio : Nat) : Bool := s.ctxs.any fun e => restorable s e.1 && ctxPrio s e.1 == prio

/-- The queue served in a placement step, from a priority down; one that waits, a head that is not taken yet, or a context that waits
for its restore keeps lower priorities from placing (R328, R332). -/
def choosePlace (s : State) (prios : List Nat) : PlaceChoice :=
  match prios with
  | [] => .idle
  | p :: r =>
    if asleep s || takePending s p then .idle
    else match queuesAt s p with
    | [] => if restoreWaits s p then .idle else choosePlace s r
    | qs => firstFit s qs []

/-- Nothing of a higher priority waits for places (R328, R332). -/
def restoreTurn (s : State) (ctx : Nat) : Bool :=
  (List.range 8).all fun p => decide (p ≤ ctxPrio s ctx) ||
    (!takePending s p && (queuesAt s p).isEmpty && !restoreWaits s p)

/-- Priorities from 7 to 0. -/
def allPrios : List Nat := [7, 6, 5, 4, 3, 2, 1, 0]

/-- Amount of a resource that some blocks hold: 0 gangs, 1 registers, 2 pad, 3 tiles, 4 copy entries, 5 block indices; a retired gang
holds neither slot nor registers, and no other context holds lane-private frames of a context, 6 (R40, R169, R332). -/
def heldAmount (s : State) (bs : List (Nat × Block)) (r : Nat) : Nat :=
  (bs.map fun e => match r with
    | 0 => (liveGangs s e.1).length
    | 1 => (liveGangs s e.1).length * e.2.regs
    | 2 => e.2.padSize
    | 3 => e.2.acc
    | 4 => e.2.copyq
    | 5 => 1
    | _ => 0).foldl (· + ·) 0

/-- Gangs that the free registers of a core's pipes hold, whatever its slots (R20). -/
def regRoom (occ : List (Nat × Nat × Nat)) (regs : Nat) : Nat :=
  ((List.range 4).map fun p => (1024 - ((occ.filter fun x => x.1 == p).map (·.2.2)).foldl (· + ·) 0) / regs).foldl (· + ·) 0

/-- Resources that a launch's block misses on a core: registers are missing where they alone do not hold its gangs, or where slots
enough are free and the pipes that have them lack registers (R20, R332). -/
def missingOn (s : State) (n : Need) (core : Nat) : List Nat :=
  let bs := coreBlocks s core
  let slots := decide (n.gangs + (coreSlots s core).length ≤ 32)
  (if slots then [] else [0]) ++
  (if decide (n.gangs ≤ regRoom (coreSlots s core) n.regs) && (!slots || (gangSlots (coreSlots s core) n.regs n.gangs).isSome) then []
   else [1]) ++
  (if sumBlocks bs (·.padSize) + n.pad ≤ 393216 then [] else [2]) ++
  (if sumBlocks bs (·.acc) + n.acc ≤ 16 then [] else [3]) ++ (if sumBlocks bs (·.copyq) + n.copyq ≤ 32 then [] else [4]) ++
  (if (freeIndexOf s core).isSome then [] else [5])

/-- The missing resource of a launch; among several it is a free choice (R332; log 1). -/
def missingResource (s : State) (l : Launch) : Nat :=
  let ms := ((List.range 288).filter fun c => bitN l.dies (dieOf c)).flatMap (missingOn s (launchNeed l)) ++
    (if (unitFrames s l.ctx (frameBytes l.gangs l.zpriv) l.size []).isSome then [] else [6])
  ms.getD (Config.freeIndex s.tick % max 1 ms.length) 0

/-- The victim of a waiting queue: the resident context that holds most of the missing resource, among those whose every launch
has a lower priority (R332). Among several that hold the same, it is the first in the device's table of contexts, of which the spec says
nothing (DESIGN CHOICE, log 24). -/
def chooseVictim (s : State) (l : Launch) : Option Nat :=
  let r := missingResource s l
  let lower := s.ctxs.filter fun e => e.2.st == .resident &&
    s.disp.launches.all fun x => x.2.ctx != e.1 || decide (x.2.prio < l.prio)
  let best := lower.foldl (fun acc e =>
    let h := heldAmount s (ctxBlocks s e.1) r
    match acc with
    | some (_, b) => if b < h then some (e.1, h) else acc
    | none => if 0 < h then some (e.1, h) else none) (none : Option (Nat × Nat))
  best.map (·.1)

/-- A yield request starts: YIELDW of each of the victim's launches is advanced, and its gangs are asked (R332). -/
def startYield (s : State) (q victim : Nat) : State :=
  let s := s.disp.launches.foldl (fun s e =>
    match e.2.ctx == victim, e.2.yieldw with
    | true, some a => hubReq s victim none (.rmw .add 2) .rel 5 a 8 (leBytes 8 1)
    | _, _ => s) s
  let s := { s with gangs := tabMap s.gangs fun g => match tabFind s.blocks g.block with
    | some b => if b.ctx == victim then { g with yieldAck := false } else g
    | none => g }
  let y : YieldReq := { queue := q, victim := victim, since := s.cycle, limit := regField s .ydead 31 0, late := false,
                        asked := (ctxGangs s victim).map (·.1), last := s.cycle }
  { s with tick := s.tick + 1, disp := { s.disp with yields := s.disp.yields ++ [y] } }

/-- Waiting queues with PREEMPT start their yield requests (R328, R332). A queue has one request open at a time, until its unit is placed,
and a context is the victim of one at a time: where the victim that a queue would choose is asked already, the queue waits for that
request; the spec says neither (DESIGN CHOICE, log 24). -/
def askYields (s : State) (qs : List Nat) : State :=
  qs.foldl (fun s q =>
    if regField s (.lqctl q) 6 6 = 1 ∧ !s.disp.yields.any (fun y => y.queue == q) then
      match queueNext s q with
      | some (_, l) => match chooseVictim s l with
        | some v => if isVictim s v then s else startYield s q v
        | none => s
      | none => s
    else s) s

/-- A yield request ends: its victim's gangs that stopped for it go on (R332). -/
def endYield (s : State) (y : YieldReq) : State :=
  { s with
    gangs := tabMap s.gangs fun g => match tabFind s.blocks g.block with
      | some b => if b.ctx == y.victim then { g with yieldAck := false, yieldStop := false } else g
      | none => g
    disp := { s.disp with yields := s.disp.yields.erase y } }

/-- The yield requests of a queue end once its unit is placed (R332). -/
def endYields (s : State) (q : Nat) : State := (s.disp.yields.filter fun y => y.queue == q).foldl endYield s

/-- The dispatcher reads the descriptor again of every context that it would place anew (R229). -/
def takeUp (s : State) : State :=
  s.disp.launches.foldl (fun s e => if unplaced e.2 then refreshCtx s e.2.ctx else s) s

/-- A launch whose placement is refused: its context is malformed, cancelled, or not bound as its world asks (R229, R367). -/
def refusedLaunch (s : State) : Option (Nat × Launch) :=
  s.disp.launches.find? fun e => unplaced e.2 && !ctxHeld s e.2.ctx && !ctxUsable s e.2.ctx

/-- A refused launch: LAUNCHREF names its record, whose place in the queue is passed; a graph's node holds its instance. What has been
placed of it goes on, and it ends with that (R229, R334, R367, R396; all but the refusal DESIGN CHOICE, log 24). -/
def refuseLaunch (s : State) (n : Nat) (l : Launch) : State :=
  let s := raiseEvent s (sourceId 1 0) 0x0001 (queueRing s l.queue) (leBytes 4 l.queue ++ leBytes 4 l.slotSeq ++ leBytes 1 4)
    (ctxWorld s l.ctx)
  let s := match l.node with
    | some (g, node) => graphBad s g node 0
    | none => advanceHead s l.queue
  let ls := if l.placed = 0 then tabDel s.disp.launches n
    else tabUpd s.disp.launches n fun l => { l with x := l.placed, y := 1, z := 1 }
  { s with disp := { s.disp with launches := ls } }

/-- PLACE_UNIT: a launch whose context cannot be placed is refused; else one placement step (R229, R328, R330, R367). -/
def execPlaceUnit (s : State) : Answer :=
  let s := if asleep s then s else takeUp s
  match if asleep s then none else refusedLaunch s with
  | some (n, l) => .next (refuseLaunch (ctxRead s l.ctx) n l)
  | none =>
    match choosePlace s allPrios with
    | .place q n l ps fs passed =>
      let s := askYields (endYields (startUnit s n l ps fs) q) passed
      .next { s with disp := { s.disp with rr := tabPut s.disp.rr l.prio q } }
    | .wait qs => .next (askYields s qs)
    | .idle => .next s

/-- The context is switched out: STATE is saving, and its gangs stop at their next turns (R249). -/
def startSave (s : State) (ctx : Nat) : State :=
  match tabFind s.ctxs ctx with
  | some c => if c.st == .resident then setCtxState s ctx .saving else s
  | none => s

/-- Gangs of a victim that have not acknowledged (R332). -/
def unacked (s : State) (ctx : Nat) : List (Nat × Gang) := (ctxGangs s ctx).filter fun e => !e.2.yieldAck

/-- The payload of a yield event (R396). -/
def yieldPayload (y : YieldReq) (n : Nat) : List Byte := leBytes 2 y.victim ++ leBytes 1 y.queue ++ leBytes 1 0 ++ leBytes 4 n

/-- The timer of a yield request has expired (R332). -/
def yieldExpired (s : State) (y : YieldReq) : Bool := decide (y.since + y.limit ≤ s.cycle)

/-- A yield request has something to do: every gang acknowledged, or its timer expired and that was not yet handled (R332). -/
def yieldMoves (s : State) (y : YieldReq) : Bool :=
  if imageFits s y.victim then !y.late && ((unacked s y.victim).isEmpty || yieldExpired s y)
  else (ctxGangs s y.victim).isEmpty || (yieldExpired s y && !y.late)

/-- A yield request's outcome is reported; it stays open (R332). -/
def reportYield (s : State) (y : YieldReq) (kind n : Nat) : State :=
  let s := raiseEvent s (sourceId 1 0) kind (queueRing s y.queue) (yieldPayload y n) (ctxWorld s y.victim)
  { s with disp := { s.disp with yields := s.disp.yields.map fun z => if z == y then { z with late := true } else z } }

/-- Gangs asked that have acknowledged, by retiring or by YIELD (R332). -/
def ackCount (s : State) (y : YieldReq) : Nat :=
  (y.asked.filter fun k => match tabFind s.gangs k with
    | some g => g.retired || g.yieldAck
    | none => true).length

/-- While a gang has not acknowledged, the last acknowledgement is still to come (R332, R396). -/
def noteAcks (s : State) : State :=
  { s with disp := { s.disp with yields := s.disp.yields.map fun y =>
      if (unacked s y.victim).isEmpty then y else { y with last := s.cycle } } }

/-- What follows for one yield request (R332). -/
def yieldStep (s : State) (y : YieldReq) : State :=
  if imageFits s y.victim then
    if (unacked s y.victim).isEmpty then startSave (reportYield s y 0x0002 (y.last - y.since)) y.victim
    else startSave (reportYield s y 0x0003 (ackCount s y)) y.victim
  else if (ctxGangs s y.victim).isEmpty then endYield s y
  else reportYield s y 0x0004 (ackCount s y)

/-- YIELD_DEADLINE: every gang has acknowledged, or the timer expired first (R332). -/
def execYieldDeadline (s : State) : Answer :=
  match s.disp.yields.find? (yieldMoves s) with
  | some y => .next (yieldStep s y)
  | none => .next s

/-- A gang of a block has a pad or team access still to be performed: it completes as issued, while the pads are there (R40,
R199). -/
def padPending (s : State) (uid : Nat) : Bool :=
  s.reqs.any fun e => e.2.cmd.isNone && (e.2.space == .p || e.2.space == .c) && e.2.stage != .done && (match reqGang e.2 with
    | some k => k / 32 == uid
    | none => false)

/-- A block's conditions to retire, its team apart: gangs retired, no command or delivery to its pad, no matrix entry, and none of its
own pad accesses on its way (R12, R40, R269, R284; log 24). -/
def blockOver (s : State) (uid : Nat) (b : Block) : Bool :=
  (liveGangs s uid).isEmpty && !padPending s uid &&
  !(s.cmds.any fun e => e.2.block == uid || e.2.waiting.contains uid ||
    e.2.locks.any fun h => h.block == uid && h.space != .g && h.space != .h) &&
  !(matQueue s b.core).any fun e => e.block == uid

/-- A block can retire: it and every block of its team meet the conditions (R12, R40). -/
def canRetire (s : State) (uid : Nat) : Bool :=
  match tabFind s.blocks uid with
  | none => false
  | some b => (s.blocks.filter fun e => e.2.team == b.team).all (fun e => blockOver s e.1 e.2) &&
      !s.savedBlocks.any fun e => e.2.team == b.team

/-- Stall banks of a block's gangs in ascending gang id (R107). -/
def stallBanks (s : State) (uid : Nat) (b : Block) : List Byte :=
  (List.range b.gangs).flatMap fun g => (List.range 16).flatMap fun k =>
    leBytes 4 (match tabFind s.gangs (gangKey uid g) with
      | some x => (tabGet x.stalls k 0).toNat
      | none => 0)

/-- The block-exit record (R107). -/
def exitRecord (s : State) (uid : Nat) (b : Block) : State :=
  if unitOn s b 3 then
    let banks := stallBanks s uid b
    putRecord s b.core fun seq => recordHeader seq b 4 0 b.gangs 0 ++ banks
  else s

/-- A block leaves the device: its gangs, memberships and HALTED bit go with it (R40, R277, R318). -/
def removeBlock (s : State) (uid : Nat) (b : Block) : State :=
  let s := orphanCensuses (leaveAll s uid) uid
  let s := setReg s (.debug b.core 8) (wbit (reg s (.debug b.core 8)) b.index false)
  { s with
    blocks := tabDel s.blocks uid
    gangs := s.gangs.filter fun e => e.2.block != uid
    stuffing := s.stuffing.filter fun e => e.2.gang / 32 != uid }

/-- BLOCK_RETIRE (R40). -/
def execBlockRetire (block : Nat) (s : State) : Answer :=
  match tabFind s.blocks block with
  | none => .next s
  | some b =>
    if canRetire s block then
      let s := removeBlock (exitRecord s block b) block b
      .next (if b.responder.isSome then s else
        { s with disp := { s.disp with
            launches := tabUpd s.disp.launches b.launch fun l => { l with retired := l.retired + 1 } } })
    else .next s

/-- A kernel launch is over: every block has retired and every access of its gangs has completed (R227, R325). -/
def launchOver (s : State) (l : Launch) : Bool :=
  !l.graph && l.placed == unitsOf l && l.retired == unitsOf l * l.size &&
  !(s.accs.any fun a => l.uids.contains (a.2.gang / 32)) && !(s.cmds.any fun c => l.uids.contains c.2.block)

/-- Every node of a graph is done or skipped (R334). -/
def graphOver (g : Graph) : Bool :=
  g.started && !g.held && (List.range g.nn).all fun n =>
    match tabGet g.node n .waiting with
    | .done | .skipped => true
    | .waiting | .running => false

/-- A done stamp: add 1, a release at sys scope, in the context's world (R325). -/
def doneStamp (s : State) (ctx : Nat) (a : Option W64) : State :=
  match a with
  | some a => hubReq s ctx none (.rmw .add 2) .rel 5 a 8 (leBytes 8 1)
  | none => s

/-- The next instance that waited for a graph header starts (R334). -/
def nextInstance (s : State) (ctx : Nat) (header : W64) : State :=
  match s.disp.graphs.find? fun e => !e.2.started && e.2.header == header && (match tabFind s.disp.launches e.1 with
      | some l => sameSpace s l.ctx ctx
      | none => false) with
  | some e => { s with disp := { s.disp with graphs := tabPut s.disp.graphs e.1 { e.2 with started := true } } }
  | none => s

/-- A launch can retire (R325, R334). -/
def canRetireLaunch (s : State) (n : Nat) : Bool :=
  match tabFind s.disp.launches n with
  | none => false
  | some l => match tabFind s.disp.graphs n with
    | some g => graphOver g
    | none => launchOver s l

/-- A yield request's timer has run out and its outcome is still open: that comes before anything else of a unit (R332). -/
def yieldDue (s : State) : Bool := s.disp.yields.any fun y => yieldExpired s y && yieldMoves s y

/-- LAUNCH_RETIRE: the done stamp is performed and the launch is gone; a graph's own stamp, and its record's place in its queue,
with it (R325, R334). -/
def execLaunchRetire (launch : Nat) (s : State) : Answer :=
  match tabFind s.disp.launches launch with
  | none => .next s
  | some l =>
    if canRetireLaunch s launch then
      let drop (s : State) : State := { s with disp := { s.disp with
        launches := tabDel s.disp.launches launch, graphs := tabDel s.disp.graphs launch } }
      match tabFind s.disp.graphs launch with
      | some g => .next (nextInstance (advanceHead (drop (doneStamp (doneStamp s l.ctx g.done) l.ctx l.done)) l.queue) l.ctx g.header)
      | none =>
        match l.node with
        | some _ => .next (doneStamp { s with disp := { s.disp with
            launches := tabUpd s.disp.launches launch fun l => { l with done := none } } } l.ctx l.done)
        | none => .next (drop (doneStamp s l.ctx l.done))
    else .next s

/-- LQPTR_TAIL_WRITE: TAIL of a host-fed queue, whose doorbell ends D-idle; in a device-fed queue it is read-only (R326, R329, R389). -/
def execLqptrTailWrite (queue : Nat) (tail : W32) (s : State) : Answer :=
  if regField s (.lqctl queue) 4 4 = 0 then .next (doorbell (setField s (.lqptr queue) 31 0 tail.toNat)) else .next s

/-- PARKTH_CHECK: the share of gangs that wait on parked requests, at two checks in a row (R239). -/
def execParkthCheck (s : State) : Answer :=
  if s.disp.parkChecks < s.cycle / 1024 then
    let check (s : State) (e : Nat × Ctx) : State :=
      if e.2.st == .resident then
        let gs := ctxGangs s e.1
        let p := (gs.filter fun g => g.2.lastStall == some stallParked).length
        let past := decide (parkThreshold s e.1 * gs.length < 100 * p)
        let s := { s with ctxs := tabUpd s.ctxs e.1 fun c => { c with past := past } }
        if past && e.2.past && imageFits s e.1 then
          startSave { s with ctxs := tabUpd s.ctxs e.1 fun c => { c with past := false, needsReplay := true } } e.1
        else s
      else s
    .next (s.ctxs.foldl check { s with disp := { s.disp with parkChecks := s.cycle / 1024 } })
  else .next s

end Sys2Proof.Machine
end

