-- ==== Sys2Proof/Machine/MemSys.lean ====
section
/-! DEFINITION. The steps of the memory system on a request and on an access: walks, homes, controllers, the lower tier, spill
queues, replies, and completions (R43, R161, R162, R176 to R181, R193, R206, R251 to R254, R344, R351 to R363). -/

namespace Sys2Proof.Machine

/-- Older requests in the program order of a request's gang to its line that are not translated yet (R162, R204). -/
def olderWalks (s : State) (id : Nat) (r : Req) : List (Nat × Req) :=
  match reqGang r with
  | some k => s.reqs.filter fun e => decide (e.1 < id) && e.2.stage == .walk && e.2.cmd.isNone && e.2.kind != .pref &&
      (e.2.agent == r.agent || e.2.before.contains k) && !sameAccess e.2 r && sameLine e.2 r
  | none => []

/-- A request chains behind a parked one (R162, R192). -/
def chains (s : State) (id : Nat) (r : Req) : Bool := !isCmo r.kind && (chainBehind s id r).isSome

/-- Those of some requests in program order whose translation something other than their line holds up: a lock, an access that must
be performed first, or an older one of them to their bytes that is held up (R183, R204, R207, R208, R212). -/
def heldWalks (s : State) (es : List (Nat × Req)) : List (Nat × Req) :=
  es.foldl (fun held e =>
    if lockHeld s e.1 e.2 || (!chains s e.1 e.2 && !orderClear s e.1 e.2) ||
       held.any (fun q => overlap s q.2 e.2 && !sameAccess q.2 e.2)
    then held ++ [e] else held) []

/-- The requests of its gang that are translated before one are: older ones to its bytes, and older ones to its line that nothing
else holds up (R162, R204, R212). -/
def walkFirst (s : State) (id : Nat) (r : Req) : Bool :=
  r.cmd.isSome || r.kind == .pref ||
  (let es := olderWalks s id r
   es.all fun e => !overlap s e.2 r && (heldWalks s es).any fun q => q.1 == e.1)

/-- A request's translation can take place now, its place in a release apart: one that chains waits for no order (R162, R176, R183,
R207, R208, R214). -/
def walkOpen (s : State) (id : Nat) (r : Req) : Bool :=
  r.stage == .walk && walkFirst s id r && (chains s id r || orderClear s id r) && (r.kind == .pref || !lockHeld s id r)

/-- Requests of a release are translated in park order (R236). -/
def replayTurn (s : State) (id : Nat) : Bool :=
  !s.parks.replay.contains id || (replayedBefore s id).all fun e => !walkOpen s e.1 e.2

/-- A request's translation can take place now. -/
def walkReady (s : State) (id : Nat) (r : Req) : Bool := walkOpen s id r && replayTurn s id

/-- A full park store keeps the walkers from a request that no cached translation serves (R232). -/
def walkersShut (s : State) (r : Req) : Bool :=
  parkFull s (parkDie r) && (decide (288 ≤ r.core) || (tlbLookup s r.core r.world r.asid r.va).isNone)

/-- A request is translated, parks with the first failing cause, or chains; an entry that its walk cannot read now is waited for (R161,
R162, R175, R176, R181, R192, R198, R220, R361, R362). -/
def walkStep (s : State) (id : Nat) (r : Req) : State :=
  if r.kind == .pref && lockHeld s id r then dropReq (leaveReplay s id false) id
  else match if isCmo r.kind then none else chainBehind s id r with
    | some (q, c) => parkReq s id r c (some q)
    | none =>
      if walkersShut s r then { s with tick := s.tick + 1 }
      else if (walkHeld s id r).isSome then
        physAsk { s with tick := s.tick + 1 } (walkUnit id) r.world ((walkHeld s id r).getD 0) 16
      else match translate s (walkUnit id) r.core r.ctx r.world r.asid r.kind r.va with
        | (.ok pa l, s) => enterPath (physEnd s (walkUnit id)) id r pa l
        | (.fail c, s) =>
          let s := physEnd s (walkUnit id)
          if isCmo r.kind then (if r.access.isSome then doneReq s id r.parts else dropReq s id) else parkReq s id r c none

/-- TRANSLATION_WALK (R176). -/
def execTranslationWalk (req : Nat) (s : State) : Answer :=
  match tabFind s.reqs req with
  | none => .next s
  | some r => .next (if walkReady s req r then walkStep s req r else s)

/-- A write of a unit of the hub has been performed at another device: what that device answered for the line before is gone
(R220). -/
def dropAnswers (s : State) (r : Req) : State :=
  if r.agent == .hub && isRemote s r.pa then
    { s with reqs := s.reqs.filter fun e => !(isAnswer e.2 && e.2.ctx == r.ctx && e.2.va == r.va && e.2.kind == .read) }
  else s

/-- What a performed request means for its command, its directory record, or nobody (R222, R265, R309). -/
def afterServe (s : State) (id : Nat) : State :=
  match tabFind s.reqs id with
  | none => s
  | some r =>
    if r.stage ≠ .done then s
    else if r.cmd.isSome then cmdServed s id
    else match r.access with
      | some a => match tabFind s.accs a with
        | none => dropReq s id
        | some acc => match acc.dir with
          | some op =>
            performDir { s with accs := tabPut s.accs a { acc with dir := none } } a acc op (r.parts.flatMap (·.res))
          | none => s
      | none =>
        if isFetch r.kind || r.unit.isSome || (r.kind == .read && isRemote s r.pa) then s
        else dropReq (dropAnswers s r) id

/-- MEM_REQUEST_AT_HOME (R206). -/
def execMemRequestAtHome (req : Nat) (s : State) : Answer :=
  match tabFind s.reqs req with
  | none => .next s
  | some r =>
    if homeReady s req r then
      .next (afterServe (if translated r.space then serveReq s req r else serveInner s req r) req)
    else .next s

/-- Requests that wait at a channel controller, or at basin bank b as number 32 + b, oldest first (R354). -/
def ctrlReqs (s : State) (stack channel : Nat) : List (Nat × Req) :=
  s.reqs.filter fun e => e.2.stage == .ctrl && reqStack s e.2 == stack && reqQueue s e.2 == channel

/-- The first of some requests in the order they came to their slice. -/
def firstIn (xs : List (Nat × Req)) : Option (Nat × Req) :=
  match xs with
  | [] => none
  | x :: r => some (r.foldl (fun a b => if b.2.arrived < a.2.arrived then b else a) x)

/-- The request a controller or a bank serves next: urgent first, one bulk request after 64 urgent ones in a row, and requests to one line
in arrival order (R354). -/
def ctrlNext (s : State) (stack channel : Nat) : Option (Nat × Req) :=
  let rs := ctrlReqs s stack channel
  let urgent := rs.filter fun e => e.2.urgent
  let bulk := rs.filter fun e => !e.2.urgent
  let turn := tabGet s.caches.urgents (40 * stack + channel) 0
  let pick := if urgent.isEmpty ∨ (64 ≤ turn ∧ !bulk.isEmpty) then firstIn bulk else firstIn urgent
  match pick with
  | some p => firstIn (rs.filter fun e => e.2.pa == p.2.pa)
  | none => none

/-- CONTROLLER_SERVICE: the next request's line is read into its home slice, by a channel controller from DRAM or by a basin bank from the
basin. A write-back is bulk, and is performed at once in its place: what waits in its queue would be seen by nothing but the time that
bulk requests take (R351, R354; log 27). -/
def execControllerService (stack channel : Nat) (s : State) : Answer :=
  match ctrlNext s stack channel with
  | none => .next s
  | some (_, r) =>
    if (decide (channel < 32) && windowFull s r) || unitDead s 14 stack then .next s
    else
      let k := 40 * stack + channel
      let n := if r.urgent then tabGet s.caches.urgents k 0 + 1 else 0
      let s := { s with caches := { s.caches with urgents := tabPut s.caches.urgents k n } }
      .next (wakeLine (fillL2 (basinLookup s r) r) r)

/-- BASIN_WINDOW_END: the filter and the count are cleared (R352). -/
def execBasinWindowEnd (stack bank : Nat) (s : State) : Answer :=
  if basinWindow s stack ≤ bankMisses s stack bank then
    .next (clearWindow s stack bank)
  else .next s

/-- The 96-bit initial value of a tier line's seal: its line number in 40 bits, the epoch of its granule, and a counter (R374). -/
def tierIv (s : State) (pa : Nat) (counter : W32) : List Byte :=
  leBytes 5 (tierByte pa / 64) ++ leBytes 3 (min (tabGet s.tiers.epochs (granuleOf pa) 0) (2 ^ 24 - 1)) ++ leBytes 4 counter.toNat

/-- The associated data of a tier line's seal (R374). -/
def tierAad (s : State) (pa : Nat) : List Byte := leBytes 8 pa ++ leBytes 2 (frameOwner s pa).toNat

/-- What stands in the CXL tier for a line: its sealed bytes and tag, under the TIER key of its frame's owner (R371, R374). -/
def tierSeal (s : State) (pa : Nat) : List Byte :=
  Config.sealBytes (worldTierKey s (frameOwner s pa)) (tierIv s pa (tabGet s.tiers.counters (tierByte pa / 64) 0)) (tierAad s pa)
    (lineBytes (memLine s pa))

/-- The tier returns other sealed bytes for a line: one whose seal does not verify is poisoned; an older state of the line with its own
metadata is not detected (R371, R374). -/
def alterTier (s : State) (pa : Nat) (sealed : List Byte) (counter : W32) : State :=
  if sealed == tierSeal s pa && counter == tabGet s.tiers.counters (tierByte pa / 64) 0 then s
  else match Config.openBytes (worldTierKey s (frameOwner s pa)) (tierIv s pa counter) (tierAad s pa) sealed with
    | some plain =>
      let s := { s with tiers := { s.tiers with counters := tabPut s.tiers.counters (tierByte pa / 64) counter } }
      putMemLine s pa (BitVec.ofNat 512 (leNat (padTo 64 plain))) (memPoison s pa)
    | none => putMemLine s pa (memLine s pa) true

/-- LOWER_TIER_SERVICE: the tier answers a held request, or it parks as TIERFAIL; a line whose seal fails is poisoned, and the request
then parks as POISON (R181, R183, R361, R371). -/
def execLowerTierService (req : Nat) (answer : TierAnswer) (s : State) : Answer :=
  match tabFind s.reqs req with
  | none => .next s
  | some r =>
    if r.stage ≠ .tier ∨ granuleMoving s r.pa ∨ writeHeld s r then .next s
    else if (extentOf s r.pa).isSome ∨ backAddr s r.pa ≠ r.pa ∨ isCmo r.kind ∨ (!r.accepted ∧ homeOf s r.pa r.leaf r.core ≠ r.slice) then
      .next (setStage s req .home)
    else match answer, chainBehind s req r with
      | .failed, some (q, c) => .next (parkReq s req r c (some q))
      | .failed, none => .next (parkReq s req r .tierFail none)
      | .intact, _ => .next (setStage (fillL2 s r) req .home)
      | .altered bs n, _ => .next (setStage (fillL2 (alterTier s r.pa bs n) r) req .home)

/-- A spilled or stopped request enters its slice's queue, which accepts a resent one by that (R344, R359). -/
def fetchBack (s : State) (id : Nat) : State := updReq s id fun r => { r with stage := .home, resent := false }

/-- SPILL_FETCH: spilled requests come back in arrival order, and after them those stopped at the crossbar (R359). -/
def execSpillFetch (die slice : Nat) (s : State) : Answer :=
  let n := 48 * die + slice
  let room := sliceRoom s n
  match firstIn (sliceReqs s n .spill), firstIn (sliceReqs s n .stopped) with
  | some (id, _), _ => .next (if room then fetchBack s id else s)
  | none, some (id, _) => .next (if room then fetchBack s id else s)
  | none, none => .next s

/-- PORT_REPLAY: the request goes whole to its home under the new masks; until that has accepted it into its queue, younger requests to
its line stay held (R344). -/
def execPortReplay (req : Nat) (s : State) : Answer :=
  match tabFind s.reqs req with
  | none => .next s
  | some r =>
    if r.stage = .replay then
      let s := { s with dom := tabMap s.dom fun d => { d with old := d.old.filter fun q => q != req } }
      .next (arriveAt (updReq s req fun r => { r with resent := true }) req (homeOf s r.pa r.leaf r.core))
    else .next s

/-- The fragment a fetch is for still stands at its PC and takes the fetched words next (R43). -/
def fetchNext (g : Gang) (r : Req) : Option (Nat × Frag) :=
  match r.kind, r.parts with
  | .fetch e pc, p :: _ => match tabFind g.frags e with
    | some f => if f.pc = pc ∧ p.pos = 4 * f.words.length then some (e, f) else none
    | none => none
  | _, _ => none

/-- The fragment that a fetch is for is still at the fetch's PC. -/
def fetchLive (g : Gang) (r : Req) : Bool :=
  match r.kind with
  | .fetch e pc => (match tabFind g.frags e with
    | some f => f.pc == pc
    | none => false)
  | _ => false

/-- A performed fetch has something to do: its words come next, or nothing waits for them any more (R43). -/
def fetchReady (s : State) (r : Req) : Bool :=
  isFetch r.kind && r.stage == .done && (match reqGang r with
    | some k => (match tabFind s.gangs k with
      | some g => (fetchNext g r).isSome || !fetchLive g r
      | none => true)
    | none => true)

/-- INSTRUCTION_FETCH: fetched words reach the fragment's buffer (R43). -/
def execInstructionFetch (req : Nat) (s : State) : Answer :=
  match tabFind s.reqs req with
  | none => .next s
  | some r =>
    if !fetchReady s r then .next s
    else match reqGang r with
      | none => .next (dropReq s req)
      | some k => match tabFind s.gangs k with
        | none => .next (dropReq s req)
        | some g => match fetchNext g r with
          | none => .next (dropReq s req)
          | some (e, f) =>
            let ws := r.parts.map fun p => (BitVec.ofNat 32 (leNat p.res) : W32)
            .next (dropReq (putGang s k (putFrag g e { f with words := f.words ++ ws })) req)

/-- The byte at a position of a lane's value, from the performed requests of its access; one no request brought reads 0
(R166 to R169, R186). -/
def valueByte (rs : List (Nat × Req)) (lane pos : Nat) : Byte :=
  let ps := rs.flatMap fun e => e.2.parts.filter fun p =>
    p.lane == lane && decide (p.pos ≤ pos) && decide (pos < p.pos + p.res.length)
  match ps with
  | p :: _ => p.res.getD (pos - p.pos) 0
  | [] => 0

/-- The low `n` bytes of a lane's value. -/
def valueBytes (rs : List (Nat × Req)) (lane n : Nat) : List Byte := (List.range n).map (valueByte rs lane)

/-- Register word `j` of a lane's loaded value of `n` bytes (R188). -/
def valueWord (bs : List Byte) (n j : Nat) (signed : Bool) : W32 :=
  if n < 4 then
    let x := leNat bs
    if signed && decide (2 ^ (8 * n - 1) ≤ x) then BitVec.ofInt 32 ((x : Int) - (2 ^ (8 * n) : Nat)) else BitVec.ofNat 32 x
  else BitVec.ofNat 32 (leAt bs (4 * j) 4)

/-- The bytes that a lane of an access receives: its status, or its value (R188, R337). -/
def laneValue (a : Access) (rs : List (Nat × Req)) (n l : Nat) : List Byte :=
  match a.status.find? fun e => e.1 == l with
  | some (_, x) => leBytes n x.toNat
  | none => valueBytes rs l n

/-- A scalar register receives a status or a value (R75, R76). -/
def scalarValue (a : Access) (rs : List (Nat × Req)) : W64 :=
  match a.status with
  | (_, x) :: _ => x
  | [] => BitVec.ofNat 64 (leNat (valueBytes rs 0 8))

/-- MWAITV's read has returned: the fragment goes on when the value has reached its target, else it waits (R197). -/
def monitorValue (g : Gang) (entry : Nat) (v : W64) (cycle : Nat) : Gang :=
  match tabFind g.frags entry with
  | none => g
  | some f => match f.wait with
    | .mwaitvRead sd t _ =>
      if (v - t).toNat < 2 ^ 63 then
        putFrag (setSreg g sd v) entry { f with wait := .running, pc := f.pc + 4, words := [] }
      else putFrag g entry { f with wait := .mwaitvIdle sd t cycle }
    | _ => g

/-- The value of an access is written to its destination, and the registers are pending no more (R22, R193, R254). -/
def landValue (g : Gang) (id : Nat) (a : Access) (rs : List (Nat × Req)) (cycle : Nat) : Gang :=
  let g := match a.dest with
    | .none => g
    | .lane r n signed =>
      (lanesOf a.mask).foldl (fun g l =>
        let bs := laneValue a rs n l
        (List.range (if n < 4 then 1 else n / 4)).foldl (fun g j => setVreg g (r + j) l (valueWord bs n j signed)) g) g
    | .scalar r => setSreg g (BitVec.ofNat 6 r) (scalarValue a rs)
    | .pred k => setPreds g (BitVec.ofNat 3 k) a.mask (BitVec.ofNat 32 (leNat (valueBytes rs 0 4)))
    | .monitor e => monitorValue g e (BitVec.ofNat 64 (leNat (valueBytes rs 0 8))) cycle
  { g with pend := g.pend.filter fun p => p.due != .access id }

/-- Nothing but its path's order keeps an access open: no command, or a status outside every path that has come (R193, R261). -/
def accFree (a : Access) : Bool := a.cmd.isNone || (a.path.isNone && !a.status.isEmpty)

/-- Where a completion goes (R253). -/
inductive Route where
  | resident | held | saved | gone
  deriving DecidableEq, Repr

/-- The route of an access's completion: pad and team accesses, which are those of path 2, complete while the context is being saved;
a status from the col network or the hub is held (R193, R249, R253). -/
def routeOf (s : State) (a : Access) : Route :=
  match tabFind s.gangs a.gang with
  | some g => match tabFind s.blocks g.block with
    | some b => if ctxMoving s b.ctx && (a.path != some 2 || a.space == .h || (tabFind s.savedGangs a.gang).isSome)
        then .held else .resident
    | none => .resident
  | none => if (tabFind s.savedGangs a.gang).isSome then .saved else .gone

/-- A completion has something to do: a value to write, or its path to lower (R193). -/
def accMoves (s : State) (id : Nat) (a : Access) : Bool :=
  (!a.landed && accReady s id a) || (a.landed && accFree a && pathFirst s id a)

/-- An access and its requests are gone. -/
def dropAccess (s : State) (id : Nat) : State :=
  { s with accs := tabDel s.accs id, reqs := s.reqs.filter fun e => e.2.access != some id }

/-- The path counter of an access falls (R193). -/
def lowerPath (g : Gang) (p : Option Nat) : Gang :=
  match p with
  | some p => setPath g p (pathCount g p - 1)
  | none => g

/-- A completion reaches its gang: first the value, then the path counter. A refused GLOAD or GPUT lowers path 3 behind the older commands
of the path, as R193 orders it, where R261 and R279 could also mean at once (DESIGN CHOICE, log 19). -/
def completeAccess (s : State) (id : Nat) (a : Access) : State :=
  let land := !a.landed
  let s := if land then
      match tabFind s.gangs a.gang with
      | some g => putGang s a.gang (landValue g id a (accReqs s id) s.cycle)
      | none => s
    else s
  if accFree a && pathFirst s id a then
    dropAccess { s with gangs := tabUpd s.gangs a.gang fun g => lowerPath g a.path } id
  else { s with accs := tabPut s.accs id { a with landed := true } }

/-- ACCESS_COMPLETE (R193, R253). -/
def execAccessComplete (access : Nat) (s : State) : Answer :=
  match tabFind s.accs access with
  | none => .next s
  | some a =>
    if accMoves s access a && (routeOf s a == .resident || routeOf s a == .gone) then .next (completeAccess s access a)
    else .next s

/-- Clear one bit of a byte in an image (R254). -/
def imageClear (s : State) (ctx : Nat) (va : W64) (bit : Nat) : State :=
  let x := (hubRead s ctx va 1).getD 0 0
  hubWrite s ctx va [x &&& ~~~(BitVec.ofNat 8 (2 ^ bit))]

/-- The value of an access lands in the image, and after it the pending bits clear (R251, R254). -/
def imageLand (s : State) (b : Block) (g : Gang) (a : Access) (rs : List (Nat × Req)) : State :=
  let at_ (o : Nat) : W64 := gangVa s b g + BitVec.ofNat 64 o
  match a.dest with
  | .none | .monitor _ => s
  | .lane r n signed =>
    let k := if n < 4 then 1 else n / 4
    let s := (lanesOf a.mask).foldl (fun s l =>
      let bs := laneValue a rs n l
      (List.range k).foldl (fun s j =>
        hubWrite s b.ctx (at_ (0x1000 + 128 * (r + j) + 4 * l)) (leBytes 4 (valueWord bs n j signed).toNat)) s) s
    (List.range k).foldl (fun s j => imageClear s b.ctx (at_ (0x300 + (r + j) / 8)) ((r + j) % 8)) s
  | .scalar r =>
    if r = 0 then s
    else imageClear (hubWrite s b.ctx (at_ (8 * r)) (leBytes 8 (scalarValue a rs).toNat)) b.ctx (at_ (0x2E0 + r / 8)) (r % 8)
  | .pred k =>
    if k = 0 then s
    else
      let w : Mask := BitVec.ofNat 32 (leNat (valueBytes rs 0 4))
      let s := (lanesOf a.mask).foldl (fun s l =>
        let x := (hubRead s b.ctx (at_ (0x2C0 + l)) 1).getD 0 0
        let m : Byte := BitVec.ofNat 8 (2 ^ k)
        hubWrite s b.ctx (at_ (0x2C0 + l)) [if w.getLsbD l then x ||| m else x &&& ~~~m]) s
      imageClear s b.ctx (at_ 0x2E8) k

/-- The path counter in the image, and the header's count of completions due, fall by one (R254). -/
def imageLower (s : State) (b : Block) (g : Gang) (p : Option Nat) : State :=
  let s := match p with
    | some p =>
      let va := gangVa s b g + BitVec.ofNat 64 (0x240 + 2 * p)
      hubWrite s b.ctx va (leBytes 2 (leNat (hubRead s b.ctx va 2) - 1))
    | none => s
  match tabFind s.ctxs b.ctx with
  | some c =>
    let va := c.save + 0x18
    hubWrite s b.ctx va (leBytes 8 (leNat (hubRead s b.ctx va 8) - 1))
  | none => s

/-- A value for a saved gang; a read of MWAITV is taken again after the restore (R254). -/
def landSaved (g : Gang) (id : Nat) (a : Access) (rs : List (Nat × Req)) : Gang :=
  match a.dest with
  | .monitor e => { g with frags := tabUpd g.frags e fun f => match f.wait with
      | .mwaitvRead sd t _ => { f with wait := .mwaitvIdle sd t 0 }
      | _ => f }
  | _ => landValue g id a rs 0

/-- A completion is applied to the image (R253, R254). -/
def lateComplete (s : State) (id : Nat) (a : Access) (b : Block) (g : Gang) : State :=
  let s := if a.landed then s else
    { imageLand s b g a (accReqs s id) with
      savedGangs := tabPut s.savedGangs a.gang (landSaved g id a (accReqs s id)) }
  if accFree a && pathFirst s id a then
    dropAccess { imageLower s b g a.path with savedGangs := tabUpd s.savedGangs a.gang fun g => lowerPath g a.path } id
  else { s with accs := tabPut s.accs id { a with landed := true } }

/-- The lines of an image that a late completion writes serve it: those of the block's area, and that of the header's count (R254). -/
def lateRanges (s : State) (b : Block) (uid : Nat) : List (W64 × Nat) :=
  (areaVa s b.ctx uid, blockArea b) :: (match tabFind s.ctxs b.ctx with
    | some c => [(c.save + 0x18, 8)]
    | none => [])
def lateReady (s : State) (b : Block) (uid : Nat) : Bool :=
  (lateRanges s b uid).all fun r => hubReady s b.ctx .write r.1 r.2 && hubReady s b.ctx .read r.1 r.2

/-- LATE_COMPLETION_DELIVERY: a completion of a saved context lands in its image (R253, R254). -/
def execLateCompletionDelivery (access : Nat) (s : State) : Answer :=
  match tabFind s.accs access with
  | none => .next s
  | some a =>
    if accMoves s access a && routeOf s a == .saved then
      match tabFind s.savedGangs a.gang with
      | none => .next s
      | some g => match tabFind s.savedBlocks g.block with
        | none => .next s
        | some b =>
          if lateReady s b g.block then .next (lateComplete s access a b g)
          else .next ((lateRanges s b g.block).foldl (fun s r =>
            if hubReady s b.ctx .write r.1 r.2 then hubMiss s b.ctx .read r.1 r.2 else hubMiss s b.ctx .write r.1 r.2) s)
    else .next s

end Sys2Proof.Machine
end

