-- ==== Sys2Proof/Machine/Launcher.lean ====
section
/-! DEFINITION. LAUNCH and the hub's intake of its records (R336, R337). -/

namespace Sys2Proof.Machine

/-- Pad offset of a lane's launch record (R336, R337). -/
def launchOff (i : Issue) (f : Lane) (l : Nat) : W64 := low32 (srcVal i f.a.toNat 12 f.imm l) &&& ~~~(63 : W64)

/-- LAUNCH: the records are read from the pad; their statuses come from the hub (R337). -/
def execLaunch (f : Lane) (s : State) : Answer :=
  onIssue s fun i =>
    let row := laneRowD 6 2
    withRegs s i row f <|
      let act := activeMask i f.guard f.neg
      let lanes := lanesOf (act &&& ~~~i.g.helper)
      let ps := lanes.map fun l => innerPart l (launchOff i f l) 64 [] []
      let o := withPadr s i (noteLost i (laneUse row f.ty.toNat f.mod.toNat) f act i.g) (anyOutside s i.g.block i.b .p ps)
      let g := pushLatch o.2 (lanesMask i) o.2.turn fun _ => none
      let w : Want := { path := none, sets := setsNone, order := .rlx, scope := 1, space := .p, kind := .read,
                        dest := .lane f.dst.toNat 4 false, mask := act, urgent := false }
      let id := o.1.nextId
      let r := openAccess o.1 i g w (ps.map fun p => (0, [p]))
      let s := if lanes.isEmpty then r.1 else
        { r.1 with
          accs := tabUpd r.1.accs id fun a => { a with cmd := some 0 }
          disp := { r.1.disp with
            incoming := r.1.disp.incoming ++ lanes.map fun l => (i.cur.gang, id, l, bitsN f.mod.toNat 5 0, []) } }
      finish s i r.2 12

/-- Records of an execution may enter their queue: read, released, and after the earlier executions of their gang (R337). -/
def launchReady (s : State) (e : Nat × Nat × Nat × Nat × List Byte) : Bool :=
  accDone s e.2.1 && releaseDone s e.1 e.2.1 &&
  s.disp.incoming.all fun x => x.1 != e.1 || decide (e.2.1 ≤ x.2.1)

/-- The execution whose records enter next: its access and queue. While its ring write is parked, every later execution waits behind it,
of other gangs and contexts too, of which the spec says nothing (R337; DESIGN CHOICE, log 24). -/
def nextLaunch (s : State) : Option (Nat × Nat) :=
  (s.disp.incoming.find? (launchReady s)).map fun e => (e.2.1, e.2.2.2.1)

/-- LAUNCH from a context can add to a queue: it is enabled, device-fed, and the context's own (R337). -/
def queueTakes (s : State) (q ctx : Nat) : Bool :=
  (queueRingOf s q).isSome && regField s (.lqctl q) 4 4 == 1 && queueCtx s q == ctx

/-- Put the records of an execution into a queue in lane order, with a status for each (R326, R337). -/
def enqueueAll (s : State) (q ctx base size : Nat) (rs : List (Nat × List Byte)) : State × List (Nat × W64) :=
  match rs with
  | [] => (s, [])
  | (l, bs) :: r =>
    if seqDiff (queueTail s q) (queueHead s q) = size then
      let o := enqueueAll s q ctx base size r
      (o.1, (l, 1) :: o.2)
    else
      let s := hubWrite s ctx (BitVec.ofNat 64 (base + queueTail s q % size * 64)) bs
      let o := enqueueAll (setField s (.lqptr q) 31 0 ((queueTail s q + 1) % 2 ^ 32)) q ctx base size r
      (o.1, (l, 0) :: o.2)

/-- Slots of a ring that some records enter: those from TAIL on that are free (R326, R337). -/
def enqueueSlots (s : State) (q size n : Nat) : List Nat :=
  (List.range (min n (size - seqDiff (queueTail s q) (queueHead s q)))).map fun k => (queueTail s q + k) % 2 ^ 32 % size

/-- LAUNCH_ENQUEUE: the records of one execution enter their queue and the statuses return (R337). -/
def execLaunchEnqueue (s : State) : Answer :=
  match nextLaunch s with
  | none => .next s
  | some (access, q) =>
    let mine := s.disp.incoming.filter fun e => e.2.1 == access
    let recs := mine.map fun e => (e.2.2.1, valueBytes (accReqs s access) e.2.2.1 64)
    let ctx := match tabFind s.accs access with
      | some a => a.ctx
      | none => 0
    let done (s : State) (st : List (Nat × W64)) : State :=
      giveStatus { s with disp := { s.disp with incoming := s.disp.incoming.filter fun e => e.2.1 != access } } access st
    match queueRingOf s q with
    | none => .next (done s (recs.map fun r => (r.1, 2)))
    | some (base, size) =>
      if !queueTakes s q ctx then .next (done s (recs.map fun r => (r.1, 2)))
      else
        let vas := (enqueueSlots s q size recs.length).map fun k => (BitVec.ofNat 64 (base + 64 * k) : W64)
        if vas.all fun a => hubReady s ctx .write a 64 then
          let o := enqueueAll s q ctx base size recs
          .next (done o.1 o.2)
        else .next (vas.foldl (fun s a => hubMiss s ctx .write a 64) s)

end Sys2Proof.Machine
end

