-- ==== Sys2Proof/Machine/Parks.lean ====
section
/-! DEFINITION. Park records, releases, cancels, and invalidations of cached translations (R162, R179, R233 to R237, R320, R338). -/

namespace Sys2Proof.Machine

/-- Code of a cause (R231). -/
def causeCode (c : Cause) : Nat :=
  match c with
  | .notMapped => 1 | .permission => 2 | .world => 3 | .poison => 4 | .tierFail => 6

/-- The context of a record is saved (R234). -/
def recordSaved (s : State) (x : ParkRec) : Bool :=
  match tabFind s.ctxs x.ctx with
  | some c => c.st == .saved
  | none => false

/-- The 64 bytes of a record (R234). -/
def recordBytes (s : State) (x : ParkRec) (seq : Nat) : List Byte :=
  padTo 64 (leBytes 4 seq ++ leBytes 2 x.world.toNat ++ leBytes 2 x.asid.toNat ++ leBytes 8 x.page.toNat ++
    leBytes 1 (causeCode x.cause) ++ leBytes 1 x.die ++
    leBytes 1 (x.spilled.toNat + 2 * (recordSaved s x).toNat + 4 * x.hub.toNat) ++ leBytes 1 0 ++ leBytes 4 x.count ++
    leBytes 9 x.cores.toNat ++ leBytes 7 0 ++ leBytes 8 x.pa ++ leBytes 2 x.ctx)

/-- Base and size of a park ring that has room (R235). -/
def parkRoom (s : State) (ring : Nat) : Option (Nat × Nat) :=
  match ringOf s (.pkringBase ring) 4 20 with
  | some (base, size) =>
    if seqDiff (regField s (.pkringSeq ring) 31 0) (regField s (.pkringSeq ring) 63 32) < size then some (base, size) else none
  | none => none

/-- The record that a die writes to a ring next: the oldest one open, once it has been open for DELAY cycles (R233). -/
def nextRecord (s : State) (die ring : Nat) : Option ParkRec :=
  match s.parks.records.find? fun x => x.die == die && x.ring == ring with
  | some x => if x.since + regField s .pkctl 23 8 ≤ s.cycle then some x else none
  | none => none

/-- Requests that parked while every record was open get their records (R233). -/
def openWaiting (s : State) : State :=
  s.parks.waiting.foldl (fun s w => match tabFind s.reqs w.1 with
    | some r => openRecord s w.1 r w.2.1 w.2.2
    | none => s) { s with parks := { s.parks with waiting := [] } }

/-- PARK_RECORD_WRITE (R233, R235). -/
def execParkRecordWrite (die ring : Nat) (s : State) : Answer :=
  match nextRecord s die ring, parkRoom s ring with
  | some x, some (base, size) =>
    let tail := regField s (.pkringSeq ring) 31 0
    let pa := base + tail % size * 64
    let bs := recordBytes s x tail
    if !physSent s ringUnit pa bs then .next (physSend s ringUnit 0 pa bs)
    else
      let s := setField (physPut s ringUnit pa bs) (.pkringSeq ring) 31 0 ((tail + 1) % 2 ^ 32)
      .next (openWaiting { s with parks := { s.parks with records := s.parks.records.erase x } })
  | _, _ => .next s

/-- Bytes of a page named by a SIZE field; none for SIZE 3 (R180, R255). -/
def sizeBytes (n : Nat) : Option Nat :=
  match n with
  | 0 => some (2 ^ 16)
  | 1 => some (2 ^ 21)
  | 2 => some (2 ^ 30)
  | _ => none

/-- An address lies in the page of `size` bytes that holds a 57-bit address, extended as a canonical one (R165, R255). -/
def inPage (a : W64) (addr size : Nat) : Bool :=
  let base : W64 := (BitVec.ofNat 57 (addr / size * size)).signExtend 64
  decide ((a - base).toNat < size)

/-- A release takes a parked request that is not chained (R236). -/
def releaseTakes (s : State) (r : Req) (cause : Cause) : Bool :=
  let addr := regField s .pkopva 56 16 * 65536
  bitN (regField s .pkop 7 4) (parkDie r) &&
  (if regField s .pkop 9 9 = 1 then
    match sizeBytes (regField s .pkop 3 2), cause with
    | some n, .poison | some n, .tierFail => decide (r.pa / n = addr / n)
    | _, _ => false
  else r.world.toNat == regField s .pkop 31 16 && r.asid.toNat == regField s .pkop 47 32 &&
    (match sizeBytes (regField s .pkop 3 2) with
      | some n => inPage r.va addr n
      | none => true))

/-- Parked requests with their park sequence. -/
def parkedReqs (s : State) : List (Nat × Nat × Option Nat × Cause × Req) :=
  s.reqs.filterMap fun e => match e.2.stage with
    | .parked c q ch _ => some (e.1, q, ch, c, e.2)
    | _ => none

/-- Put an entry into a list ordered by park sequence. -/
def bySeq (x : Nat × Nat) (l : List (Nat × Nat)) : List (Nat × Nat) :=
  match l with
  | [] => [x]
  | y :: r => if x.1 < y.1 then x :: y :: r else y :: bySeq x r

/-- The requests chained behind a request, in park order, each with those behind it (R162). -/
def chainedAfter (ps : List (Nat × Nat × Option Nat × Cause × Req)) (id n : Nat) : List Nat :=
  match n with
  | 0 => []
  | n + 1 =>
    let mine := (ps.filter fun e => e.2.2.1 == some id).foldl (fun l e => bySeq (e.2.1, e.1) l) []
    mine.flatMap fun e => e.2 :: chainedAfter ps e.2 n

/-- The requests that a release takes, in park order, each chained one behind the one it follows (R162, R236). -/
def releaseList (s : State) : List Nat :=
  let ps := parkedReqs s
  let heads := (ps.filter fun e => e.2.2.1.isNone && releaseTakes s e.2.2.2.2 e.2.2.2.1).foldl
    (fun l e => bySeq (e.2.1, e.1) l) []
  heads.flatMap fun e => e.2 :: chainedAfter ps e.2 ps.length

/-- A released request is a new request again; a write that its core's L1 has taken stays known by its line (R203, R214, R236). -/
def unpark (s : State) (id : Nat) : State :=
  updReq s id fun r =>
    if r.kind == .write then { r with stage := .walk, replayed := true }
    else { r with stage := .walk, pa := 0, entered := 0, replayed := true }

/-- Contexts of some requests. -/
def reqCtxs (s : State) (ids : List Nat) : List Nat := ids.filterMap fun id => (tabFind s.reqs id).map (·.ctx)

/-- PKSTAT of every die follows its store. -/
def noteParks (s : State) : State := (List.range 4).foldl notePark s

/-- Requests that wait for a record and are parked no longer wait for none. -/
def pruneWaiting (s : State) : State :=
  let parked (id : Nat) : Bool := match tabFind s.reqs id with
    | some r => isParked r
    | none => false
  { s with parks := { s.parks with waiting := s.parks.waiting.filter fun w => parked w.1 } }

/-- PARK_RELEASE. DONE, REPLAYED and REPARKED are cleared as a release starts, of which the spec says nothing (R236, R255; DESIGN CHOICE,
log 45). -/
def execParkRelease (s : State) : Answer :=
  if regField s .pkop 1 0 = 1 ∧ regField s .pkops 0 0 = 0 then
    let ids := releaseList s
    let cs := reqCtxs s ids
    let s := ids.foldl unpark s
    let s := setReg s .pkops (BitVec.ofNat 64 (1 + 2 ^ 32 * min ids.length 65535))
    let s := { s with
      parks := { s.parks with replay := ids, cancel := none }
      ctxs := s.ctxs.map fun e => (e.1, if cs.contains e.1 then { e.2 with needsReplay := false } else e.2) }
    .next (endRelease (noteParks (pruneWaiting s)))
  else .next s

/-- A context's gangs, blocks and matrix work are destroyed, and the accesses and LAUNCH records of blocks that have retired (R237,
R338). -/
def cancelBlocks (s : State) (ctx : Nat) : State :=
  let uids := ((s.blocks ++ s.savedBlocks).filter fun e => e.2.ctx == ctx).map (·.1)
  let s := (ctxBlocks s ctx).foldl (fun s e =>
    setReg s (.debug e.2.core 8) (wbit (reg s (.debug e.2.core 8)) e.2.index false)) s
  { s with
    gangs := s.gangs.filter fun e => !uids.contains e.2.block
    savedGangs := s.savedGangs.filter fun e => !uids.contains e.2.block
    blocks := s.blocks.filter fun e => e.2.ctx != ctx
    savedBlocks := s.savedBlocks.filter fun e => e.2.ctx != ctx
    stuffing := s.stuffing.filter fun e => !uids.contains (e.2.gang / 32)
    mq := tabMap s.mq fun q => q.filter fun e => !uids.contains e.block
    accs := s.accs.filter fun e => e.2.ctx != ctx
    cmds := s.cmds.filter fun e => match e.2.node with
      | some _ => e.2.ctx != ctx
      | none => !uids.contains e.2.block
    turns := s.turns.filter fun k => !uids.contains (k / 32)
    disp := { s.disp with incoming := s.disp.incoming.filter fun e => match tabFind s.accs e.2.1 with
      | some a => a.ctx != ctx
      | none => false } }

/-- A context's group memberships and census participation are discarded (R237, R320). -/
def cancelNetwork (s : State) (ctx : Nat) : State :=
  { s with
    groups := tabKeep s.groups fun g => g.ctx != ctx
    claims := s.claims.filter fun c => c.1 != ctx
    dirs := tabKeep s.dirs fun e => e.ctx != ctx
    handoffs := tabKeep s.handoffs fun h => h.ctx != ctx
    censuses := tabKeep s.censuses fun c => c.ctx != ctx
    asks := s.asks.filter fun a => a.census.ctx != ctx
    solicits := tabKeep (tabMap s.solicits fun q => q.filter fun m => m.ctx != ctx) fun q => !q.isEmpty
    deferred := s.deferred.filter fun e => e.2.ctx != ctx }

/-- What the unperformed writes of a context have put into L1 lines goes with them (R206, R228). -/
def dropWritten (s : State) (ctx : Nat) : State :=
  (s.reqs.filter fun e => e.2.ctx == ctx && writes e.2.kind && decide (e.2.entered ≠ 0) && e.2.stage != .done).foldl
    (fun s e => dropL1 s e.2.core e.2.pa) s

/-- A request of a domain unit, whose command runs to completion whatever becomes of its context (R346). -/
def ofDomain (r : Req) : Bool :=
  match r.unit with
  | some (9, _) => true
  | _ => false

/-- A context's parked and unperformed requests, and its open records, are discarded; a request of a domain unit stays, and one that is
parked is tried again (R228, R237, R346). -/
def cancelReqs (s : State) (ctx : Nat) : State :=
  let s := dropWritten s ctx
  let s := { s with
    reqs := tabMap (tabKeep s.reqs fun r => r.ctx != ctx || ofDomain r) fun r =>
      if r.ctx == ctx && isParked r then { r with stage := .walk, pa := 0, entered := 0 } else r
    parks := { s.parks with
      records := s.parks.records.filter fun x => x.ctx != ctx
      waiting := s.parks.waiting.filter fun w => (tabFind s.reqs w.1).any fun r => r.ctx != ctx
      replay := s.parks.replay.filter fun q => match tabFind s.reqs q with
        | some r => r.ctx != ctx || ofDomain r
        | none => false } }
  openWaiting (endRelease (noteParks s))

/-- The dispatcher forgets a context's launches: a record it has taken is consumed (R237, R338). -/
def cancelLaunches (s : State) (ctx : Nat) : State :=
  let mine := s.disp.launches.filter fun e => e.2.ctx == ctx
  let s := mine.foldl (fun s e =>
    if e.2.node.isNone && (e.2.graph || decide (e.2.placed < unitsOf e.2)) then advanceHead s e.2.queue else s) s
  let yields := s.disp.yields.filter fun y => y.victim != ctx
  { s with disp := { s.disp with
      launches := tabKeep s.disp.launches fun l => l.ctx != ctx
      graphs := s.disp.graphs.filter fun e => !mine.any fun l => l.1 == e.1
      restore := s.disp.restore.filter fun c => c != ctx
      yields := yields } }

/-- The descriptor of a context that is not in use says cancelled already (R229). -/
def ctxCancelled (s : State) (ctx : Nat) : Bool :=
  !ctxInUse s ctx && leAt (physReadOf s (ctxUnit ctx) (ctxAddr s ctx) 128) 64 4 == ctxCode .cancelled

/-- Cancel a context: everything of it is destroyed and STATE is cancelled (R237). -/
def cancelCtx (s : State) (ctx : Nat) : State :=
  let t := cancelLaunches (cancelReqs (cancelNetwork (cancelBlocks (refreshCtx s ctx) ctx) ctx) ctx) ctx
  if ctxCancelled s ctx then ctxRead t ctx else setCtxState (ctxRead t ctx) ctx .cancelled

/-- A cancel is over: DONE, once STATE is written (R237, R255). -/
def endCancel (s : State) (ctx : Nat) : State :=
  if posted s (ctxAddr s ctx + 64) then { s with parks := { s.parks with cancel := some (ctx, true) } }
  else setField (setField { s with parks := { s.parks with cancel := none } } .pkops 0 0 0) .pkops 1 1 1

/-- A cancel in progress goes on: the context is destroyed once its descriptor can be read, and DONE follows the write of STATE, after
which software may write a new descriptor (R229, R237). -/
def cancelOn (s : State) : State :=
  match s.parks.cancel with
  | none => s
  | some (ctx, true) => endCancel s ctx
  | some (ctx, false) => if ctxHeld s ctx then refreshCtx s ctx else endCancel (cancelCtx s ctx) ctx

/-- PARK_CANCEL: PKOP names the context; while a line of its descriptor is held, the cancel is in progress. Like a release it clears DONE
at its start, of which the spec says nothing (R237, R255; DESIGN CHOICE, log 45). -/
def execParkCancel (s : State) : Answer :=
  if regField s .pkop 1 0 = 2 ∧ regField s .pkops 0 0 = 0 then
    .next (cancelOn { setField (setField s .pkops 0 0 1) .pkops 1 1 0 with
      parks := { s.parks with cancel := some (regField s .pkop 63 48, false) } })
  else .next s

/-- INVALIDATION: XLINVC names what is invalidated (R179, R180). -/
def execInvalidation (s : State) : Answer :=
  if regField s .xlinvs 0 0 = 0 then
    let v : Nat × BitVec 16 × BitVec 16 × W64 × Nat :=
      (regField s .xlinvc 37 34, BitVec.ofNat 16 (regField s .xlinvc 31 16), BitVec.ofNat 16 (regField s .xlinvc 15 0),
       BitVec.ofNat 64 (regField s .xlinva 56 16 * 65536), regField s .xlinvc 33 32)
    .next (setField { s with caches := { s.caches with inval := some v } } .xlinvs 0 0 1)
  else .next s

/-- Die of a translation unit (R17). -/
def tlbDie (e : TlbEntry) : Nat := if e.sector then e.unit / 3 else dieOf e.unit

/-- A cached translation is covered by an invalidation (R179). -/
def invalCovers (v : Nat × BitVec 16 × BitVec 16 × W64 × Nat) (e : TlbEntry) : Bool :=
  let a := v.2.2.2.1.toNat
  bitN v.1 (tlbDie e) && e.world == v.2.1 && e.asid == v.2.2.1 && (match sizeBytes v.2.2.2.2 with
    | some n => decide (e.va < a / n * n + n) && decide (a / n * n < e.va + e.size)
    | none => true)

/-- A request translated by an entry that an invalidation covers is neither performed nor parked (R179). -/
def invalWaits (v : Nat × BitVec 16 × BitVec 16 × W64 × Nat) (r : Req) : Bool :=
  translated r.space && bitN v.1 (dieOf r.core) && r.world == v.2.1 && r.asid == v.2.2.1 && r.stage != .walk && !isParked r &&
  r.stage != .done && (match sizeBytes v.2.2.2.2 with
    | some n =>
      let a := v.2.2.2.1.toNat / n * n
      let b := r.va.toNat % 2 ^ 57 / r.leaf.size * r.leaf.size
      decide (b < a + n) && decide (a < b + r.leaf.size)
    | none => true)

/-- A walk for the ASID is in progress: an entry that another device homes is read for it (R179, R220). -/
def invalWalks (s : State) (v : Nat × BitVec 16 × BitVec 16 × W64 × Nat) (id : Nat) (r : Req) : Bool :=
  r.stage == .walk && r.world == v.2.1 && r.asid == v.2.2.1 && bitN v.1 (dieOf r.core) &&
    s.reqs.any fun e => isPhys (walkUnit id) e.2

/-- INVALIDATION_DONE: no covered entry is cached any more, and XLINVS.DONE is set (R179). -/
def execInvalidationDone (s : State) : Answer :=
  match s.caches.inval with
  | none => .next s
  | some v =>
    if s.reqs.any fun e => invalWaits v e.2 || invalWalks s v e.1 e.2 then .next s
    else
      let s := { s with caches := { s.caches with inval := none, tlb := s.caches.tlb.filter fun e => !invalCovers v e } }
      let s := (tabKeys s.ctxs).foldl hubWalked s
      .next (setField (setField s .xlinvs 0 0 0) .xlinvs 1 1 1)

end Sys2Proof.Machine
end

