-- ==== Sys2Proof/Machine/Preempt.lean ====
section
/-! DEFINITION. Pre-emption: the save image of a context, and its restore (R228, R249 to R252, R254, R281, R320). -/

namespace Sys2Proof.Machine

/-- Bytes the spec gives no layout for, from a free choice on (log 6). -/
def freeBytes (free n : Nat) : List Byte := ((List.range (n / 4)).flatMap fun k => leBytes 4 (Config.freeWord (free + k)).toNat)

/-- A register has a value still due from an access (R251). -/
def pendingBit (g : Gang) (r : RegName) : Bool := g.pend.any fun p => p.reg == r && (match p.due with
  | .access _ => true
  | .turn _ => false)

/-- Bytes of one bit per number. -/
def bitBytes (n : Nat) (p : Nat → Bool) : List Byte :=
  (List.range n).map fun k => BitVec.ofNat 8 (((List.range 8).map fun b => if p (8 * k + b) then 2 ^ b else 0).foldl (· + ·) 0)

/-- One split-table entry in a gang record; the code of its wait state is not given (R251; log 6). -/
def fragBytes (t : Tab Frag) (halted : Bool) (free e : Nat) : List Byte :=
  match tabFind t e with
  | some f => leBytes 8 f.pc.toNat ++ leBytes 4 f.mask.toNat ++ leBytes 1 (f.link.getD 0xFF) ++
      leBytes 1 (Config.freeWord (free + e)).toNat ++ leBytes 1 halted.toNat ++ leBytes 1 0
  | none => leBytes 12 0 ++ leBytes 1 0xFF ++ leBytes 3 0

/-- One join record in a gang record (R251). -/
def joinBytes (t : Tab JoinRec) (e : Nat) : List Byte :=
  match tabFind t e with
  | some j => leBytes 8 j.target.toNat ++ leBytes 4 j.expected.toNat ++ leBytes 4 j.arrived.toNat ++
      leBytes 1 (j.encl.getD 0xFF) ++ leBytes 1 1 ++ leBytes 14 0
  | none => leBytes 32 0

/-- The byte of a lane's predicates: k0 to k7 in bits 0 to 7 (R251). -/
def predByte (g : Gang) (l : Nat) : Byte :=
  BitVec.ofNat 8 (((List.range 8).map fun n => if pred g (BitVec.ofNat 3 n) l then 2 ^ n else 0).foldl (· + ·) 0)

/-- The gang record and registers of one gang; a retired gang holds zeros (R250, R251). -/
def gangRecord (g : Gang) (regs free : Nat) : List Byte :=
  if g.retired then List.replicate (4096 + 128 * regs) 0
  else
    let words (t : Tab W64) : List Byte := (List.range 64).flatMap fun n => leBytes 8 (tabGet t n 0).toNat
    words g.s ++
    ([g.gstat, g.gctl, g.tstat, g.tval, g.tpc, g.cpc, g.contv, g.fpctl].flatMap fun x => leBytes 8 x.toNat) ++
    ((List.range 4).flatMap fun p => leBytes 2 (pathCount g p)) ++ freeBytes free 8 ++
    leBytes 8 (g.monitor.getD 0).toNat ++ leBytes 8 g.monitor.isSome.toNat ++
    leBytes 4 g.bn.toNat ++ leBytes 12 0 ++ leBytes 16 0 ++
    ((List.range 16).flatMap fun k => leBytes 4 (tabGet g.stalls k 0).toNat) ++
    ((List.range 32).map (predByte g)) ++
    bitBytes 8 (fun n => pendingBit g (.s n)) ++ bitBytes 1 (fun n => pendingBit g (.k n)) ++ leBytes 7 0 ++
    leBytes 16 0 ++
    bitBytes 64 (fun n => pendingBit g (.v n)) ++ leBytes 192 0 ++
    ((List.range 32).flatMap (fragBytes g.frags g.halted (free + 2))) ++
    ((List.range 32).flatMap (joinBytes g.joins)) ++
    ((List.range 32).flatMap (fragBytes g.saved g.halted (free + 34))) ++
    ((List.range 4).flatMap fun b => (List.range 32).flatMap fun l => leBytes 8 (tabGet g.latch (4 * l + b) 0).toNat) ++
    ((List.range regs).flatMap fun n => allLanes.flatMap fun l => leBytes 4 (vreg g n l).toNat)

/-- One bit per gang of a block. -/
def gangBits (s : State) (uid : Nat) (p : Gang → Bool) : Nat :=
  (((liveGangs s uid).filter fun e => p e.2).map fun e => 2 ^ e.2.gid).foldl (· + ·) 0

/-- The memberships of a block: id, count and sector of each, in the 16 places of its header (R250, R275). -/
def memberFields (s : State) (uid : Nat) : List (Nat × Nat) :=
  let gs := (s.groups.filter fun e => e.2.members.contains uid).map fun e => [(2, e.2.id.toNat), (1, e.2.count), (1, e.1 / 64)]
  ((gs ++ List.replicate 16 [(2, 0), (1, 0), (1, 0)]).take 16).flatMap id

/-- The fields of a block header in the order the spec lists them, each with its bytes: launch number, block.x, y and z, rank, T,
gangs, registers, A, tiles, kinds, copy queue, phase, halted, arrivals at BSYNC, TSYNC and REGROUP, and memberships (R250). -/
def headerFields (s : State) (uid : Nat) (b : Block) : List (Nat × Nat) :=
  [(4, b.launch), (4, b.cx.toNat), (4, b.cy.toNat), (4, b.cz.toNat), (1, b.rank), (1, b.size), (1, b.gangs), (2, b.regs),
   (4, b.padSize), (1, b.acc), (2, b.kinds.toNat), (1, b.copyq), (4, b.phase.toNat), (1, b.halted.toNat),
   (4, gangBits s uid fun g => reached g .bsync), (4, gangBits s uid fun g => reached g .tsync),
   (4, gangBits s uid fun g => (regroupWord g).isSome)] ++ memberFields s uid

/-- Bytes of a block header that its listed fields leave over: the range-lock entries and what else it holds lie there, in a form
that is not given (R250; log 6). -/
def headerRoom : Nat := 1024 - (46 + 64)

/-- Fields one after another, each behind some free bytes. -/
def layFields (fs : List (Nat × Nat)) (room n free : Nat) : List Byte :=
  match fs with
  | [] => []
  | (k, v) :: r =>
    let gap := Config.headerGap n % (room + 1)
    ((List.range gap).map fun j => (Config.freeWord (free + j)).setWidth 8) ++ leBytes k v ++
      layFields r (room - gap) (n + 1) (free + gap)

/-- Where the n-th field of a block header begins, from the sizes of the fields. -/
def fieldOff (ks : List Nat) (room n at_ : Nat) : Nat :=
  match ks with
  | [] => at_
  | k :: r =>
    let gap := Config.headerGap n % (room + 1)
    if r.isEmpty then at_ + gap else fieldOff r (room - gap) (n + 1) (at_ + gap + k)

/-- The value of a field of a block header (R250, R252). -/
def headerField (s : State) (uid : Nat) (b : Block) (bs : List Byte) (n : Nat) : Nat :=
  let ks := (headerFields s uid b).map (·.1)
  leAt bs (fieldOff (ks.take (n + 1)) headerRoom 0 0) (ks.getD n 0)

/-- A block header of 1 KiB (R250; log 6). -/
def blockHeader (s : State) (uid : Nat) (b : Block) (free : Nat) : List Byte :=
  (layFields (headerFields s uid b) headerRoom 0 free ++ freeBytes (free + 1024) 1024).take 1024

/-- The area of one block (R250; log 6). -/
def blockRecord (s : State) (uid : Nat) (b : Block) (free : Nat) : List Byte :=
  let gang (g : Nat) : List Byte := match tabFind s.gangs (gangKey uid g) with
    | some x => gangRecord x b.regs (free + 2048 + 128 * g)
    | none => List.replicate (4096 + 128 * b.regs) 0
  padTo (blockArea b) (blockHeader s uid b free ++ (List.range b.gangs).flatMap gang ++
    padTo (round4k b.padSize) ((List.range b.padSize).map fun e => memByte b.pad e) ++
    (List.range (4096 * b.acc)).flatMap fun j => leBytes 4 (tabGet b.tiles j 0).toNat)

/-- Offsets of the blocks' areas in the order of the directory (R250). -/
def areaOffsets (bs : List (Nat × Block)) : List Nat :=
  bs.map fun e => areaFrom bs e.1 (round4k (0x100 + 8 * bs.length))

/-- Accesses of a context's gangs whose completion is still due. The header counts one for each: the payloads, barrier updates and
acknowledgements of a command are not counted apart, which the spec leaves open (R250, R254; DESIGN CHOICE, log 23). -/
def dueAccesses (s : State) (ctx : Nat) : List (Nat × Access) :=
  s.accs.filter fun e => match tabFind s.blocks (e.2.gang / 32) with
    | some b => b.ctx == ctx
    | none => false

/-- The header and directory of an image (R250). -/
def imageHeader (s : State) (ctx : Nat) (world : BitVec 16) (bs : List (Nat × Block)) : List Byte :=
  padTo (round4k (0x100 + 8 * bs.length))
    (padTo 0x100 (leBytes 4 1 ++ leBytes 4 ctx ++ leBytes 4 world.toNat ++ leBytes 4 bs.length ++
       leBytes 8 (imageSize (bs.map (·.2))) ++ leBytes 8 (dueAccesses s ctx).length) ++
     (areaOffsets bs).flatMap (leBytes 8))

/-- The whole image of a context (R250). -/
def imageBytes (s : State) (ctx : Nat) (world : BitVec 16) : List Byte :=
  let bs := ctxBlocks s ctx
  imageHeader s ctx world bs ++ bs.zipIdx.flatMap fun e => blockRecord s e.1.1 e.1.2 (s.tick + 8192 * e.2)

/-- Matrix entries of a context wait in a queue (R249). -/
def matrixOfCtx (s : State) (ctx : Nat) : Bool :=
  s.mq.any fun q => q.2.any fun e => match tabFind s.blocks e.block with
    | some b => b.ctx == ctx
    | none => false

/-- A pad or team access of a context can still be performed or completed (R249). -/
def padOfCtx (s : State) (ctx : Nat) : Bool :=
  (s.reqs.any fun e => e.2.ctx == ctx && (e.2.space == .p || e.2.space == .c) && homeReady s e.1 e.2) ||
  (dueAccesses s ctx).any fun e => accMoves s e.1 e.2 && routeOf s e.2 == .resident

/-- A saved gang: nothing that a core holds goes with it (R54, R197, R251). -/
def savedGang (g : Gang) : Gang :=
  let bare (t : Tab Frag) : Tab Frag := tabMap t fun f => { f with words := [] }
  { loseLatches g with frags := bare g.frags, saved := bare g.saved, monPa := none, woken := false }

/-- The context's blocks leave their cores for the image (R102, R249). -/
def takeOff (s : State) (ctx : Nat) : State :=
  let bs := ctxBlocks s ctx
  let mine (g : Gang) : Bool := bs.any fun e => e.1 == g.block
  let s := bs.foldl (fun s e => setReg s (.debug e.2.core 8) (wbit (reg s (.debug e.2.core 8)) e.2.index false)) s
  { s with
    savedGangs := (tabKeep s.gangs mine).foldl (fun t e => tabPut t e.1 (savedGang e.2)) s.savedGangs
    gangs := tabKeep s.gangs fun g => !mine g
    savedBlocks := bs.foldl (fun t e => tabPut t e.1 e.2) s.savedBlocks
    blocks := tabKeep s.blocks fun b => b.ctx != ctx
    turns := s.turns.filter fun k => !bs.any fun e => e.1 == k / 32
    stuffing := s.stuffing.filter fun e => !bs.any fun b => b.1 == e.2.gang / 32
    ctxs := tabUpd s.ctxs ctx fun c => { c with saved := bs.map (·.1), past := false } }

/-- A running program buffer of a context's gang ends: its latches are those it had, and they are lost with the save (R105). -/
def stopBuffers (s : State) (ctx : Nat) : State :=
  s.stuffing.foldl (fun s e => match tabFind s.blocks (e.2.gang / 32) with
    | some b => if b.ctx == ctx then stopBuffer s e.1 e.2.next 1 0 else s
    | none => s) s

/-- SAVE_IMAGE_WRITE: the image is written and STATE is saved (R249, R250). -/
def execSaveImageWrite (ctx : Nat) (s : State) : Answer :=
  match tabFind s.ctxs ctx with
  | none => .next s
  | some c =>
    if c.st ≠ .saving ∨ matrixOfCtx s ctx ∨ padOfCtx s ctx then .next s
    else
      let n := imageSize ((ctxBlocks s ctx).map (·.2))
      if !hubReady s ctx .write c.save n then .next (hubMiss s ctx .write c.save n)
      else
        let s := stopBuffers s ctx
        let t := hubWrite s ctx c.save (imageBytes s ctx c.world)
        .next (setCtxState (takeOff { t with tick := t.tick + 8192 * (ctxBlocks s ctx).length } ctx) ctx .saved)

/-- Bytes of a block's area in its image, from an offset on. -/
def areaRead (s : State) (uid : Nat) (b : Block) (o n : Nat) : List Byte :=
  hubRead s b.ctx (areaVa s b.ctx uid + BitVec.ofNat 64 o) n

/-- A split table from its bytes; waits stand as the core knew them (R251). -/
def fragsFrom (bs : List Byte) (old : Tab Frag) : Tab Frag :=
  (List.range 32).filterMap fun e =>
    let mask : Mask := BitVec.ofNat 32 (leAt bs (16 * e + 8) 4)
    if mask = 0 then none
    else
      let link := leAt bs (16 * e + 12) 1
      some (e, { pc := BitVec.ofNat 64 (leAt bs (16 * e) 8), mask := mask, link := if link = 0xFF then none else some link,
                 wait := match tabFind old e with
                   | some f => f.wait
                   | none => .running
                 words := [] })

/-- Join records from their bytes (R251). -/
def joinsFrom (bs : List Byte) : Tab JoinRec :=
  (List.range 32).filterMap fun e =>
    if leAt bs (32 * e + 17) 1 = 0 then none
    else
      let encl := leAt bs (32 * e + 16) 1
      some (e, { target := BitVec.ofNat 64 (leAt bs (32 * e) 8), expected := BitVec.ofNat 32 (leAt bs (32 * e + 8) 4),
                 arrived := BitVec.ofNat 32 (leAt bs (32 * e + 12) 4), encl := if encl = 0xFF then none else some encl })

/-- A gang from its record in the image (R251, R252): registers, counters, tables; its latches are lost. -/
def gangFrom (bs : List Byte) (regs : Nat) (g : Gang) : Gang :=
  let w (o : Nat) : W64 := BitVec.ofNat 64 (leAt bs o 8)
  let due (p : Pend) : Bool := match p.due, p.reg with
    | .turn _, _ => true
    | .access _, .s n => bitN (leAt bs (0x2E0 + n / 8) 1) (n % 8)
    | .access _, .k n => bitN (leAt bs 0x2E8 1) n
    | .access _, .v n => bitN (leAt bs (0x300 + n / 8) 1) (n % 8)
  { loseLatches g with
    s := (List.range 64).filterMap fun n => if n = 0 ∨ w (8 * n) = 0 then none else some (n, w (8 * n))
    gstat := w 0x200
    gctl := w 0x208
    tstat := w 0x210
    tval := w 0x218
    tpc := w 0x220
    cpc := w 0x228
    contv := w 0x230
    fpctl := w 0x238
    paths := (List.range 4).map fun p => (p, leAt bs (0x240 + 2 * p) 2)
    monitor := if leAt bs 0x258 8 = 0 then none else some (w 0x250)
    bn := BitVec.ofNat 32 (leAt bs 0x260 4)
    stalls := (List.range 16).map fun k => (k, BitVec.ofNat 32 (leAt bs (0x280 + 4 * k) 4))
    k := (List.range 7).map fun n => (n + 1, maskOf fun l => bitN (leAt bs (0x2C0 + l) 1) (n + 1))
    pend := g.pend.filter due
    frags := fragsFrom ((bs.drop 0x400).take 512) g.frags
    joins := joinsFrom ((bs.drop 0x600).take 1024)
    saved := fragsFrom ((bs.drop 0xA00).take 512) g.saved
    v := (List.range (32 * regs)).filterMap fun n =>
      let x : W32 := BitVec.ofNat 32 (leAt bs (0x1000 + 128 * (n / 32) + 4 * (n % 32)) 4)
      if x = 0 then none else some (n, x)
    woken := g.monitor.isSome
    yieldAck := false
    yieldStop := false }

/-- A gang from its record in the image: a retired one as it was (R251, R252). -/
def loadGang (s : State) (uid : Nat) (b : Block) (g : Gang) : Gang :=
  if g.retired then g else gangFrom (areaRead s uid b (gangOff b g.gid) (4096 + 128 * b.regs)) b.regs g

/-- A block's state from the image: its coordinates, tile kinds, phase, HALTED flag, pad and tiles (R250, R252, R284). -/
def loadBlock (s : State) (uid : Nat) (b : Block) : Block :=
  let head := areaRead s uid b 0 1024
  let field := headerField s uid b head
  let pad := areaRead s uid b (padOff b) b.padSize
  let acc := areaRead s uid b (accOff b) (16384 * b.acc)
  { b with
    cx := BitVec.ofNat 32 (field 1)
    cy := BitVec.ofNat 32 (field 2)
    cz := BitVec.ofNat 32 (field 3)
    kinds := BitVec.ofNat 16 (field 10)
    phase := BitVec.ofNat 32 (field 12)
    halted := field 13 != 0
    haltReq := b.haltReq || (match tabFind s.savedBlocks uid with
      | some q => q.haltReq
      | none => false)
    pad := pad.zipIdx.filterMap fun e => if e.1 = 0 then none else some (e.2, e.1)
    tiles := (List.range (4096 * b.acc)).filterMap fun j =>
      let x : W32 := BitVec.ofNat 32 (leAt acc (4 * j) 4)
      if x = 0 then none else some (j, x) }

/-- Live gangs of a saved block, by key. -/
def savedLive (s : State) (uid : Nat) : List (Nat × Gang) :=
  s.savedGangs.filter fun e => e.2.block == uid && !e.2.retired

/-- What a saved block needs of its core: places for its live gangs (R20, R252). -/
def savedNeed (s : State) (uid : Nat) (b : Block) : Need :=
  { gangs := (savedLive s uid).length, regs := b.regs, pad := b.padSize, acc := b.acc, copyq := b.copyq }

/-- Cores that a saved block can be tried on as the first of its team: a responder's own, any for a block alone, the first of a
hardware team else (R38, R252, R320). -/
def restoreBases (s : State) (b : Block) : List Nat :=
  if b.responder.isSome then [b.core]
  else if b.size = 1 then searchOrder s
  else (searchOrder s).filter fun c => c % 4 == 0

/-- The team of a saved block fits from a base core on (R38, R252). -/
def teamFits (s : State) (team : List (Nat × Block)) (base : Nat) : Bool :=
  team.all fun e =>
    let core := if e.2.responder.isSome then e.2.core else base + e.2.rank
    (fitCore s core (savedNeed s e.1 e.2)).isSome

/-- One saved block is given places on a core: its gangs, and everything that names the core it issues from (R252). -/
def putBack (s : State) (uid : Nat) (b : Block) (core : Nat) : State :=
  match fitCore s core (savedNeed s uid b) with
  | none => s
  | some (index, places) =>
    let live := savedLive s uid
    let all := s.savedGangs.filter fun e => e.2.block == uid
    let gangOf (e : Nat × Gang) : Gang :=
      let p := ((live.zip places).find? fun x => x.1.1 == e.1).map (·.2)
      if e.2.retired then e.2 else { e.2 with pipe := (p.getD (0, 0)).1, slot := (p.getD (0, 0)).2 }
    let mineReq (r : Req) : Bool := match r.agent with
      | .gang k => k / 32 == uid
      | .hub => false
    { s with
      blocks := tabPut s.blocks uid { b with core := core, index := index }
      gangs := all.foldl (fun t e => tabPut t e.1 (gangOf e)) s.gangs
      reqs := tabMap s.reqs fun r => if mineReq r then { r with core := core } else r
      cmds := tabMap s.cmds fun c => if c.block == uid && c.node.isNone then { c with core := core } else c }

/-- A block that is being restored is read from the image (R102, R252). -/
def readBack (s : State) (e : Nat × Block) : State :=
  let b := loadBlock s e.1 e.2
  let t := { s with
    blocks := tabPut s.blocks e.1 b
    gangs := tabMap s.gangs fun g => if g.block == e.1 then loadGang s e.1 e.2 g else g }
  if b.halted then setReg t (.debug b.core 8) (wbit (reg t (.debug b.core 8)) b.index true) else t

/-- The saved teams of a context, each with its blocks. -/
def savedTeams (bs : List (Nat × Block)) : List (List (Nat × Block)) :=
  (bs.filter fun e => !bs.any fun x => x.2.team == e.2.team && decide (x.1 < e.1)).map fun e =>
    bs.filter fun x => x.2.team == e.2.team

/-- Put the teams of a context back one after another; none when one does not fit (R252). -/
def putTeams (s : State) (teams : List (List (Nat × Block))) : Option State :=
  match teams with
  | [] => some s
  | t :: r =>
    match t with
    | [] => putTeams s r
    | (_, b) :: _ =>
      match (restoreBases s b).find? (teamFits s t) with
      | none => none
      | some base => putTeams (t.foldl (fun s e =>
          putBack s e.1 e.2 (if e.2.responder.isSome then e.2.core else base + e.2.rank)) s) r

/-- The state with a saved context's blocks on cores again, if they all fit now (R252). -/
def placedBack (s : State) (ctx : Nat) : Option State := putTeams s (savedTeams (imageBlocks s ctx))

/-- Matches that waited for a saved context enter the solicit queues of their cores (R320). -/
def queueDeferred (s : State) (ctx : Nat) : State :=
  let mine := s.deferred.filter fun e => e.2.ctx == ctx
  mine.foldl (fun s e => { s with solicits := tabPut s.solicits e.1 (solicitQueue s e.1 ++ [e.2]) })
    { s with deferred := s.deferred.filter fun e => e.2.ctx != ctx }

/-- The placed blocks of a context being restored are read from the image; the cores' lines of its world go, and STATE is resident
(R228, R252). -/
def finishRestore (s : State) (ctx : Nat) (c : Ctx) : State :=
  let bs := ctxBlocks s ctx
  let t := bs.foldl readBack s
  let t := bs.foldl (fun t e => discardL1 t e.2.core c.world) t
  let t := { t with
    savedBlocks := tabKeep t.savedBlocks fun b => b.ctx != ctx
    savedGangs := t.savedGangs.filter fun e => !(imageBlocks s ctx).any fun b => b.1 == e.2.block
    ctxs := tabUpd t.ctxs ctx fun c => { c with saved := [] } }
  queueDeferred (setCtxState t ctx .resident) ctx

/-- CONTEXT_RESTORE: the blocks are placed and STATE is restoring; then they are read from the image and STATE is resident (R228,
R252). -/
def execContextRestore (ctx : Nat) (s : State) : Answer :=
  match tabFind s.ctxs ctx with
  | none => .next s
  | some c =>
    let n := imageSize ((imageBlocks s ctx).map (·.2))
    if c.st == .restoring then
      if hubReady s ctx .read c.save n then .next (hubTouch (finishRestore s ctx c) ctx c.save n) else .next (hubMiss s ctx .read c.save n)
    else if !(restorable s ctx && restoreTurn s ctx) then .next s
    else match placedBack s ctx with
      | none => .next s
      | some t => .next (setCtxState t ctx .restoring)

end Sys2Proof.Machine
end

