-- ==== Sys2Proof/Machine/Graph.lean ====
section
/-! DEFINITION. Kernel graphs: node and edge records, and the start and finish of nodes (R227, R333 to R335). -/

namespace Sys2Proof.Machine

/-- A graph instance with the launch of its GRAPH record, when it runs and nothing holds it. -/
def instanceOf (s : State) (launch : Nat) : Option (Launch × Graph) :=
  match tabFind s.disp.launches launch, tabFind s.disp.graphs launch with
  | some l, some g => if g.started && !g.held then some (l, g) else none
  | _, _ => none

/-- Some ranges of a context's memory serve the hub. -/
def rangesReady (s : State) (ctx : Nat) (k : ReqKind) (rs : List (W64 × Nat)) : Bool := rs.all fun r => hubReady s ctx k r.1 r.2

/-- Lines of some ranges that do not serve the hub park (R230). -/
def rangesMiss (s : State) (ctx : Nat) (k : ReqKind) (rs : List (W64 × Nat)) : State :=
  rs.foldl (fun s r => hubMiss s ctx k r.1 r.2) s

/-- The dispatcher has read some ranges (R220, R351). -/
def rangesTouch (s : State) (ctx : Nat) (rs : List (W64 × Nat)) : State := rs.foldl (fun s r => hubTouch s ctx r.1 r.2) s

/-- Where a node's record stands, and where its outgoing edges do (R333). -/
def nodeRange (g : Graph) (n : Nat) : W64 × Nat := (g.nodes + BitVec.ofNat 64 (64 * n), 64)
def outRange (g : Graph) (r : List Byte) : W64 × Nat := (g.edges + BitVec.ofNat 64 (32 * leAt r 4 4), 32 * leAt r 8 2)

/-- A node's record, and an edge's (R333). -/
def nodeRec (s : State) (l : Launch) (g : Graph) (n : Nat) : List Byte :=
  hubRead s l.ctx (g.nodes + BitVec.ofNat 64 (64 * n)) 64
def edgeRec (s : State) (l : Launch) (g : Graph) (e : Nat) : List Byte :=
  hubRead s l.ctx (g.edges + BitVec.ofNat 64 (32 * e)) 32

/-- Fields of a node record (R333). -/
def nodeKind (r : List Byte) : Nat := leAt r 0 1
def nodeIn (r : List Byte) : Nat := leAt r 2 2
def nodeAddr (r : List Byte) : W64 := BitVec.ofNat 64 (leAt r 16 8)
def nodeValue (r : List Byte) : W64 := BitVec.ofNat 64 (leAt r 24 8)
def nodeCode (r : List Byte) : Nat := leAt r 32 1
def loopCap (r : List Byte) : Nat := leAt r 36 4
def loopBody (r : List Byte) : Nat := leAt r 40 4
def loopLast (r : List Byte) : Nat := leAt r 44 4

/-- Indices of a node's outgoing edges (R333). -/
def nodeOut (r : List Byte) : List Nat := (List.range (leAt r 8 2)).map fun k => leAt r 4 4 + k

/-- A node record keeps R333. -/
def nodeOk (g : Graph) (r : List Byte) : Bool :=
  zeroAt r 1 1 && zeroAt r 10 6 && (leAt r 8 2 == 0 || decide (leAt r 4 4 + leAt r 8 2 ≤ g.ne)) &&
  (match nodeKind r with
    | 0 | 1 => zeroAt r 24 40
    | 2 => leAt r 16 8 % 8 == 0 && decide (nodeCode r ≤ 5) && zeroAt r 33 31
    | 3 => leAt r 16 8 % 8 == 0 && decide (nodeCode r ≤ 5) && zeroAt r 33 3 && decide (1 ≤ loopCap r) &&
        decide (loopBody r < g.nn) && decide (loopLast r < g.nn) && zeroAt r 48 16
    | 4 | 6 => leAt r 16 8 % 8 == 0 && zeroAt r 32 32
    | 5 => leAt r 16 8 % 8 == 0 && decide (nodeCode r ≤ 1) && zeroAt r 33 31
    | _ => false)

/-- Fields of an edge record (R333). -/
def edgeTo (e : List Byte) : Nat := leAt e 4 4
def edgeTag (e : List Byte) : Nat := leAt e 8 1
def edgeRegions (e : List Byte) : Nat := leAt e 10 2

/-- An edge record keeps R333. -/
def edgeOk (g : Graph) (n : Nat) (e : List Byte) : Bool :=
  leAt e 0 4 == n && decide (edgeTo e < g.nn) && decide (edgeTag e ≤ 4) && zeroAt e 9 1 && zeroAt e 12 4 && zeroAt e 24 8 &&
  decide (edgeRegions e ≤ 4096)

/-- Address and bytes of an edge's region entries. -/
def regionTable (e : List Byte) : W64 × Nat := (BitVec.ofNat 64 (leAt e 16 8), 16 * edgeRegions e)

/-- Regions that an edge lists: base and length (R333). -/
def regionsOf (s : State) (l : Launch) (e : List Byte) : List (W64 × Nat) :=
  (List.range (edgeRegions e)).map fun k =>
    let x := hubRead s l.ctx ((regionTable e).1 + BitVec.ofNat 64 (16 * k)) 16
    (BitVec.ofNat 64 (leAt x 0 8), leAt x 8 8)

/-- Change an instance. -/
def updGraph (s : State) (launch : Nat) (f : Graph → Graph) : State :=
  { s with disp := { s.disp with graphs := tabUpd s.disp.graphs launch f } }

/-- A node enters a state (R334). -/
def setNode (s : State) (launch n : Nat) (st : NodeState) : State :=
  updGraph s launch fun g => { g with node := tabPut g.node n st }

/-- The lines of a region are written to their backing: here, or by a request where another device homes them, or their walk or their
write waits (R198, R220, R227, R374). -/
def cleanRegion (s : State) (ctx : Nat) (r : W64 × Nat) : State :=
  (rangeLines r.1 r.2).foldl (fun s a =>
    if (hubHeld s ctx a).isSome then hubReq s ctx none (.cmo 0) .rlx 3 a 0 []
    else match hubPa s ctx .read a with
    | some (pa, leaf) =>
      if isRemote s pa || heldLine s (homeOf s pa leaf 288) pa then hubReq s ctx none (.cmo 0) .rlx 3 a 0 []
      else cleanBasin (cleanSlice s (homeOf s pa leaf 288) pa) pa
    | none => s) s

/-- Lines of another device that a taken edge of the context lists are still being cleaned (R220, R227). -/
def cleaning (s : State) (ctx : Nat) : Bool := s.reqs.any fun e => e.2.agent == .hub && e.2.ctx == ctx && isCmo e.2.kind

/-- The regions of a taken edge are cleaned at the producer (R227). -/
def cleanRegions (s : State) (ctx : Nat) (rs : List (W64 × Nat)) : State :=
  rs.foldl (fun s r => cleanRegion s ctx r) s

/-- One edge is resolved (R334). -/
def resolveEdge (s : State) (launch : Nat) (l : Launch) (take : Bool) (e : List Byte) : State :=
  let tgt := edgeTo e
  let rs := if take then regionsOf s l e else []
  let s := cleanRegions s l.ctx rs
  updGraph s launch fun g => { g with
    seen := tabPut g.seen tgt (tabGet g.seen tgt 0 + 1)
    taken := if take then tabPut g.taken tgt (tabGet g.taken tgt 0 + 1) else g.taken
    regions := if rs.isEmpty then g.regions else tabPut g.regions tgt (tabGet g.regions tgt [] ++ rs) }

/-- Resolve some edges of a node: each is read, checked, and taken or skipped by its tag; one that breaks R333 holds the instance
(R334). -/
def resolveEdges (s : State) (launch n : Nat) (take : Nat → Bool) (es : List (List Byte)) : State :=
  match es with
  | [] => s
  | e :: r =>
    match instanceOf s launch with
    | none => s
    | some (l, g) =>
      if edgeOk g n e then resolveEdges (resolveEdge s launch l (take (edgeTag e)) e) launch n take r
      else graphBad s launch n 1

/-- Edge records of a node. -/
def outEdges (s : State) (l : Launch) (g : Graph) (r : List Byte) : List (List Byte) := (nodeOut r).map (edgeRec s l g)

/-- The region entries of a node's edges translate for the hub. -/
def regionsReady (s : State) (l : Launch) (es : List (List Byte)) : Bool :=
  es.all fun e => hubReady s l.ctx .read (regionTable e).1 (regionTable e).2

/-- Region entries that do not translate park. -/
def regionsMiss (s : State) (l : Launch) (es : List (List Byte)) : State :=
  es.foldl (fun s e => hubMiss s l.ctx .read (regionTable e).1 (regionTable e).2) s

/-- Targets of the edges of some nodes, a LOOP node's own edges apart (R335). -/
def bodyStep (s : State) (l : Launch) (g : Graph) (loop : Nat) (ns : List Nat) : List Nat :=
  let next := (ns.filter fun n => n != loop).flatMap fun n => (outEdges s l g (nodeRec s l g n)).map edgeTo
  next.foldl (fun t n => if t.contains n then t else t ++ [n]) ns

/-- The nodes of a LOOP's body (R335). -/
def bodyNodes (s : State) (l : Launch) (g : Graph) (loop : Nat) (k : Nat) (ns : List Nat) : List Nat :=
  match k with
  | 0 => ns
  | k + 1 => bodyNodes s l g loop k (bodyStep s l g loop ns)

/-- A node lies inside the body of a LOOP (R334, R335). -/
def inBody (s : State) (l : Launch) (g : Graph) (n : Nat) : Bool :=
  (List.range g.nn).any fun k =>
    let r := nodeRec s l g k
    k != n && nodeKind r == 3 && (bodyNodes s l g k g.nn [loopBody r]).contains n

/-- Every incoming edge of a waiting node is resolved; one without incoming edges is ready where it is not inside a LOOP body
(R334). -/
def nodeReady (s : State) (l : Launch) (g : Graph) (n : Nat) : Bool :=
  decide (n < g.nn) && tabGet g.node n .waiting == .waiting &&
  (let k := nodeIn (nodeRec s l g n)
   decide (k ≤ tabGet g.seen n 0) && (k != 0 || !inBody s l g n))

/-- Edges of the table that lead to a node. -/
def incoming (s : State) (l : Launch) (g : Graph) (n : Nat) : Nat :=
  ((List.range g.ne).filter fun e => edgeTo (edgeRec s l g e) == n).length

/-- A node's INCNT is not the number of its incoming edges, as far as the dispatcher can read the edge table: more of them are
resolved already, or the whole table says so (R333, R334; log 24). -/
def incntBad (s : State) (l : Launch) (g : Graph) (n : Nat) : Bool :=
  let k := nodeIn (nodeRec s l g n)
  decide (k < tabGet g.seen n 0) || (hubReady s l.ctx .read g.edges (32 * g.ne) && incoming s l g n != k)

/-- A KERNEL node's launch, at the GRAPH record's queue (R334). -/
def startKernel (s : State) (launch n : Nat) (l : Launch) (g : Graph) (r : List Byte) : State :=
  if !hubReady s l.ctx .read (nodeAddr r) 64 then hubMiss s l.ctx .read (nodeAddr r) 64
  else
    let x := hubRead s l.ctx (nodeAddr r) 64
    let d : W64 := BitVec.ofNat 64 (leAt x 0 8)
    if leAt x 31 1 ≠ 0 then graphBad s launch n 0
    else if !hubReady s l.ctx .read d 32 then hubMiss s l.ctx .read d 32
    else
      let k := parseKernel (hubRead s l.ctx d 32)
      let s := rangesTouch s l.ctx [(nodeAddr r, 64), (d, 32)]
      match refusal x k, k with
      | none, some k =>
        let t := takeNumber s
        let y := { launchOf x k l.queue l.slotSeq l.ctx l.prio with node := some (launch, n), regions := tabGet g.regions n [] }
        let s := t.2
        setNode { s with disp := { s.disp with launches := tabPut s.disp.launches t.1 y } } launch n .running
      | _, _ => graphBad s launch n 0

/-- A COPY node's command for the hub's copy unit (R333, R334). -/
def startNodeCopy (s : State) (launch n : Nat) (l : Launch) (r : List Byte) : State :=
  if !hubReady s l.ctx .read (nodeAddr r) 64 then hubMiss s l.ctx .read (nodeAddr r) 64
  else match parseDesc (hubRead s l.ctx (nodeAddr r) 64) with
    | none => graphBad s launch n 0
    | some d =>
      let s := hubTouch s l.ctx (nodeAddr r) 64
      if d.ssp ≠ .g ∨ d.dsp ≠ .g ∨ d.bar.isSome ∨ d.mc then graphBad s launch n 0
      else
        let own := s.nextId
        let c : Cmd :=
          { kind := .copy, gang := gangKey own 0, before := [], access := own, block := own, core := 288, ssp := .g, dsp := .g,
            src := d.src, dst := d.dst, esz := d.esz, ext := d.ext, str := d.str, side := d.side,
            total := copyTotal d.esz d.ext, bar := none, arr := false, stamp := d.stamp, follow := none, locks := [],
            group := 0, rbar := 0, range := none, waiting := [], acks := [], buf := [], landed := 0, started := true,
            barDone := false, stampDone := false, done := false, node := some (launch, n), ctx := l.ctx, refused := false }
        setNode (startCopy { s with nextId := own + 1 } c) launch n .running

/-- The unit number by which a node's own request is known. -/
def nodeUnit (launch n : Nat) : Nat × Nat := (1, 65536 * launch + n)

/-- A SIGNAL node's write: a release at sys scope (R334). -/
def startSignal (s : State) (launch n : Nat) (l : Launch) (r : List Byte) : State :=
  let kind : ReqKind := if nodeCode r = 0 then .write else .rmw .add 2
  setNode (hubReq s l.ctx (some (nodeUnit launch n)) kind .rel 5 (nodeAddr r) 8 (leBytes 8 (nodeValue r).toNat)) launch n .running

/-- A node runs as its kind says (R334). -/
def startNode (s : State) (launch n : Nat) (l : Launch) (g : Graph) (r : List Byte) : State :=
  match nodeKind r with
  | 0 => startKernel s launch n l g r
  | 1 => startNodeCopy s launch n l r
  | 5 => startSignal s launch n l r
  | 6 => raiseEvent (setNode s launch n .running) (sourceId 1 0) 0x0005 (queueRing s l.queue) (leBytes 4 launch ++ leBytes 4 n)
      (ctxWorld s l.ctx)
  | _ => setNode s launch n .running

/-- GRAPH_NODE_START (R334). -/
def execGraphNodeStart (launch node : Nat) (s : State) : Answer :=
  match instanceOf s launch with
  | none => .next s
  | some (l, g) =>
    if g.nn ≤ node ∨ tabGet g.node node .waiting ≠ .waiting then .next s
    else if !rangesReady s l.ctx .read [nodeRange g node] then .next (rangesMiss s l.ctx .read [nodeRange g node])
    else
      let r := nodeRec s l g node
      if incntBad s l g node then .next (graphBad s launch node 0)
      else if !nodeReady s l g node || cleaning s l.ctx then .next s
      else if !nodeOk g r then .next (graphBad s launch node 0)
      else if nodeIn r ≠ 0 ∧ tabGet g.taken node 0 = 0 then
        if !rangesReady s l.ctx .read [outRange g r] then .next (rangesMiss s l.ctx .read [outRange g r])
        else .next (rangesTouch (resolveEdges (setNode s launch node .skipped) launch node (fun _ => false) (outEdges s l g r)) l.ctx
          [nodeRange g node, outRange g r])
      else .next (rangesTouch (startNode s launch node l g r) l.ctx [nodeRange g node])

/-- The 8-byte word a node reads or watches. -/
def nodeWord (s : State) (l : Launch) (r : List Byte) : W64 := BitVec.ofNat 64 (leNat (hubRead s l.ctx (nodeAddr r) 8))

/-- The condition of a COND or LOOP node (R80, R333). -/
def nodeCond (s : State) (l : Launch) (r : List Byte) : Bool :=
  let w := nodeWord s l r
  let v := nodeValue r
  match nodeCode r with
  | 0 => w == v
  | 1 => w != v
  | 2 => w.slt v
  | 3 => !w.slt v
  | 4 => w.ult v
  | _ => !w.ult v

/-- The launch of a KERNEL node. -/
def nodeLaunch (s : State) (launch n : Nat) : Option (Nat × Launch) :=
  (s.disp.launches.find? fun e => e.2.node == some (launch, n)).map fun e => (e.1, e.2)

/-- A running node other than a LOOP has finished; a COPY has once every byte is performed, whatever its stamp waits for (R334). -/
def nodeOver (s : State) (launch n : Nat) (l : Launch) (r : List Byte) : Bool :=
  match nodeKind r with
  | 0 => (match nodeLaunch s launch n with
    | some (_, x) => launchOver s x && x.done.isNone
    | none => false)
  | 1 => !s.cmds.any fun c => c.2.node == some (launch, n) && !c.2.barDone
  | 2 => true
  | 5 => (match unitReq s (nodeUnit launch n) with
    | some (_, q) => q.stage == .done
    | none => false)
  | _ => decide ((nodeWord s l r - nodeValue r).toNat < 2 ^ 63)

/-- Tags taken when a node finishes: ALWAYS, and TRUE or FALSE of a COND (R334). -/
def tagTaken (cond : Bool) (kind tag : Nat) : Bool := tag == 0 || (kind == 2 && tag == (if cond then 1 else 2))

/-- What a finished node leaves behind is gone. -/
def clearNode (s : State) (launch n : Nat) (r : List Byte) : State :=
  match nodeKind r with
  | 0 => (match nodeLaunch s launch n with
    | some (k, _) => { s with disp := { s.disp with launches := tabDel s.disp.launches k } }
    | none => s)
  | 5 => (match unitReq s (nodeUnit launch n) with
    | some (id, _) => dropReq s id
    | none => s)
  | _ => s

/-- Body nodes wait again, with no edge resolved (R335). -/
def resetBody (g : Graph) (ns : List Nat) : Graph :=
  { g with
    node := g.node.filter fun e => !ns.contains e.1
    seen := g.seen.filter fun e => !ns.contains e.1
    taken := g.taken.filter fun e => !ns.contains e.1
    regions := g.regions.filter fun e => !ns.contains e.1
    looping := g.looping.filter fun e => !ns.contains e.1 }

/-- A LOOP has a pass to decide: none yet, or LAST is done (R335). -/
def loopTurn (g : Graph) (n : Nat) (r : List Byte) : Bool :=
  (tabFind g.looping n).isNone || tabGet g.node (loopLast r) .waiting == .done

/-- Where a LOOP node's trip count stands in the work area: 4 bytes among the node's 16 (R333, R335; log 24). -/
def tripVa (g : Graph) (n : Nat) : W64 := g.work + BitVec.ofNat 64 (16 * n + Config.tripAt % 13)

/-- Trips of a LOOP so far (R335). -/
def tripsOf (s : State) (l : Launch) (g : Graph) (n : Nat) : Nat :=
  if (tabFind g.looping n).isNone then 0 else leNat (hubRead s l.ctx (tripVa g n) 4)

/-- Nodes of a LOOP's body apart from itself. -/
def loopNodes (s : State) (l : Launch) (g : Graph) (n : Nat) (r : List Byte) : List Nat :=
  (bodyNodes s l g n g.nn [loopBody r]).filter fun k => k != n

/-- The records that a pass of a LOOP reads: those of its body's nodes and their edges (R335). -/
def loopRanges (s : State) (l : Launch) (g : Graph) (n : Nat) (r : List Byte) : List (W64 × Nat) :=
  (loopNodes s l g n r).flatMap fun k => [nodeRange g k, outRange g (nodeRec s l g k)]

/-- One decision of a LOOP: another pass, or its end (R335). -/
def loopStep (s : State) (launch n : Nat) (l : Launch) (g : Graph) (r : List Byte) : State :=
  let c := nodeCond s l r
  let trips := tripsOf s l g n
  let es := outEdges s l g r
  if c ∧ trips < loopCap r then
    let body := loopNodes s l g n r
    let s := updGraph (hubWrite s l.ctx (tripVa g n) (leBytes 4 (trips + 1))) launch fun g =>
      let g := resetBody g body
      { g with looping := tabPut g.looping n () }
    resolveEdges s launch n (fun _ => true) (es.filter fun e => edgeTag e == 3)
  else
    let s := if c then
        raiseEvent s (sourceId 1 0) 0x0007 (queueRing s l.queue) (leBytes 4 launch ++ leBytes 4 n ++ leBytes 4 trips)
          (ctxWorld s l.ctx)
      else s
    let es := if trips = 0 then es else es.filter fun e => edgeTag e != 3
    resolveEdges (setNode s launch n .done) launch n (fun t => t == 4) es

/-- The words a node reads translate for the hub. -/
def wordReady (s : State) (l : Launch) (r : List Byte) : Bool :=
  nodeKind r == 0 || nodeKind r == 1 || nodeKind r == 5 || hubReady s l.ctx .read (nodeAddr r) 8

/-- What the finish of a node reads: its record and edges, their region entries, and its word (R333). -/
def finishRanges (g : Graph) (n : Nat) (r : List Byte) (es : List (List Byte)) : List (W64 × Nat) :=
  [nodeRange g n, outRange g r] ++ es.map regionTable ++
    (if nodeKind r = 0 ∨ nodeKind r = 1 ∨ nodeKind r = 5 then [] else [(nodeAddr r, 8)])

/-- GRAPH_NODE_FINISH: a LOOP reads its condition word only once its pass is over (R227, R334, R335). -/
def execGraphNodeFinish (launch node : Nat) (s : State) : Answer :=
  match instanceOf s launch with
  | none => .next s
  | some (l, g) =>
    if tabGet g.node node .waiting ≠ .running then .next s
    else if !rangesReady s l.ctx .read [nodeRange g node, outRange g (nodeRec s l g node)] then
      .next (rangesMiss s l.ctx .read [nodeRange g node, outRange g (nodeRec s l g node)])
    else
      let r := nodeRec s l g node
      let es := outEdges s l g r
      if nodeKind r = 3 ∧ !loopTurn g node r then .next s
      else if !wordReady s l r then .next (hubMiss s l.ctx .read (nodeAddr r) 8)
      else if !regionsReady s l es then .next (regionsMiss s l es)
      else if nodeKind r = 3 then
        if !hubReady s l.ctx .write (tripVa g node) 4 then .next (hubMiss s l.ctx .write (tripVa g node) 4)
        else if !rangesReady s l.ctx .read (loopRanges s l g node r) then .next (rangesMiss s l.ctx .read (loopRanges s l g node r))
        else .next (rangesTouch (loopStep s launch node l g r) l.ctx (finishRanges g node r es ++ loopRanges s l g node r))
      else if nodeOver s launch node l r then
        let c := nodeCond s l r
        .next (rangesTouch (resolveEdges (setNode (clearNode s launch node r) launch node .done) launch node
          (tagTaken c (nodeKind r)) es) l.ctx (finishRanges g node r es))
      else .next (if nodeKind r = 0 ∨ nodeKind r = 1 ∨ nodeKind r = 5 then s else hubTouch s l.ctx (nodeAddr r) 8)

end Sys2Proof.Machine
end

