-- ==== Sys2Proof/Machine/DebugUnit.lean ====
section
/-! DEFINITION. The requests of the debugger to a core's debug unit: halt, resume, step, the program buffer, and samples (R98 to
R107). -/

namespace Sys2Proof.Machine

/-- The block that DHALT.BLK names on a core, when the unit is enabled and serves its context; one whose context is being restored
is still a saved one (R98, R102, R108). -/
def debugBlock (s : State) (core : Nat) : Option (Nat × Block) :=
  match s.blocks.find? fun e => e.2.core == core && e.2.index == regField s (.debug core 0x010) 22 18 && !restoring s e.2.ctx with
  | some e => if debugServes s e.2 then some (e.1, e.2) else none
  | none => none

/-- The saved block that DHALT.BLK names on a core, in place of one that is there (R102). -/
def debugSaved (s : State) (core : Nat) : Option (Nat × Block) :=
  s.savedBlocks.find? fun e =>
    e.2.core == core && e.2.index == regField s (.debug core 0x010) 22 18 && debugServes s e.2

/-- A request is refused (R98). -/
def denyDebug (s : State) (core : Nat) : State := setField s (.debug core 8) 32 32 1

/-- A gang would issue nothing at its next turn: it pauses or is at a FENCE, or its fragment waits (R101). -/
def stepWaits (s : State) (key : Nat) (g : Gang) (b : Block) : Bool :=
  let g := { g with turn := g.turn + 1 }
  g.pausing || g.fence.isSome || (match tabFind g.frags (slotHolder s key g b) with
    | some f => (fragReason s key g b f).isSome
    | none => true)

/-- A debug step ends; STEPWAIT when its gang waits (R101, R108). -/
def endStep (s : State) (key core : Nat) (waits : Bool) : State :=
  let s := { s with gangs := tabUpd s.gangs key fun g => { g with stepLeft := none } }
  if waits then setField s (.debug core 8) 33 33 1 else s

/-- A HALT written while a step runs ends the step (R101). -/
def endSteps (s : State) (uid : Nat) (b : Block) : State :=
  (liveGangs s uid).foldl (fun s e =>
    if stepping e.2 then endStep s e.1 b.core (stepWaits s e.1 e.2 b) else s) s

/-- DEBUG_HALT; of a saved block it takes effect at the restore (R98, R99, R101, R102). -/
def execDebugHalt (core : Nat) (s : State) : Answer :=
  match debugBlock s core with
  | none =>
    match debugSaved s core with
    | none => .next s
    | some (uid, b) =>
      if !debugPermitted s b.ctx b.world then .next (denyDebug s core)
      else if b.halted then .next s
      else .next { s with savedBlocks := tabPut s.savedBlocks uid { b with haltReq := true } }
  | some (uid, b) =>
    if !debugPermitted s b.ctx b.world then .next (denyDebug s core)
    else .next (if b.halted then endSteps s uid b else requestHalt s uid)

/-- HALT_COMPLETE: every gang of the block has had a turn since the request and has stopped; a block that is being
restored halts once it is read (R99, R100, R102, R107). -/
def execHaltComplete (block : Nat) (s : State) : Answer :=
  match tabFind s.blocks block with
  | none => .next s
  | some b =>
    if b.haltReq && !restoring s b.ctx && (liveGangs s block).all (fun e => e.2.atHalt) then
      let s := putBlock s block { b with haltReq := false, halted := true }
      let s := setReg s (.debug b.core 8) (wbit (reg s (.debug b.core 8)) b.index true)
      .next (traceRecord s b 2 0 0 0)
    else .next s

/-- A gang goes on after a resume: the debugger's halt or hold is over, and a trap's halt if a stuffed instruction has issued in
the gang since (R101, R103, R248). -/
def resumeGang (g : Gang) : Gang :=
  { g with halted := g.halted && !g.mended, mended := false, atHalt := false, held := none, skipBp := true, stepLeft := none }

/-- A block has something to resume: it is halted, or a halt is under way, or a gang holds at a breakpoint (R99, R101, R103). -/
def resumable (s : State) (uid : Nat) (b : Block) : Bool :=
  b.halted || b.haltReq || (liveGangs s uid).any fun e => e.2.held.isSome

/-- DEBUG_RESUME (R101). -/
def execDebugResume (core : Nat) (s : State) : Answer :=
  match debugBlock s core with
  | none => .next s
  | some (uid, b) =>
    if resumable s uid b then
      let s := putBlock s uid { b with halted := false, haltReq := false }
      let s := setReg s (.debug core 8) (wbit (reg s (.debug core 8)) b.index false)
      .next (traceRecord { s with gangs := tabMap s.gangs fun g => if g.block == uid then resumeGang g else g } b 3 0 0 0)
    else .next s

/-- DEBUG_STEP. A context without debug permission is refused whatever DHALT and the block hold (R98, R101; log 22). -/
def execDebugStep (core : Nat) (s : State) : Answer :=
  match debugBlock s core with
  | none => .next s
  | some (uid, b) =>
    let n := regField s (.debug core 0x010) 17 8
    let key := gangKey uid (regField s (.debug core 0x010) 7 3)
    if !debugPermitted s b.ctx b.world then .next (denyDebug s core)
    else if b.halted ∧ n ≠ 0 then
      .next { s with gangs := tabUpd s.gangs key fun g =>
        if g.retired then g else { g with held := none, skipBp := true, stepLeft := some n } }
    else .next s

/-- The gang and split-table entry that DBUFCTL names in a block (R105). -/
def bufferTarget (s : State) (core uid : Nat) : Option (Nat × Nat × Gang) :=
  let key := gangKey uid (regField s (.debug core 0x200) 9 5)
  let e := regField s (.debug core 0x200) 14 10
  match tabFind s.gangs key with
  | some g => if !g.retired && (tabFind g.frags e).isSome then some (key, e, g) else none
  | none => none

/-- PROGRAM_BUFFER_GO. A context without debug permission is refused whether the block is halted or not (R98, R105; log 22). -/
def execProgramBufferGo (core : Nat) (s : State) : Answer :=
  match debugBlock s core with
  | none => .next s
  | some (uid, b) =>
    if !debugPermitted s b.ctx b.world then .next (setReg (denyDebug s core) (.debug core 0x208) 0xC3)
    else if !b.halted ∨ (tabFind s.stuffing core).isSome then .next s
    else match bufferTarget s core uid with
      | none => .next s
      | some (key, e, g) =>
        let st : Stuffing :=
          { gang := key, entry := e, all := regField s (.debug core 0x200) 15 15 == 1, next := 0,
            count := regField s (.debug core 0x200) 3 0 + 1, first := s.nextId, latch := g.latch, latchDue := g.latchDue }
        .next { setReg s (.debug core 0x208) 1 with stuffing := tabPut s.stuffing core st }

/-- The next occupied slot of a core in the rotation over pipe and slot, pipe by pipe from slot 0, among blocks of the context
served: its number, gang and block (R98, R107; log 22). -/
def nextSlot (s : State) (core : Nat) : Option (Nat × Nat × Gang × Block) :=
  let from_ := tabGet s.dbgNext core 0
  ((List.range 32).map fun k => (from_ + k) % 32).findSome? fun n =>
    s.gangs.findSome? fun e => match tabFind s.blocks e.2.block with
      | some b =>
        if b.core == core && !e.2.retired && debugServes s b && 8 * e.2.pipe + e.2.slot == n then some (n, e.1, e.2, b) else none
      | none => none

/-- Cycles between samples (R108). -/
def samplePeriod (s : State) (core : Nat) : Nat := max 256 (regField s (.debug core 0x018) 23 0)

/-- A sample is due on a core, a period after the last one, and the first a period after reset (R107; log 22). -/
def sampleDue (s : State) (core : Nat) : Bool :=
  regField s (.debug core 0) 0 0 == 1 && regField s (.debug core 0) 2 2 == 1 &&
  decide (tabGet s.dbgLast core 0 + samplePeriod s core ≤ s.cycle)

/-- What a sample says of a gang's last turn: 16 where it issued, else the stall reason; of a gang that has had no turn, what its
first would count (R107; log 22). -/
def sampleDetail (s : State) (key : Nat) (g : Gang) (b : Block) : Nat :=
  if g.issued then 16 else g.lastStall.getD (stallIndex s key g b)

/-- PC of the fragment that holds a gang's slot. -/
def slotPc (g : Gang) : W64 :=
  match tabFind g.frags g.cur with
  | some f => f.pc
  | none => firstPc g

/-- DEBUG_SAMPLE (R107). -/
def execDebugSample (core : Nat) (s : State) : Answer :=
  if sampleDue s core then
    let t := { s with dbgLast := tabPut s.dbgLast core s.cycle }
    match nextSlot s core with
    | none => .next t
    | some (n, key, g, b) =>
      let t := { t with dbgNext := tabPut t.dbgNext core ((n + 1) % 32) }
      .next (putRecord t core fun seq => recordHeader seq b 0 g.gid (sampleDetail s key g b) (recordPc s b (slotPc g)))
  else .next s

end Sys2Proof.Machine
end

