-- ==== Sys2Proof/Machine/Domain.lean ====
section
/-! DEFINITION. The domain unit of a die, first-touch releases and the chip plain (R339 to R347, R356, R360). -/

namespace Sys2Proof.Machine

/-- A domain unit that does nothing. -/
def DomUnit.idle : DomUnit where
  step := .results
  cmd := none
  split := none
  old := []
  res := []
  counted := []
  clean := none
  ending := none

/-- A die's domain unit; after reset it does nothing. -/
def domUnit (s : State) (die : Nat) : DomUnit := tabGet s.dom die DomUnit.idle

/-- Set a die's domain unit. -/
def putDom (s : State) (die : Nat) (d : DomUnit) : State := { s with dom := tabPut s.dom die d }

/-- Ring of a die's domain commands: header address, slots and context, when enabled (R340, R347). -/
def domRing (s : State) (die : Nat) : Option (W64 × Nat × Nat) :=
  let log := regField s (.dcqbase die) 60 57
  if regField s (.dcqctl die) 0 0 = 1 ∧ 2 ≤ log ∧ log ≤ 8 then
    some ((BitVec.ofNat 57 (regField s (.dcqbase die) 56 6 * 64)).signExtend 64, 2 ^ log, regField s (.dcqctl die) 31 16)
  else none

/-- The unit knows the context that owns its ring: its descriptor, when the device does not hold it already (R229, R340). -/
def domOwner (s : State) (die : Nat) : State :=
  match domRing s die with
  | none => s
  | some (_, _, ctx) =>
    if (tabFind s.ctxs ctx).isSome then s
    else if ctxHeld s ctx then refreshCtx s ctx
    else match loadCtx s ctx with
      | some c => if ctxBound s ctx c then ctxRead { s with ctxs := tabPut s.ctxs ctx c } ctx else s
      | none => s

/-- The sequence that a die's unit waits for (R340, R347). -/
def domNext (s : State) (die : Nat) : Nat := regField s (.dcqstat die) 31 0

/-- Address of the slot of the next command (R340). -/
def domSlot (s : State) (die : Nat) (base : W64) (slots : Nat) : W64 :=
  base + BitVec.ofNat 64 (64 + 64 * ((domNext s die + 2 ^ 32 - 1) % 2 ^ 32 % slots))

/-- The command that a die's unit can take: its ring, its slot's address and bytes (R340). -/
def domCommand (s : State) (die : Nat) : Option (W64 × Nat × W64 × List Byte) :=
  match domRing s die with
  | none => none
  | some (base, slots, ctx) =>
    let va := domSlot s die base slots
    if (domUnit s die).cmd.isNone && hubReady s ctx .read va 64 then
      let r := hubRead s ctx va 64
      if leAt r 0 4 = domNext s die then some (base, ctx, va, r) else none
    else none

/-- The slot that the unit reads does not hold its command: one that has been read is read again, as MWAITV re-reads; a read that its
home does not serve now goes its way and may park, and the unit waits for its replay (R197, R340, R346). -/
def domMiss (s : State) (die : Nat) : State :=
  match domRing s die with
  | none => s
  | some (base, slots, ctx) =>
    let va := domSlot s die base slots
    if (domUnit s die).cmd.isSome then s
    else if hubReady s ctx .read va 64 then hubTouch s ctx va 64 else hubMiss s ctx .read va 64

/-- The unit number of a die's domain unit, whose requests no PARK.CANCEL stops (R346). -/
def domAgent (die : Nat) : Nat × Nat := (9, die)

/-- Writes that a domain unit sent to another device, or that parked, are not performed yet (R340, R346). -/
def domOpen (s : State) (die : Nat) : Bool := s.reqs.any fun e => e.2.unit == some (domAgent die) && e.2.stage != .done

/-- Performed writes of a domain unit leave. -/
def domTake (s : State) (die : Nat) : State := { s with reqs := s.reqs.filter fun e => e.2.unit != some (domAgent die) }

/-- DONE is performed: the next sequence is waited for, and the unit is idle (R340, R347). -/
def domOver (s : State) (die : Nat) : State :=
  putDom (setReg (domTake s die) (.dcqstat die) (BitVec.ofNat 64 ((domNext s die + 1) % 2 ^ 32))) die DomUnit.idle

/-- DONE is written, as a release: here at once, or by a request to the device that homes it (R220, R340). -/
def domDone (s : State) (die ctx : Nat) (base : W64) : State :=
  let s := hubAdd s ctx (some (domAgent die)) base
  if domOpen s die then putDom s die { domUnit s die with step := .over } else domOver s die

/-- A command has executed: its results and status, then DONE once they are performed, then the next sequence; a write that does not
translate parks and holds the unit until its replay (R340, R346). -/
def domEnd (s : State) (die : Nat) : State :=
  let d := domUnit s die
  match d.cmd, d.ending with
  | some (ctx, base, va), some (res, status) =>
    if domOpen s die then s
    else match d.step with
      | .over => domOver s die
      | .stamp => if hubReady s ctx (.rmw .add 2) base 8 then domDone s die ctx base else hubMiss s ctx (.rmw .add 2) base 8
      | .results =>
        if !hubReady s ctx .write (va + 32) 28 then hubMiss s ctx .write (va + 32) 28
        else if !hubReady s ctx (.rmw .add 2) base 8 then hubMiss s ctx (.rmw .add 2) base 8
        else
          let s := hubPut s ctx (va + 32) (((List.range 3).flatMap fun k => leBytes 8 (res.getD k 0)) ++ leBytes 4 status)
            (some (domAgent die))
          if domOpen s die then putDom s die { domUnit s die with step := .stamp } else domDone s die ctx base
  | _, _ => s

/-- A command ends with its results and status (R340). -/
def domFinish (s : State) (die : Nat) (res : List Nat) (status : Nat) : State :=
  domEnd (putDom s die { domUnit s die with split := none, old := [], res := [], clean := none, ending := some (res, status) }) die

/-- A command begins: the unit is busy until its DONE is written (R340, R347). -/
def domStart (s : State) (die ctx : Nat) (base va : W64) : State :=
  setField (putDom (hubTouch s ctx va 64) die { DomUnit.idle with cmd := some (ctx, base, va) }) (.dcqstat die) 32 32 1

/-- Address of a line lies in the HBM of a die (R350). -/
def inDieHbm (s : State) (die pa : Nat) : Bool := inHbm s pa && stackOf pa / 3 == die

/-- Status of an SLWB, or of a command of no known operation (R341). -/
def slwbStatus (s : State) (die : Nat) (r : List Byte) : Nat :=
  let pa := leAt r 8 8
  let len := leAt r 16 8
  if leAt r 4 1 ≠ 1 ∨ leAt r 5 1 ≠ 0 ∨ leAt r 6 1 ≠ 0 ∨ 2 ≤ leAt r 7 1 ∨ 2 ^ 48 ≤ leAt r 24 8 ∨ leAt r 60 4 ≠ 0 then 1
  else if pa % 64 ≠ 0 ∨ len % 64 ≠ 0 ∨ len < 64 ∨ 2 ^ 40 < len then 2
  else if !inDieHbm s die pa || !inDieHbm s die (pa + len - 1) then 2
  else 0

/-- A cached line of a slice is dirty. -/
def dirtyAt (s : State) (slice pa : Nat) : Bool :=
  match tabFind s.caches.l2 (lineKey slice pa) with
  | some c => c.dirty
  | none => false

/-- Write back some lines of slices, and remove them when asked to: the state, the dirty ones and the removed ones (R342, R343). -/
def cleanLines (s : State) (ls : List (Nat × Nat)) (inv : Bool) : State × Nat × Nat :=
  ls.foldl (fun o p =>
    let d := (dirtyAt o.1 p.1 p.2).toNat
    let t := cleanBasin (cleanSlice o.1 p.1 p.2) p.2
    if inv then (dropSlice t p.1 p.2, o.2.1 + d, o.2.2 + 1) else (t, o.2.1 + d, o.2.2)) (s, 0, 0)

/-- A line of some is dirty and cannot be written back now (R374). -/
def heldLines (s : State) (ls : List (Nat × Nat)) : Bool := ls.any fun p => heldLine s p.1 p.2

/-- Lines whose writes are held ask for the next epochs of their granules (R374). -/
def askHeld (s : State) (ls : List (Nat × Nat)) : State :=
  (ls.filter fun p => heldLine s p.1 p.2).foldl (fun s p => askReseal s (granuleOf p.2)) s

/-- One line of an SLWB at its instant: written back when dirty, removed when asked to; one that its slice no longer holds is not
handled (R342). -/
def slwbLine (s : State) (die : Nat) (p : Nat × Nat) (rest : List (Nat × Nat)) (inv : Bool) (a b : Nat) : State :=
  let held := (tabFind s.caches.l2 (lineKey p.1 p.2)).isSome
  let o := if held then cleanLines s [p] inv else (s, 0, 0)
  putDom o.1 die { domUnit o.1 die with clean := some (rest, inv, a + o.2.1, b + o.2.2) }

/-- SLWB: the checks, then one line at a time, then the end; requests come between its lines (R342; log 27). -/
def execSlwb (die : Nat) (s : State) : Answer :=
  let d := domUnit s die
  if d.ending.isSome then .next (domEnd s die)
  else match d.clean with
    | some (p :: rest, inv, a, b) => .next (slwbLine s die p rest inv a b)
    | some ([], _, a, b) => .next (domFinish s die [a, b, 0] 0)
    | none =>
      let s := domOwner s die
      match domCommand s die with
      | none => .next (domMiss s die)
      | some (base, ctx, va, r) =>
        if leAt r 4 1 = 2 then .next s
        else
          let st := slwbStatus s die r
          let s := domStart s die ctx base va
          if st ≠ 0 then .next (domFinish s die [0, 0, 0] st)
          else
            let pa := leAt r 8 8
            let ls := (l2LinesIn s pa (pa + leAt r 16 8)).filter fun p => p.1 / 48 == die && bitN (leAt r 24 8) (p.1 % 48)
            .next (putDom s die { domUnit s die with clean := some (ls, bitN (leAt r 7 1) 0, 0, 0) })

/-- Status of a DSPLIT (R341). -/
def dsplitStatus (s : State) (die : Nat) (r : List Byte) : Nat :=
  let d := leAt r 5 1
  let e := leAt r 6 1
  let n := countOnes (domMembers s die d) 48
  if leAt r 7 1 ≠ 0 ∨ leAt r 8 8 ≠ 0 ∨ leAt r 16 8 ≠ 0 ∨ leAt r 24 8 ≠ 0 ∨ leAt r 60 4 ≠ 0 then 1
  else if 7 < d ∨ 7 < e ∨ d = e ∨ n < 2 ∨ 32 < n ∨ (domLog s die d).isNone ∨ domMembers s die e ≠ 0 then 3
  else 0

/-- The upper half of a domain's members: its upper 2^(n-1) set bits (R343). -/
def upperHalf (m n : Nat) : Nat := m / 2 ^ (nthBit m 0 48 (2 ^ (n - 1))) * 2 ^ (nthBit m 0 48 (2 ^ (n - 1)))

/-- A request or a line of a leaf's domain is homed by the domain being split, or will be by the new one (R343, R355). -/
def domHit (s : State) (die dom dom2 leafDom : Nat) : Bool := usableDom s die leafDom == dom || leafDom == dom2

/-- Requests of a split's domains that their slices have accepted and not completed (R343). -/
def accepted (s : State) (die dom dom2 : Nat) : Bool :=
  s.reqs.any fun e => translated e.2.space && e.2.slice / 48 == die && domHit s die dom dom2 e.2.leaf.dom && e.2.accepted &&
    !jointStuck s e.1 e.2 && (e.2.stage == .home || e.2.stage == .ctrl || e.2.stage == .tier)

/-- Accepted requests that can have no effect for now are accepted no more: their home is found anew (R186, R343, R356). -/
def unaccept (s : State) (p : Req → Bool) : State :=
  { s with reqs := s.reqs.map fun e => (e.1, if p e.2 && jointStuck s e.1 e.2 then { e.2 with accepted := false } else e.2) }

/-- A request that a port has routed is unanswered (R343, R344). -/
def unanswered (r : Req) : Bool := !isParked r && r.stage != .walk && r.stage != .done && r.stage != .replay

/-- Requests of a split's domains that a die's ports routed and that are unanswered (R343, R344). -/
def routedOld (s : State) (die dom dom2 : Nat) : List Nat :=
  (s.reqs.filter fun e => translated e.2.space && e.2.slice / 48 == die && domHit s die dom dom2 e.2.leaf.dom && unanswered e.2 &&
    !isPlace s e.2).map
    (·.1)

/-- Lines that a split moves: those of its domain in the slices that leave, and those that the new domain, empty till now, homes from
the switch on (R343, R345; log 27). -/
def movingLines (s : State) (die dom dom2 up : Nat) : List (Nat × Nat) :=
  (s.caches.l2.filter fun e => e.1 / 2 ^ 50 / 48 == die &&
    ((usableDom s die e.2.dom == dom && bitN up (e.1 / 2 ^ 50 % 48)) || e.2.dom == dom2)).map
    fun e => (e.1 / 2 ^ 50, e.1 % 2 ^ 50 * 64)

/-- Held requests are examined again (R343, R356, R360, R362). -/
def releaseHolds (s : State) : State :=
  { s with reqs := tabMap s.reqs fun r => if r.stage == .hold then { r with stage := .home } else r }

/-- The masks after a split: the lower half stays, the upper half forms the new domain, and the top mask is cleared (R343). -/
def switchMasks (s : State) (die dom dom2 : Nat) : State :=
  let m := domMembers s die dom
  let n := (domLog s die dom).getD 1
  let up := upperHalf m n
  let s := (List.range (n - 1)).foldl (fun s k => setReg s (.dhash die dom2 k) (reg s (.dhash die dom k))) s
  let s := setReg s (.dhash die dom (n - 1)) 0
  setField (setField s (.dmemb die dom) 47 0 (m - up)) (.dmemb die dom2) 47 0 up

/-- DSPLIT: the checks and the hold; then, once accepted requests are done, the clean, the switch and the release; a line whose write to
the tier is held keeps it waiting (R343, R374). -/
def execDsplit (die : Nat) (s : State) : Answer :=
  let d := domUnit s die
  if d.ending.isSome then .next (domEnd s die)
  else match d.split with
    | some (dom, dom2, up) =>
      if !d.res.isEmpty || accepted s die dom dom2 then .next s
      else if heldLines s (movingLines s die dom dom2 up) then .next (askHeld s (movingLines s die dom dom2 up))
      else
        let o := cleanLines s (movingLines s die dom dom2 up) true
        let old := routedOld s die dom dom2
        let t := unaccept o.1 fun r => r.slice / 48 == die && domHit s die dom dom2 r.leaf.dom
        .next (releaseHolds (putDom (switchMasks t die dom dom2) die { d with old := old, res := [o.2.1, o.2.2, 0] }))
    | none =>
      let s := domOwner s die
      match domCommand s die with
      | none => .next (domMiss s die)
      | some (base, ctx, va, r) =>
        if leAt r 4 1 ≠ 2 then .next s
        else
          let st := dsplitStatus s die r
          let s := domStart s die ctx base va
          if st ≠ 0 then .next (domFinish s die [0, 0, 0] st)
          else
            let dom := leAt r 5 1
            let up := upperHalf (domMembers s die dom) ((domLog s die dom).getD 1)
            .next (putDom s die { domUnit s die with split := some (dom, leAt r 6 1, up) })

/-- A request of those routed under the old masks is still unanswered (R343). -/
def oldOpen (s : State) (id : Nat) : Bool :=
  match tabFind s.reqs id with
  | some r => unanswered r
  | none => false

/-- DSPLIT_COMPLETE: no request routed under the old masks is unanswered (R343). -/
def execDsplitComplete (die : Nat) (s : State) : Answer :=
  let d := domUnit s die
  if d.ending.isSome then .next (domEnd s die)
  else if d.res.isEmpty ∨ d.old.any (oldOpen s) then .next s
  else .next (domFinish s die d.res 0)

/-- Requests to a region that its slice has accepted and not completed (R356). -/
def regionBusy (s : State) (die region : Nat) : Bool :=
  s.reqs.any fun e => translated e.2.space && e.2.leaf.first && homeDie e.2.pa == die && e.2.pa / 65536 == region &&
    e.2.accepted && !jointStuck s e.1 e.2 && (e.2.stage == .home || e.2.stage == .ctrl || e.2.stage == .tier)

/-- Requests that a region's release held get a replay reply (R344, R356). -/
def replayRegion (s : State) (die region : Nat) : State :=
  { s with reqs := tabMap s.reqs fun r =>
      if r.stage == .hold && r.leaf.first && homeDie r.pa == die && r.pa / 65536 == region then { r with stage := .replay } else r }

/-- Forget a region: its entry, or that it was homed by HASH (R356, R364; log 26). -/
def forgetRegion (s : State) (die region : Nat) : State :=
  let used := (tabFind s.caches.first (die * 2 ^ 40 + region)).isSome
  let s := { s with caches := { s.caches with
    first := tabDel s.caches.first (die * 2 ^ 40 + region)
    turnedAway := tabDel s.caches.turnedAway (die * 2 ^ 40 + region)
    firstRel := s.caches.firstRel.filter fun x => x != (die, region) } }
  if used then setField s (.ftstat die) 15 0 (regField s (.ftstat die) 15 0 - 1) else s

/-- Requests to a region are held from now on (R356). -/
def holdRegion (s : State) (die region : Nat) : State :=
  if s.caches.firstRel.contains (die, region) then s
  else { s with caches := { s.caches with firstRel := s.caches.firstRel ++ [(die, region)] } }

/-- FIRST_TOUCH_RELEASE: requests to the region are held, its lines are written back and removed, its entry is freed, and the held
requests are replayed (R356). -/
def execFirstTouchRelease (die region : Nat) (s : State) : Answer :=
  let slice := tabFind s.caches.first (die * 2 ^ 40 + region)
  if slice.isNone && (tabFind s.caches.turnedAway (die * 2 ^ 40 + region)).isNone then .next (forgetRegion s die region)
  else if regionBusy s die region then .next (holdRegion s die region)
  else
    let ls := (l2LinesIn s (region * 65536) (region * 65536 + 65536)).filter fun p =>
      match slice with
      | some i => p.1 == 48 * die + i
      | none => p.1 / 48 == die
    if heldLines s ls then .next (holdRegion (askHeld s ls) die region) else
    let t := unaccept (cleanLines s ls true).1 fun r => r.leaf.first && homeDie r.pa == die && r.pa / 65536 == region
    .next (replayRegion (forgetRegion t die region) die region)

/-- The plain of a die reads as zero from end to end (R360). -/
def clearPlain (s : State) (die : Nat) : State :=
  { s with caches := { s.caches with plain := s.caches.plain.filter fun e => e.1 / 2 ^ 26 != die } }

/-- Bytes that a larger carve adds to the plain: the spec gives them no contents (R360; log 6). -/
def growPlain (s : State) (die lo hi : Nat) : State :=
  { s with
    tick := s.tick + 65536 * 1024
    caches := { s.caches with plain := (List.range (hi - lo)).foldl (fun m k =>
      memPut m (die * 2 ^ 26 + lo + k) ((Config.freeWord (s.tick + k)).setWidth 8)) s.caches.plain } }

/-- Lines that leave a slice so that the rest fits beside its carve: which ones is not stated (R360; log 7). -/
def trimSlice (s : State) (slice : Nat) : State :=
  let mine := s.caches.l2.filter fun e => e.1 / 2 ^ 50 == slice
  let k := Config.freeIndex s.tick % max 1 mine.length
  ((mine.drop k ++ mine.take k).take (mine.length - sliceLines s slice)).foldl
    (fun s e => dropSlice s slice (e.1 % 2 ^ 50 * 64)) { s with tick := s.tick + 1 }

/-- Lines held in the ways that a changed carve takes are written back and removed: which those are is not stated, and no more stay
than fit (R360; log 7). -/
def leaveWays (s : State) (die : Nat) : State :=
  let ls := (s.caches.l2.filter fun e => e.1 / 2 ^ 50 / 48 == die).map fun e => (e.1 / 2 ^ 50, e.1 % 2 ^ 50 * 64)
  let s := ls.zipIdx.foldl (fun s e => if Config.keeps (s.tick + e.2) then s else dropSlice s e.1.1 e.1.2) s
  (List.range 48).foldl (fun s i => trimSlice s (48 * die + i)) { s with tick := s.tick + ls.length }

/-- PLAIN_CARVE: a write of PLAINCFG (R360). -/
def execPlainCarve (die : Nat) (value : W64) (s : State) : Answer :=
  let c := regField s (.plaincfg die) 4 0
  let x := regField s (.plaincfg die) 31 16
  let lo := plainSize s die
  let s := writeReg s (.plaincfg die) value
  let hi := plainSize s die
  let s := if regField s (.plaincfg die) 4 0 = c then s else leaveWays s die
  if regField s (.plaincfg die) 31 16 ≠ x then .next (clearPlain s die)
  else if hi < lo then
    .next { s with caches := { s.caches with
      plain := s.caches.plain.filter fun e => e.1 / 2 ^ 26 != die || decide (e.1 % 2 ^ 26 < hi) } }
  else .next (if lo < hi then growPlain s die lo hi else s)

end Sys2Proof.Machine
end

