-- ==== Sys2Proof/Machine/Tiers.lean ====
section
/-! DEFINITION. The migration engine, dynamic-capacity extents, resealing of the tier, and the scale-up links (R181, R361 to R363,
R374 to R376). -/

namespace Sys2Proof.Machine

/-- Set a granule's state. -/
def setGranule (s : State) (g : Nat) (st : Granule) : State :=
  let t := if st = .lower then tabDel s.tiers.granules g else tabPut s.tiers.granules g st
  { s with tiers := { s.tiers with granules := t } }

/-- Physical address of a granule (R361). -/
def granulePa (g : Nat) : Nat := tierPa (g * 65536)

/-- Every L2 line of a granule is written back and removed, and then its frame's basin lines (R361). -/
def flushGranule (s : State) (g : Nat) : State :=
  let pa := granulePa g
  let back := backAddr s pa
  let s := (l2LinesIn s pa (pa + 65536)).foldl (fun s p => dropSlice s p.1 p.2) s
  let s := (basinLinesIn s back (back + 65536)).foldl cleanBasin s
  { s with caches := { s.caches with basin := s.caches.basin.filter fun e =>
      !(decide (back ≤ e.1 * 64) && decide (e.1 * 64 < back + 65536)) } }

/-- Copy 64 KiB of memory with its poison marks. -/
def copyFrame (s : State) (src dst : Nat) : State :=
  { s with
    mem := memPuts s.mem dst (memBytes s.mem src 65536)
    caches := { s.caches with
      basin := s.caches.basin.filter fun e => !(decide (dst ≤ e.1 * 64) && decide (e.1 * 64 < dst + 65536))
      poison := (List.range 1024).foldl (fun t k =>
        if (tabFind s.caches.poison (src / 64 + k)).isSome then tabPut t (dst / 64 + k) () else tabDel t (dst / 64 + k))
        s.caches.poison } }

/-- The lines of a granule are written to the tier, which counts each (R374). -/
def copyDown (s : State) (g f : Nat) : State :=
  (List.range 1024).foldl (fun s k => countLine s (granulePa g + 64 * k)) (copyFrame s f (granulePa g))

/-- Requests of a granule that wait at a controller wait for the move instead (R361). -/
def holdGranule (s : State) (g : Nat) : State :=
  { s with reqs := tabMap s.reqs fun r =>
      if r.stage == .ctrl && inTier r.pa && granuleOf r.pa == g then { r with stage := .tier } else r }

/-- A move is over (R361, R364). -/
def endMove (s : State) (fail : Bool) : State :=
  let s := { s with tiers := { s.tiers with moving := none } }
  let s := setField (setField s .migstat 0 0 0) .migstat 1 1 1
  if fail then setField s .migstat 2 2 1 else s

/-- MIGRATION_MOVE: MIGCMD names the granule and the direction (R361). -/
def execMigrationMove (s : State) : Answer :=
  let pa := regField s .migcmd 55 16 * 65536
  let up := regField s .migcmd 56 56 == 1
  let g := granuleOf pa
  if regField s .migstat 0 0 = 1 then .next s
  else if !inTieredRange s pa then .next (endMove s true)
  else match up, tabGet s.tiers.granules g .lower with
    | true, .lower =>
      let s := holdGranule (setGranule s g (.moving true (regField s .migframe 55 16 * 65536))) g
      .next (setField { s with tiers := { s.tiers with moving := some g } } .migstat 0 0 1)
    | false, .upper f =>
      let s := holdGranule (setGranule (flushGranule s g) g (.moving false f)) g
      .next (setField { s with tiers := { s.tiers with moving := some g } } .migstat 0 0 1)
    | _, _ => .next (endMove s false)

/-- MIGRATION_DONE: the copy is made and the state switches; an up move that could not read the tier leaves the granule, and a down move
whose writes are held waits (R361, R374). -/
def execMigrationDone (tierOk : Bool) (s : State) : Answer :=
  match s.tiers.moving with
  | none => .next s
  | some g =>
    match tabGet s.tiers.granules g .lower with
    | .moving true f =>
      if tierOk && (extentOf s (granulePa g)).isNone then .next (endMove (setGranule (copyFrame s (granulePa g) f) g (.upper f)) false)
      else .next (endMove (setGranule s g .lower) true)
    | .moving false f =>
      if !released s (granulePa g) && granuleShut s g then .next (askReseal s g) else
      let s := if released s (granulePa g) then s else copyDown s g f
      .next (endMove (setGranule s g .lower) false)
    | _ => .next (endMove s false)

/-- Granules of an extent that are backed by a frame. -/
def upperGranules (s : State) (base size : Nat) : List (Nat × Nat) :=
  s.tiers.granules.filterMap fun e => match e.2 with
    | .upper f => if base ≤ e.1 * 65536 ∧ e.1 * 65536 < base + size then some (e.1, f) else none
    | _ => none

/-- Write back and remove every line of an extent (R362). -/
def flushExtent (s : State) (base size : Nat) : State :=
  let s := (upperGranules s base size).foldl (fun s e => flushGranule s e.1) s
  (l2LinesIn s (tierPa base) (tierPa base + size)).foldl (fun s p => dropSlice s p.1 p.2) s

/-- DC_RELEASE_REQUEST: the event is sent, requests to the extent are held, and its lines are written back; a device that has not booted
serves none (R362, R377). -/
def execDcReleaseRequest (base size : Nat) (s : State) : Answer :=
  if !s.mgmt.booted then .next s else
  let s := raiseEvent s (sourceId 5 0) 0x0030 (systemRing s) (leBytes 4 0 ++ leBytes 8 base ++ leBytes 8 size)
  let s := flushExtent s base size
  .next { s with tiers := { s.tiers with extents := s.tiers.extents ++ [(base, size, false)] } }

/-- The granule in migration lies in an extent. -/
def movesIn (s : State) (base size : Nat) : Bool :=
  match s.tiers.moving with
  | some g => decide (base ≤ g * 65536) && decide (g * 65536 < base + size)
  | none => false

/-- Requests to an extent that a controller still serves (R362). -/
def extentBusy (s : State) (base size : Nat) : Bool :=
  s.reqs.any fun e => e.2.stage == .ctrl && inTier e.2.pa && decide (base ≤ tierByte e.2.pa) &&
    decide (tierByte e.2.pa < base + size)

/-- Tier addresses of the lines of an extent that are dirty in a slice, or in the basin of the stack that backs an UPPER granule. -/
def dirtyIn (s : State) (base size : Nat) : List Nat :=
  let up := (upperGranules s base size).flatMap fun e =>
    ((basinLinesIn s e.2 (e.2 + 65536)).filter fun a => match tabFind s.caches.basin (a / 64) with
      | some c => c.dirty
      | none => false).map fun a => granulePa e.1 + (a - e.2)
  ((l2LinesIn s (tierPa base) (tierPa base + size)).filter fun p => dirtyAt s p.1 p.2).foldl
    (fun l p => if l.contains p.2 then l else l ++ [p.2]) up

/-- The extent under release at a base. -/
def releasing (s : State) (base : Nat) : Option (Nat × Nat × Bool) := s.tiers.extents.find? fun e => e.1 == base && !e.2.2

/-- DC_RELEASE_ACK: everything is back in the tier; the release is acknowledged, and requests to the extent park. While a write to the tier
is held, it waits (R362, R374). -/
def execDcReleaseAck (base : Nat) (s : State) : Answer :=
  match releasing s base with
  | none => .next s
  | some (b, n, _) =>
    if movesIn s b n || extentBusy s b n then .next s
    else
      let s := flushExtent s b n
      let shut := (upperGranules s b n).filter fun e => granuleShut s e.1
      if !(dirtyIn s b n).isEmpty || !shut.isEmpty then .next (shut.foldl (fun s e => askReseal s e.1) s) else
      let s := (upperGranules s b n).foldl (fun s e => setGranule (copyDown s e.1 e.2) e.1 .lower) s
      let s := { s with
        tiers := { s.tiers with extents := s.tiers.extents.map fun e => if e == (b, n, false) then (b, n, true) else e }
        out := s.out ++ [.extentAck base] }
      .next (releaseHolds s)

/-- A line of a slice is poisoned where it lies. -/
def poisonAt (s : State) (p : Nat × Nat) : State :=
  { s with caches := { s.caches with l2 := tabUpd s.caches.l2 (lineKey p.1 p.2) fun c => { c with poison := true } } }

/-- A line is poisoned wherever it lies, and is never written to its released extent (R362). -/
def forcePoison (s : State) (pa : Nat) : State :=
  let c := s.caches
  { s with
    caches := { c with
      l2 := c.l2.map fun e => if e.1 % 2 ^ 50 == pa / 64 then (e.1, { e.2 with poison := true }) else e
      basin := tabUpd c.basin (backAddr s pa / 64) fun x => { x with poison := true } }
    tiers := { s.tiers with forced := tabPut s.tiers.forced (pa / 64) () } }

/-- DC_FORCED_RELEASE: lines still dirty are poisoned and counted in one event (R362). -/
def execDcForcedRelease (base size : Nat) (s : State) : Answer :=
  let ls := dirtyIn s base size
  let s := ls.foldl forcePoison s
  let s := { s with tiers := { s.tiers with extents :=
    (s.tiers.extents.filter fun e => e.1 != base) ++ [(base, size, true)] } }
  .next (releaseHolds (raiseEvent s (sourceId 5 0) 0x0031 (systemRing s)
    (leBytes 4 0 ++ leBytes 8 base ++ leBytes 8 size ++ leBytes 8 ls.length)))

/-- TIER_RESEAL: the granule is sealed again under the next epoch with counters 0; past the last epoch its writes stay held and
TIERKEY asks for a new key (R374). -/
def execTierReseal (granule : Nat) (s : State) : Answer :=
  if s.tiers.resealing.contains granule then
    let e := tabGet s.tiers.epochs granule 0
    if e + 1 < 2 ^ 24 then
      .next { s with tiers := { s.tiers with
        resealing := s.tiers.resealing.filter fun g => g != granule
        epochs := tabPut s.tiers.epochs granule (e + 1)
        counters := s.tiers.counters.filter fun c => c.1 / 1024 != granule } }
    else if e < 2 ^ 24 then
      let s := { s with tiers := { s.tiers with epochs := tabPut s.tiers.epochs granule (2 ^ 24) } }
      .next (raiseEvent s (sourceId 5 0) 0x0032 (systemRing s)
        (leBytes 2 (frameOwner s (granulePa granule)).toNat ++ leBytes 2 0 ++ leBytes 8 (granule * 65536))
        (frameOwner s (granulePa granule)))
    else .next s
  else .next s

/-- Requests that wait in the queue of a link: on it, and in no flit that was sent. -/
def linkQueue (s : State) (k : Nat) : List (Nat × Req) :=
  s.reqs.filter fun e => e.2.stage == .link && reqLink e.2 == k && e.2.line.isNone && !(linkOf s k).awaiting.contains e.1 &&
    !(linkOf s k).buffer.any fun b => b.req == some e.1

/-- Requests that waited for a link are sent, oldest first (R363). -/
def sendQueued (s : State) (k : Nat) : State := (linkQueue s k).foldl (fun s e => sendFlit s e.1 e.2) s

/-- A flit leaves again, and is counted (R363, R364). -/
def resendOne (s : State) (k : Nat) (f : Flit) : State :=
  let s := countField s (.linkstat k) 31 16
  { s with out := s.out ++ [.flit k f] }

/-- The flits of a link's buffer leave again, in order (R363, R376). -/
def resendAll (s : State) (k : Nat) : State := (linkOf s k).buffer.foldl (fun s f => resendOne s k f) s

/-- A seal failure: the flit is discarded, the link stops, and SEALFAIL is sent (R376). -/
def sealFail (s : State) (k : Nat) : State :=
  let x := linkOf s k
  let s := putLink s k { x with sealSt := 1 }
  let s := countField (setField s (.sealstat k) 1 0 1) (.sealstat k) 31 16
  raiseEvent s (sourceId 4 k) 0x0021 (systemRing s)
    (leBytes 2 k ++ leBytes 2 (Config.linkPeer k) ++ leBytes 8 x.recvCtr.toNat)

/-- The cause with which a request parks that its home on another device does not serve (R231). -/
def refusedCause (c : Refused) : Cause :=
  match c with
  | .world => .world
  | .poison => .poison

/-- The other device does not serve a request: it parks here with the cause, with none of the requests that are performed with it; one
without a leaf, which no park store takes, is asked again by its unit (R220, R230, R231, R366; log 10). -/
def linkRefused (s : State) (k id : Nat) (c : Refused) : State :=
  let x := linkOf s k
  let s := putLink s k { x with awaiting := x.awaiting.filter fun n => n != id }
  match tabFind s.reqs id with
  | none => s
  | some r =>
    if r.stage ≠ .link then s
    else if r.ctx == physCtx then dropReq s id
    else
      let rs := if isJoint r then jointReqs s id r else [(id, r)]
      let s := (rs.filter fun e => e.2.stage == .link).foldl
        (fun s e => updReq s e.1 fun q => { q with stage := .home, line := none }) s
      parkReq s id { r with stage := .home, line := none } (refusedCause c) none

/-- An answer to a request that this device sent: it is performed at its home on the other device (R220). -/
def linkAnswer (s : State) (k id : Nat) (data : Line) : State :=
  let x := linkOf s k
  let s := putLink s k { x with awaiting := x.awaiting.filter fun n => n != id }
  match tabFind s.reqs id with
  | none => s
  | some r =>
    if r.stage ≠ .link then s
    else if isJoint r then
      let s := updReq s id fun q => { q with line := some data }
      let rs := jointReqs s id r
      if rs.all fun e => isRemote s e.2.pa && jointReady s e.1 e.2 then serveJoint s rs else s
    else
      let ps := (stepParts r.kind (lineByte data) (fun off i => some (off + i)) [] r.parts).2
      let s := acquireEffect (endReplay s id) r
      let fill (s : State) : State := if r.noFill then s else fillL1 s r.core r.pa data r.world r.leaf
      match r.kind with
      | .read | .fetch .. => afterServe (doneReq (fill s) id ps) id
      | .pref => dropReq (fill s) id
      | .rmw .. | .cas => afterServe (doneReq (dropL1 s r.core r.pa) id ps) id
      | _ => afterServe (doneReq s id ps) id

/-- Flits that the other end has accepted leave the retry buffer; their requests still wait for answers (R220, R363; log 36). -/
def dropAccepted (x : LinkSt) (accepted : W64) : LinkSt :=
  let gone := x.buffer.filter fun f => decide (f.counter.toNat < accepted.toNat)
  let b := x.buffer.filter fun f => decide (accepted.toNat ≤ f.counter.toNat)
  { x with buffer := b, awaiting := x.awaiting ++ gone.filterMap (·.req), tries := if b.head? = x.buffer.head? then x.tries else 0 }

/-- An answer shows that the flit of its request was accepted, and every flit before it (R363). -/
def acceptedBy (x : LinkSt) (id : Nat) (accepted : W64) : W64 :=
  match x.buffer.find? fun f => f.req == some id with
  | some f => if accepted.toNat ≤ f.counter.toNat then f.counter + 1 else accepted
  | none => accepted

/-- What a request of another device does at its line here (R220). -/
def peerKind (op : PeerOp) : HostKind :=
  match op with
  | .read | .fetch => .load
  | .write => .store
  | .rmw op ty => .amo (match op.toNat with
      | 0 => .add
      | 1 => .min
      | 2 => .max
      | 3 => .and
      | 4 => .or
      | 5 => .xor
      | _ => .exch) ty
  | .cas => .cas

/-- A request of another device arrives, and will be performed at its home here (R172, R220). -/
def peerArrives (s : State) (k : Nat) (q : PeerReq) : State :=
  { s with
    nextId := s.nextId + 1
    hostAccs := tabPut s.hostAccs s.nextId
      { core := 64 + k, peer := some q.world, kind := peerKind q.op, pa := q.pa, len := q.len, data := q.data, aq := false,
        rl := false, after := [], fetch := q.op == .fetch
        leaf := { basin := q.basin.toNat, first := q.first, dom := q.dom.toNat, tier := inTier q.pa, w := true, size := 0 } } }

/-- FLIT_RECEIVE; a device that has not booted serves no link (R220, R363, R375 to R377). -/
def execFlitReceive (link : BitVec 5) (flit : FlitIn) (s : State) : Answer :=
  let k := link.toNat
  let x := linkOf s k
  if linkShut s x || !s.mgmt.booted then .next s
  else if !flitCrcOk flit.bytes then .next { s with out := s.out ++ [.resendRequest k] }
  else if !flitTagsOk s k flit.bytes then .next (sealFail s k)
  else
    let x := dropAccepted { x with recvCtr := x.recvCtr + 1 }
      (match flit.answers with
        | some id => acceptedBy x id flit.accepted
        | none => flit.accepted)
    let s := putLink s k x
    if flit.sealed then .next (sealFail s k)
    else match flit.answers, flit.asks with
      | some id, _ => .next (if !x.awaiting.contains id then s else match flit.refused with
        | some c => linkRefused s k id c
        | none => linkAnswer s k id flit.data)
      | none, some q => .next (if paDevice q.pa = regField s .devnum 12 0 then peerArrives s k q else s)
      | none, none => .next s

/-- FLIT_RESEND: the oldest flit that is not accepted failed or did not arrive, for flits are accepted in their order: it leaves
again as the same bits, or, when its sixteenth resend has failed, no more; a device that has not booted sends none (R363, R375, R377). -/
def execFlitResend (link : BitVec 5) (s : State) : Answer :=
  let k := link.toNat
  let x := linkOf s k
  match x.buffer with
  | f :: _ =>
    if linkShut s x || !s.mgmt.booted || decide (17 ≤ x.tries) then .next s
    else if x.tries = 16 then .next (putLink s k { x with tries := 17 })
    else .next (resendOne (putLink s k { x with tries := x.tries + 1 }) k f)
  | [] => .next s

/-- LINK_RETRY_EXHAUSTED: the link goes down (R363). -/
def execLinkRetryExhausted (link : BitVec 5) (s : State) : Answer :=
  let k := link.toNat
  let x := linkOf s k
  if decide (17 ≤ x.tries) && !x.down then
    let s := setField (putLink s k { x with down := true }) (.linkstat k) 0 0 1
    .next (raiseEvent s (sourceId 4 k) 0x0020 (systemRing s)
      (leBytes 2 k ++ leBytes 2 (Config.linkPeer k) ++ leBytes 2 (regField s (.linkstat k) 31 16)))
  else .next s

/-- LINK_RETRAIN: the link is up again; what waited for it goes (R363). -/
def execLinkRetrain (link : BitVec 5) (s : State) : Answer :=
  let k := link.toNat
  let x := linkOf s k
  if x.down then
    let s := setField (putLink s k { x with down := false, tries := 0 }) (.linkstat k) 0 0 0
    .next (if x.sealSt = 0 && !s.island.wrapped then sendQueued (resendAll s k) k else s)
  else .next s

end Sys2Proof.Machine
end

