-- ==== Sys2Proof/Machine/Mail.lean ====
section
/-! DEFINITION. The management mailbox and the island mailboxes: rings, sequences, doorbells and replies (R370, R390 to R392), and
what a world may reach of memory (R366, R384). -/

namespace Sys2Proof.Machine

/-- Registers of a mailbox: the management mailbox, or the island mailbox of a host core (R391, R392). -/
def mailQ (h : Option (BitVec 5)) : SysReg := match h with
  | some n => .ibqbase n.toNat
  | none => .mbqbase
def mailR (h : Option (BitVec 5)) : SysReg := match h with
  | some n => .ibrbase n.toNat
  | none => .mbrbase
def mailDb (h : Option (BitVec 5)) : SysReg := match h with
  | some n => .ibdb n.toNat
  | none => .mbdb
def mailCtl (h : Option (BitVec 5)) : SysReg := match h with
  | some n => .ibctl n.toNat
  | none => .mbctl

/-- Request ring, reply ring and slots of a mailbox that is enabled (R391). -/
def mailRings (s : State) (h : Option (BitVec 5)) : Option (Nat × Nat × Nat) :=
  match ringOf s (mailQ h) 2 12, ringOf s (mailR h) 2 12 with
  | some (q, n), some (r, m) => if n = m ∧ regField s (mailCtl h) 0 0 = 1 then some (q, r, n) else none
  | _, _ => none

/-- Sequence state of a mailbox. -/
def mailbox (s : State) (h : Option (BitVec 5)) : Mailbox :=
  match h with
  | some n => tabGet s.mgmt.island n.toNat Mailbox.reset
  | none => s.mgmt.mailbox

/-- Set the sequence state of a mailbox. -/
def putMailbox (s : State) (h : Option (BitVec 5)) (m : Mailbox) : State :=
  match h with
  | some n => { s with mgmt := { s.mgmt with island := tabPut s.mgmt.island n.toNat m } }
  | none => { s with mgmt := { s.mgmt with mailbox := m } }

/-- Every frame of a range is owned by a world or shared (R366, R384). -/
def worldMay (s : State) (world : BitVec 16) (pa n : Nat) : Bool :=
  (List.range ((pa % 65536 + n + 65535) / 65536)).all fun k =>
    frameOwner s (pa + 65536 * k) == world || frameOwner s (pa + 65536 * k) == 0xFFFF

/-- World of the code a host core runs (R365). -/
def hostWorld (s : State) (h : BitVec 5) : BitVec 16 := tabGet s.island.hosts h.toNat 0

/-- The rings of a mailbox lie in frames that the world of its command may use: the management mailbox has no such condition (R391,
R392). -/
def mailReachable (s : State) (h : Option (BitVec 5)) (world : BitVec 16) : Bool :=
  match h, mailRings s h with
  | some _, some (q, r, n) => worldMay s world q (64 * n) && worldMay s world r (64 * n)
  | some _, none => false
  | none, _ => true

/-- A doorbell of a mailbox rings: it names the last request that was written, and the world that wrote it (R391, R392). -/
def ringBell (s : State) (h : Option (BitVec 5)) (world : BitVec 16) : State :=
  let m := mailbox s h
  putMailbox s h { m with bells := m.bells ++ [(BitVec.ofNat 32 (regField s (mailDb h) 31 0), world)] }

/-- A doorbell of an island mailbox: the world is taken with it, or the doorbell is ignored and ERR is set (R392). -/
def islandDoorbell (s : State) (h : BitVec 5) : State :=
  if (mailRings s (some h)).isNone then s
  else if mailReachable s (some h) (hostWorld s h) then ringBell s (some h) (hostWorld s h)
  else setField s (.ibctl h.toNat) 7 7 1

/-- The doorbells that a mailbox has still to answer once a request is taken (R391). -/
def dropBells (bells : List (W32 × BitVec 16)) (got : W32) : List (W32 × BitVec 16) :=
  match bells with
  | [] => []
  | b :: r => if b.1 = got then r else bells

/-- What the oldest doorbell of a mailbox names: the request that follows the last one taken, in its slot; or a message that is none,
as it stands in the slot of the number that the doorbell gave (R390, R391). -/
inductive Mail where
  | next (b : List Byte)
  | odd (b : List Byte)
  deriving DecidableEq, Repr

/-- The unit number of a mailbox's reads. -/
def mailUnit (h : Option (BitVec 5)) : Nat × Nat := (8, match h with
  | some n => n.toNat
  | none => 32)

/-- Address of the slot of a sequence in a ring of a mailbox (R391). -/
def mailSlot (base n seq : Nat) : Nat := base + (seq + 2 ^ 32 - 1) % 2 ^ 32 % n * 64

/-- The message that stands in the slot of a sequence of a mailbox's request ring (R391). -/
def mailAt (s : State) (h : Option (BitVec 5)) (q n seq : Nat) : List Byte := physReadOf s (mailUnit h) (mailSlot q n seq) 64

/-- Requests that a doorbell covers beyond the one that follows, and that are not answered yet (R390). -/
def mailBeyond (m : Mailbox) (up : W32) (n : Nat) : List Nat :=
  ((List.range (min n (seqDiff up.toNat m.got.toNat - 1))).map fun k => (m.got.toNat + 2 + k) % 2 ^ 32).filter fun k =>
    match m.scanned with
    | some x => decide (seqDiff x.toNat m.got.toNat < seqDiff k m.got.toNat)
    | none => true

/-- Slots of the request ring that a mailbox reads for its oldest doorbell: the one of the request that follows; those of the numbers
beyond it when that slot does not hold it; or the one that the doorbell names, when that is not ahead (R390, R391). -/
def mailReads (s : State) (h : Option (BitVec 5)) : List Nat :=
  let m := mailbox s h
  match mailRings s h, m.bells with
  | some (q, _, n), (up, _) :: _ =>
    let ahead := seqDiff up.toNat m.got.toNat
    let first := mailSlot q n (m.got.toNat + 1)
    if 1 ≤ ahead ∧ ahead < 2 ^ 31 then
      first :: (if !physGot s (mailUnit h) first 64 ∨ leAt (mailAt s h q n (m.got.toNat + 1)) 0 4 = (m.got + 1).toNat then []
        else (mailBeyond m up n).map (mailSlot q n))
    else [mailSlot q n up.toNat]
  | _, _ => []

/-- The message that the oldest doorbell of a mailbox leads to, once the slots that it reads are read: the request that follows; else the
next one beyond it, which is answered and not taken; else what stands in the slot, when no request does (R390 to R392; log 36). -/
def mailRequest (s : State) (h : Option (BitVec 5)) : Option Mail :=
  let m := mailbox s h
  match mailRings s h, m.bells with
  | some (q, _, n), (up, w) :: _ =>
    if !mailReachable s h w || !(mailReads s h).all (fun a => physGot s (mailUnit h) a 64) then none
    else
      let b := mailAt s h q n (m.got.toNat + 1)
      let ahead := seqDiff up.toNat m.got.toNat
      if 1 ≤ ahead ∧ ahead < 2 ^ 31 then
        if m.scanned.isNone ∧ leAt b 0 4 = (m.got + 1).toNat then some (.next b)
        else match (mailBeyond m up n).find? fun k => leAt (mailAt s h q n k) 0 4 == k with
          | some k => some (.odd (mailAt s h q n k))
          | none => some (.odd (if m.scanned.isSome then leBytes 4 m.got.toNat ++ leBytes 4 m.acked.toNat else b))
      else some (.odd (mailAt s h q n up.toNat))
  | _, _ => none

/-- A mailbox has dealt with a message that is none of its requests: it waits for the next doorbell (R390; log 36). -/
def dropBell (m : Mailbox) : Mailbox := { m with bells := m.bells.drop 1, scanned := none }

/-- A mailbox has answered a request beyond the one that follows: it looks for the next one that its doorbell covers (R390; log 36). -/
def scanOn (m : Mailbox) (seq : W32) : Mailbox :=
  match m.bells with
  | (up, w) :: _ =>
    if seqDiff seq.toNat m.got.toNat < seqDiff up.toNat m.got.toNat then { m with scanned := some seq, world := w }
    else { dropBell m with world := w }
  | [] => m

/-- A mailbox has taken the request that follows (R390, R391). -/
def takeMail (m : Mailbox) (ack : W32) : Mailbox :=
  { m with
    got := m.got + 1
    acked := ack
    world := (m.bells.head?.map (·.2)).getD 0
    bells := dropBells m.bells (m.got + 1) }

/-- A message (R390). -/
def mailMessage (seq ack : W32) (code status : Nat) (payload : List Byte) : List Byte :=
  padTo 64 (leBytes 4 seq.toNat ++ leBytes 4 ack.toNat ++ leBytes 2 code ++ leBytes 2 status ++
    leBytes 4 (min payload.length 48) ++ payload.take 48)

/-- The interrupt controller signals a host core (R384, R391). -/
def signalHost (s : State) (h : Nat) : State := { s with out := s.out ++ [.signal h] }

/-- The rings of an island mailbox do not lie where its world may reach them: ERR (R392). -/
def mailErr (s : State) (h : Option (BitVec 5)) : State :=
  match h with
  | some k => setField s (.ibctl k.toNat) 7 7 1
  | none => s

/-- The oldest reply of a mailbox enters its slot of the reply ring once the slot's home takes it; the doorbell register then names it, and
with IEN = 1 a host core is signalled: the one that HCORE names, or the island mailbox's own. One whose rings no longer lie in frames of its
command's world, or are disabled, is not written (R391, R392; that its number is used up is a DESIGN CHOICE, log 36). -/
def flushReply (s : State) (h : Option (BitVec 5)) : State :=
  let m := mailbox s h
  match m.replies with
  | [] => s
  | (w, bs) :: l =>
    let t := putMailbox s h { m with replies := l }
    match mailRings s h with
    | none => t
    | some (_, r, n) =>
      let pa := mailSlot r n (leAt bs 0 4)
      if !mailReachable s h w then mailErr t h
      else if !physSent s ringUnit pa bs then physSend s ringUnit w pa bs
      else
        let t := setField (physPut t ringUnit pa bs w) (mailDb h) 63 32 (leAt bs 0 4)
        if regField s (mailCtl h) 1 1 = 1 then
          signalHost t (match h with
            | some k => k.toNat
            | none => regField s .mbctl 6 2)
        else t

/-- A reply of a mailbox, behind those that wait (R391, R392). -/
def sendReply (s : State) (h : Option (BitVec 5)) (code status : Nat) (payload : List Byte) : State :=
  let s := physEnd s (mailUnit h)
  let m := mailbox s h
  if (mailRings s h).isNone then s
  else
    let s := putMailbox s h
      { m with next := m.next + 1, replies := m.replies ++ [(m.world, mailMessage m.next m.got code status payload)] }
    if m.replies.isEmpty then flushReply s h else s

/-- A mailbox asks for the slots that its oldest doorbell makes it read, and its oldest reply goes on. A doorbell whose rings no longer lie
in frames of its world is ignored, and ERR is set (R220, R359, R391, R392). -/
def serveMail (s : State) (h : Option (BitVec 5)) : State :=
  let s := flushReply s h
  let m := mailbox s h
  match m.bells, mailRings s h with
  | (_, w) :: _, some _ =>
    if mailReachable s h w then
      (mailReads s h).foldl (fun s a => if physGot s (mailUnit h) a 64 then s else physAsk s (mailUnit h) w a 64) s
    else mailErr (putMailbox s h (dropBell m)) h
  | _, _ => s

/-- The mailboxes that have something to do (R391, R392). -/
def serveMails (s : State) : State :=
  (tabKeys s.mgmt.island).foldl (fun s k => serveMail s (some (BitVec.ofNat 5 k))) (serveMail s none)

/-- A slot of the reply ring is free, given what the other side acknowledged (R391). -/
def replyRoom (m : Mailbox) (n : Nat) : Bool := decide (seqDiff m.next.toNat m.acked.toNat ≤ n)

/-- Codes of the island's commands (R370). -/
def islandCodes : List Nat := [0x01, 0x02, 0x03, 0x10, 0x11, 0x20, 0x21, 0x30, 0x40, 0x41, 0x50, 0x51, 0x60]

/-- The bytes of a message. -/
def mailBytes (x : Mail) : List Byte :=
  match x with
  | .next b | .odd b => b

/-- The message that an island mailbox deals with next: a doorbell has led to it, a reply has room, the device has booted and its store is
unwrapped, and no SLEEP_PREP of this mailbox runs (R370, R377, R382, R391). -/
def islandNext (s : State) (h : BitVec 5) : Option Mail :=
  match mailRings s (some h), mailRequest s (some h) with
  | some (_, _, n), some x =>
    let m : Mailbox := { mailbox s (some h) with acked := BitVec.ofNat 32 (leAt (mailBytes x) 4 4) }
    if replyRoom m n ∧ s.island.preparing ≠ some h ∧ s.mgmt.booted ∧ !s.island.wrapped then some x else none
  | _, _ => none

/-- An island mailbox has a request of a code that can be taken, its SEQ the one that follows (R370, R390, R391): the mailbox with
the request taken. -/
def takeIsland (s : State) (h : BitVec 5) (code : Nat) : Option Mailbox :=
  match islandNext s h with
  | some (.next b) =>
    if leAt b 8 2 = code then some (takeMail (mailbox s (some h)) (BitVec.ofNat 32 (leAt b 4 4))) else none
  | _ => none

/-- What an island command answers: the state, a status and a payload. -/
abbrev Reply := State × Nat × List Byte

/-- Status codes of the island (R370). -/
def stOk : Nat := 0
def stStale : Nat := 1
def stDenied : Nat := 2
def stFull : Nat := 3
def stBusy : Nat := 4
def stBadreq : Nat := 5

/-- A message that cannot be carried out: one whose SEQ follows is taken and answered with the status given, one further ahead is answered
and not taken, each that the doorbell covers, and one taken before is passed over; the mailbox then waits for its next doorbell (R390;
log 36). -/
def oddMail (s : State) (h : Option (BitVec 5)) (x : Mail) (status : Nat) : State :=
  let b := mailBytes x
  let m : Mailbox := { mailbox s h with acked := BitVec.ofNat 32 (leAt b 4 4) }
  let ahead := seqDiff (leAt b 0 4) m.got.toNat
  match x with
  | .next _ => sendReply (putMailbox s h (takeMail m m.acked)) h (leAt b 8 2) status []
  | .odd _ =>
    if 1 < ahead ∧ ahead < 2 ^ 31 then sendReply (putMailbox s h (scanOn m (BitVec.ofNat 32 (leAt b 0 4)))) h (leAt b 8 2) status []
    else putMailbox (physEnd s (mailUnit h)) h (dropBell (mailbox s h))

/-- A message that is no command of the island: a code that R370 does not list, or a SEQ that does not follow, is BADREQ (R370,
R390). -/
def islandOdd (s : State) (h : BitVec 5) : State :=
  match islandNext s h with
  | some x => if x == .next (mailBytes x) && islandCodes.contains (leAt (mailBytes x) 8 2) then s else oddMail s (some h) x stBadreq
  | none => s

/-- A command through the island mailbox of a host core, for the world it was written in (R370, R392); its operands are what the
message's payload says (log 33). -/
def islandCmd (s : State) (h : BitVec 5) (code : Nat) (run : BitVec 16 → State → Reply) : Answer :=
  match takeIsland s h code with
  | none => .next (islandOdd s h)
  | some m =>
    let r := run m.world (putMailbox s (some h) m)
    .next (sendReply r.1 (some h) code r.2.1 r.2.2)

end Sys2Proof.Machine
end

