-- ==== Sys2Proof/Machine/Island.lean ====
section
/-! DEFINITION. The security island: worlds, frames, keys, bindings, reports, moving a world, deep sleep and confidential VMs
(R365 to R373, R378, R380 to R382). -/

namespace Sys2Proof.Machine

/-- Set the island. -/
def putIsland (s : State) (x : Island) : State := { s with island := x }

/-- A measurement register (R378). -/
def mreg (s : State) (i : Nat) : BitVec 512 := tabGet s.island.mregs i 0

/-- The 64 bytes of a hash. -/
def hashBytes (h : BitVec 512) : List Byte := lineBytes h

/-- An extension: SHA-512 of the old value and the digest (R378). -/
def extendHash (m d : BitVec 512) : BitVec 512 := Config.sha512 (hashBytes m ++ hashBytes d)

/-- Extend a measurement register (R378). -/
def extendMreg (s : State) (i : Nat) (d : BitVec 512) : State :=
  putIsland s { s.island with mregs := tabPut s.island.mregs i (extendHash (mreg s i) d) }

/-- A world that no command has changed yet. -/
def freshWorld (h : BitVec 512) : World :=
  { st := .active, keyHash := h, wmr := 0, policy := 0, session := 0, tierKey := none, linkKey := none, acked := false }

/-- Set a world. -/
def putWorld (s : State) (w : BitVec 16) (x : World) : State :=
  putIsland s { s.island with worlds := tabPut s.island.worlds w.toNat x }

/-- The first number from a start on, going round below `n`, that meets a test. -/
def firstFrom (start n : Nat) (p : Nat → Bool) : Option Nat :=
  ((List.range n).map fun k => (start + k) % n).find? p

/-- A world id that is free: which one the island takes is not stated (R370; log 10). -/
def freeWorldId (s : State) : Option Nat :=
  (firstFrom (Config.freeIndex s.tick) 0xFFFE fun k => (tabFind s.island.worlds (k + 1)).isNone).map (· + 1)

/-- WORLD_CREATE (R370). -/
def execWorldCreate (host : BitVec 5) (keyHash : BitVec 512) (s : State) : Answer :=
  islandCmd s host 0x01 fun _ s =>
    match freeWorldId s with
    | none => (s, stFull, [])
    | some w => ({ putWorld s (BitVec.ofNat 16 w) (freshWorld keyHash) with tick := s.tick + 1 }, stOk, leBytes 2 w)

/-- The island frees a key slot: its material is gone and its generation advances (R369). -/
def freeSlot (s : State) (k : Nat) : State :=
  putIsland s { s.island with slots := tabDel s.island.slots k, gens := tabPut s.island.gens k (tabGet s.island.gens k 0 + 1) }

/-- Key slots that a world owns (R369). -/
def slotsOf (s : State) (w : BitVec 16) : List Nat := tabKeys (tabKeep s.island.slots fun k => k.owner == w)

/-- Every slot of a world is zeroed (R369). -/
def zeroSlots (s : State) (w : BitVec 16) : State := (slotsOf s w).foldl freeSlot s

/-- Frames that a world owns, by number (R366). -/
def framesOf (s : State) (w : BitVec 16) : List Nat := tabKeys (tabKeep s.island.frames fun x => x == w)

/-- Set the owner of a frame; unlisted frames are free (R366). -/
def setOwner (s : State) (frame : Nat) (w : BitVec 16) : State :=
  putIsland s { s.island with
    frames := if w = 0 then tabDel s.island.frames frame else tabPut s.island.frames frame w }

/-- Bytes and poison marks of a range read as zero. -/
def zeroRange (s : State) (lo hi : Nat) : State :=
  { s with
    mem := s.mem.filter fun e => !(decide (lo ≤ e.1) && decide (e.1 < hi))
    caches := { s.caches with poison := s.caches.poison.filter fun e =>
      !(decide (lo ≤ e.1 * 64) && decide (e.1 * 64 < hi)) } }

/-- Where bytes of a frame stand: the frame itself, and the HBM frame that backs its granule or that a move copies from or to
(R181, R361). -/
def framePlaces (s : State) (frame : Nat) : List Nat :=
  let pa := frame * 65536
  if inTier pa then
    match granuleState s pa with
    | .upper f | .moving _ f => [pa, f]
    | .lower => [pa]
  else [pa]

/-- A place of a frame is zeroed; each line of one in the tier is a write there (R368, R374). -/
def zeroPlace (s : State) (a : Nat) : State :=
  let s := zeroRange (flushRange s a (a + 65536)) a (a + 65536)
  if inTier a then (List.range 1024).foldl (fun s k => countLine s (a + 64 * k)) s else s

/-- No cache holds a line of a frame any more: neither a slice, nor a sector's copy, nor an L1 (R368). -/
def dropFrame (s : State) (frame : Nat) : State :=
  let out (k : Nat) : Bool := k % 2 ^ 50 / 1024 != frame
  let c := s.caches
  { s with caches := { c with
      l1 := c.l1.filter fun e => out e.1
      l2 := c.l2.filter fun e => out e.1
      replicas := c.replicas.filter fun e => out e.1 } }

/-- One frame is reclaimed: its lines leave every L1, slice and basin, it is zeroed wherever its bytes stand, and it is free (R368). -/
def reclaimFrame (s : State) (frame : Nat) : State :=
  let pa := frame * 65536
  let s := (l2LinesIn s pa (pa + 65536)).foldl (fun s p => dropSlice s p.1 p.2) s
  setOwner (dropFrame ((framePlaces s frame).foldl zeroPlace s) frame) frame 0

/-- A frame cannot be zeroed now: it stands in the tier, and its granule's writes are held (R374). -/
def frameShut (s : State) (frame : Nat) : Bool := (framePlaces s frame).any fun a => inTier a && granuleShut s (granuleOf a)

/-- Contexts of a world: bound to it, or in use for it. -/
def contextsOf (s : State) (w : BitVec 16) : List Nat :=
  let used := tabKeys (tabKeep s.ctxs fun c => c.world == w)
  used ++ (tabKeys (tabKeep s.island.binds fun b => b.world == w)).filter fun c => !used.contains c

/-- What the island bound for a world is bound no longer. -/
def unbindWorld (s : State) (w : BitVec 16) : State :=
  putIsland s { s.island with
    binds := tabKeep s.island.binds fun b => b.world != w
    sas := s.island.sas.filter fun a => a.world != w
    nsBinds := s.island.nsBinds.filter fun b => b.world != w }

/-- A caller may command a world: it runs in it, or in the system world (R370; log 33). -/
def mayCommand (caller w : BitVec 16) : Bool := caller == 0 || caller == w

/-- A confidential world that the island knows (R365). -/
def worldKnown (s : State) (w : BitVec 16) : Bool := w != 0 && w != 0xFFFF && (tabFind s.island.worlds w.toNat).isSome

/-- The tombstone of a world that has moved away, not acknowledged yet: the source answers from it (R381). -/
def holdsTombstone (x : World) : Bool := x.st == .gone && !x.acked

/-- WORLD_DESTROY. A tombstone stays until it is acknowledged, and a world whose frames cannot be zeroed now is BUSY (R370, R374, R381;
logs 27, 35). -/
def execWorldDestroy (host : BitVec 5) (world : BitVec 16) (s : State) : Answer :=
  islandCmd s host 0x02 fun caller s =>
    if !worldKnown s world then (s, stBadreq, [])
    else if !mayCommand caller world then (s, stDenied, [])
    else if (framesOf s world).any (frameShut s) then (s, stBusy, [])
    else
      let s := (contextsOf s world).foldl cancelCtx s
      let s := (framesOf s world).foldl reclaimFrame s
      let s := unbindWorld (zeroSlots s world) world
      (if holdsTombstone (tabGet s.island.worlds world.toNat (freshWorld 0)) then s
       else putIsland s { s.island with worlds := tabDel s.island.worlds world.toNat }, stOk, [])

/-- CTX_BIND: made by the world itself (R367, R370). -/
def execCtxBind (host : BitVec 5) (ctx : BitVec 16) (root : W64) (debug : Bool) (parkth : Byte) (s : State) : Answer :=
  islandCmd s host 0x03 fun caller s =>
    if parkth.toNat > 100 then (s, stBadreq, [])
    else if !worldActive s caller || (match tabFind s.island.binds ctx.toNat with
        | some b => b.world != caller
        | none => false) then (s, stDenied, [])
    else
      let b : CtxBind := { world := caller, root := root, debug := debug, parkth := parkth }
      (putIsland s { s.island with binds := tabPut s.island.binds ctx.toNat b }, stOk, [])

/-- A frame of this device's HBM or of its CXL tier (R366). -/
def frameExists (s : State) (frame : Nat) : Bool := inHbm s (frame * 65536) || inTier (frame * 65536)

/-- FRAME_ASSIGN. A free frame may hold what the system world or a move left there, and no value of one world is read by another through
a reassigned frame: it is zeroed as a reclaimed one is; BUSY while that cannot be (R368, R374; logs 27, 33). -/
def execFrameAssign (host : BitVec 5) (world : BitVec 16) (frame count : Nat) (s : State) : Answer :=
  islandCmd s host 0x10 fun caller s =>
    let fs := (List.range count).map (frame + ·)
    if count = 0 ∨ !fs.all (frameExists s) ∨ !(world == 0xFFFF || worldActive s world) then (s, stBadreq, [])
    else if !mayCommand caller world || !fs.all (fun f => frameOwner s (f * 65536) == 0) then (s, stDenied, [])
    else if fs.any (frameShut s) then (s, stBusy, [])
    else (fs.foldl (fun s f => setOwner (reclaimFrame s f) f world) s, stOk, [])

/-- FRAME_RECLAIM; BUSY while a frame cannot be zeroed (R368, R374; log 27). -/
def execFrameReclaim (host : BitVec 5) (world : BitVec 16) (frame count : Nat) (s : State) : Answer :=
  islandCmd s host 0x11 fun caller s =>
    let fs := (List.range count).map (frame + ·)
    if count = 0 ∨ !fs.all (frameExists s) ∨ world = 0 then (s, stBadreq, [])
    else if !mayCommand caller world || !fs.all (fun f => frameOwner s (f * 65536) == world) then (s, stDenied, [])
    else if fs.any (frameShut s) then (s, stBusy, [])
    else (fs.foldl reclaimFrame s, stOk, [])

/-- Why a handle does not serve a world for a usage: STALE or DENIED (R369). -/
def handleStatus (s : State) (h : W32) (use : KeySlot → Bool) (w : BitVec 16) : Nat :=
  match slotOf s h with
  | none => stStale
  | some k => if use k && k.owner == w then stOk else stDenied

/-- A free slot of the key store; which one is taken is not stated (R369; log 10). -/
def freeKeySlot (s : State) : Option Nat :=
  firstFrom (Config.freeIndex s.tick) 4096 fun k => (tabFind s.island.slots k).isNone

/-- Install a key, with its handle (R369). -/
def installKey (s : State) (k : Nat) (usage : KeyUsage) (w : BitVec 16) (key : List Byte) : State × Nat :=
  ({ putIsland s { s.island with slots := tabPut s.island.slots k { usage := usage, owner := w, key := key } } with
     tick := s.tick + 1 }, k + 4096 * (tabGet s.island.gens k 0).toNat)

/-- KEY_IMPORT (R369, R370). -/
def execKeyImport (host : BitVec 5) (wrap : W32) (usage : KeyUsage) (blob : List Byte) (s : State) : Answer :=
  islandCmd s host 0x20 fun caller s =>
    match handleStatus s wrap (fun k => k.usage == .wrap) caller, slotOf s wrap with
    | 0, some k =>
      match Config.unwrap k.key blob, freeKeySlot s with
      | some key, some n =>
        let r := installKey s n usage caller key
        (r.1, stOk, leBytes 4 r.2)
      | none, _ => (s, stBadreq, [])
      | _, none => (s, stFull, [])
    | st, _ => (s, st, [])

/-- KEY_DESTROY (R369, R370). -/
def execKeyDestroy (host : BitVec 5) (handle : W32) (s : State) : Answer :=
  islandCmd s host 0x21 fun caller s =>
    let st := handleStatus s handle (fun _ => true) caller
    if st = stOk then (freeSlot s (handleSlot handle), stOk, []) else (s, st, [])

/-- Usage that a binding asks of its handle (R369, R370). -/
def targetUsage (t : BindTarget) : KeyUsage :=
  match t with
  | .ethSa .. => .eth
  | .namespaceKey .. => .nvme
  | .worldTier => .tier
  | .worldLink => .worldlink

/-- World of a queue of an Ethernet port (R386). -/
def ethWorld (s : State) (p d q : Nat) : BitVec 16 := BitVec.ofNat 16 (regField s (.eqctl p d q) 31 16)

/-- Under a new TIER key the granules of its world whose epochs are used up begin again, and their writes go on (R374; log 27). -/
def freshEpochs (s : State) (w : BitVec 16) : State :=
  let used := s.tiers.resealing.filter fun g => epochsUsed s (tierPa (g * 65536)) && frameOwner s (tierPa (g * 65536)) == w
  { s with tiers := { s.tiers with
      resealing := s.tiers.resealing.filter fun g => !used.contains g
      epochs := s.tiers.epochs.filter fun e => !used.contains e.1
      counters := s.tiers.counters.filter fun c => !used.contains (c.1 / 1024) } }

/-- Make a binding (R370, R372, R373, R385); a transmit SA starts at packet number 1 (log 34). -/
def bindTo (s : State) (h : W32) (w : BitVec 16) (t : BindTarget) : State :=
  match t with
  | .ethSa port index receive window sci an queue =>
    let same (a : EthSa) : Bool := a.port == port && a.index == index.toNat && a.receive == receive
    let x : EthSa := { port := port, index := index.toNat, receive := receive, handle := h, world := w, pn := 1,
                       window := window, sci := sci, an := an, queue := queue }
    putIsland s { s.island with sas := (s.island.sas.filter fun a => !same a) ++ [x] }
  | .namespaceKey drive nsid u =>
    let x : NsBind := { world := w, drive := drive, nsid := nsid, handle := h, unit4096 := u }
    putIsland s { s.island with
      nsBinds := (s.island.nsBinds.filter fun b => !(b.world == w && b.drive == drive && b.nsid == nsid)) ++ [x] }
  | .worldTier => freshEpochs (putWorld s w { (tabGet s.island.worlds w.toNat (freshWorld 0)) with tierKey := some h }) w
  | .worldLink => putWorld s w { (tabGet s.island.worlds w.toNat (freshWorld 0)) with linkKey := some h }

/-- A binding's numbers are in their ranges (R372, R385, R387). -/
def targetOk (t : BindTarget) : Bool :=
  match t with
  | .ethSa port _ _ window _ _ queue => decide (port < 2) && decide (window ≤ 2 ^ 30) && decide (queue < 64)
  | .namespaceKey drive _ _ => decide (drive < 256)
  | .worldTier | .worldLink => true

/-- A receive SA names a queue of the caller's world (R385). -/
def targetMay (s : State) (w : BitVec 16) (t : BindTarget) : Bool :=
  match t with
  | .ethSa port _ true _ _ _ queue => ethWorld s port 1 queue == w
  | _ => true

/-- A port has room for one more association: it has up to 256, those of both directions together (R372). -/
def saRoom (s : State) (t : BindTarget) : Bool :=
  match t with
  | .ethSa port index receive _ _ _ _ =>
    decide ((s.island.sas.filter fun a => a.port == port && !(a.index == index.toNat && a.receive == receive)).length < 256)
  | _ => true

/-- SA_BIND (R370, R372, R385). -/
def execSaBind (host : BitVec 5) (handle : W32) (target : BindTarget) (s : State) : Answer :=
  islandCmd s host 0x30 fun caller s =>
    let st := handleStatus s handle (fun k => k.usage == targetUsage target) caller
    if !targetOk target then (s, stBadreq, [])
    else if st ≠ stOk then (s, st, [])
    else if !targetMay s caller target then (s, stDenied, [])
    else if !saRoom s target then (s, stFull, [])
    else (bindTo s handle caller target, stOk, [])

/-- What a report says of a world: its id, its measurement, and whether it is lost (R370, R382). -/
def worldState (s : State) (w : BitVec 16) : List Byte :=
  match tabFind s.island.worlds w.toNat with
  | some x => leBytes 2 w.toNat ++ hashBytes x.wmr ++ leBytes 1 (if x.st = .lost then 1 else 0)
  | none => leBytes 2 w.toNat ++ leBytes 65 0

/-- The measurement registers, in order (R378). -/
def mregBytes (s : State) : List Byte := (List.range 32).flatMap fun i => hashBytes (mreg s i)

/-- WORLD_REPORT: signed, and larger than a message: it leaves beside the reply (R370, R382; log 33). -/
def execWorldReport (host : BitVec 5) (s : State) : Answer :=
  islandCmd s host 0x40 fun caller s =>
    let body := mregBytes s ++ worldState s caller
    ({ s with out := s.out ++ [.message 0x40 (body ++ Config.sign body)] }, stOk, [])

/-- WMR_EXTEND (R370, R378). -/
def execWmrExtend (host : BitVec 5) (mr : BitVec 4) (digest : BitVec 512) (s : State) : Answer :=
  islandCmd s host 0x41 fun caller s =>
    if caller = 0 then (extendMreg s (16 + mr.toNat) digest, stOk, [])
    else match tabFind s.island.worlds caller.toNat with
      | some x => if x.st = .active then (putWorld s caller { x with wmr := extendHash x.wmr digest }, stOk, []) else (s, stDenied, [])
      | none => (s, stDenied, [])

/-- A request of the island as SPDM requester leaves (R379; log 35 for its bytes). -/
def askMessage (s : State) (code : Nat) : State := { s with out := s.out ++ [.ask code] }

/-- The island opens an SPDM session as requester: the requests of R379 in the order of the negotiation, up to KEY_EXCHANGE (log 35). -/
def askSession (s : State) : State := [0x84, 0xE1, 0xE3, 0x81, 0x82, 0x83, 0xE0, 0xE4].foldl askMessage s

/-- The requester's session of a world's migration is over: it ends it (R379, R381; log 35). -/
def endMigration (s : State) (w : BitVec 16) : State :=
  if s.island.sessions.any fun x => x.2.1 == .migration w then
    askMessage (putIsland s { s.island with sessions := s.island.sessions.filter fun x => x.2.1 != .migration w }) 0xEC
  else s

/-- The requester opens a session for a world's migration, from GET_VERSION through FINISH, and holds it; an older one of that world
ends (R379, R381; log 35). -/
def openMigration (s : State) (w : BitVec 16) : State :=
  let s := askSession (endMigration s w)
  askMessage (putIsland s { s.island with
    sessions := s.island.sessions ++ [(s.island.nextSession, .migration w, true, 0)], nextSession := s.island.nextSession + 1 }) 0xE5

/-- A migration policy that its tenant signed and that exceeds the last one used (R380). -/
def policyOk (p key : List Byte) (x : World) : Bool :=
  p.length == 668 && leAt p 0 4 == 1 && decide (1 ≤ leAt p 6 2) && decide (leAt p 6 2 ≤ 8) &&
  decide (x.policy.toNat < leAt p 8 8) && Config.sha512 key == x.keyHash && Config.verifies key (p.take 536) (p.drop 536)

/-- A destination is acceptable: the hash of its registers 0 to 5 is in the policy, and the world keeps the limits (R380, R381). -/
def destinationOk (s : State) (p : List Byte) (regs : List (BitVec 512)) (w : BitVec 16) : Bool :=
  let h := hashBytes (Config.sha512 ((regs.take 6).flatMap hashBytes))
  ((List.range (leAt p 6 2)).any fun i => (p.drop (24 + 64 * i)).take 64 == h) &&
  decide ((slotsOf s w).length ≤ leAt p 16 2) && decide ((framesOf s w).length ≤ leAt p 18 4)

/-- Every context of a world is saved, with nothing due and no park entries (R250, R381). -/
def worldAtRest (s : State) (w : BitVec 16) : Bool :=
  (contextsOf s w).all fun c =>
    (match tabFind s.ctxs c with
      | some x => x.st == .saved || x.st == .idle || x.st == .cancelled
      | none => true) &&
    !(s.reqs.any fun e => e.2.ctx == c) &&
    !(s.accs.any fun e => (match anyBlock s (e.2.gang / 32) with
      | some b => b.ctx == c
      | none => false))

/-- A world as it is sent under the transport key of a session: its frames sealed, each with its virtual address as the associated
data, its key slots wrapped, its bindings, and the version of the policy it moves under (R380, R381; log 35 for the initial values,
which address names a frame, and the saved blocks). -/
def worldImage (s : State) (w : BitVec 16) (x : World) (session : BitVec 512) (policy : W64) : MigratedWorld where
  keyHash := x.keyHash
  policy := policy
  blocks := tabKeep s.savedBlocks fun b => (contextsOf s w).contains b.ctx
  gangs := tabKeep s.savedGangs fun g => match tabFind s.savedBlocks g.block with
    | some b => (contextsOf s w).contains b.ctx
    | none => false
  frames := (framesOf s w).map fun f =>
    let va := Config.frameVa s.tick f
    (va, Config.sealBytes (Config.transportKey session) (Config.transportIv va) (leBytes 8 va) (physRead s (f * 65536) 65536))
  keys := (slotsOf s w).filterMap fun k => (tabFind s.island.slots k).map fun y =>
    (y.usage, Config.wrap (Config.transportKey session) y.key)
  binds := (tabKeep s.island.binds fun b => b.world == w).map fun e => (BitVec.ofNat 16 e.1, e.2.root, e.2.debug, e.2.parkth)

/-- The source marks the world gone, keeps the tombstone, sends COMMIT, and reclaims frames and slots (R381). -/
def leaveWorld (s : State) (w : BitVec 16) (x : World) (p : List Byte) (session : BitVec 512) : State :=
  let cs := contextsOf s w
  let s := putWorld s w { x with st := .gone, session := session, policy := BitVec.ofNat 64 (leAt p 8 8) }
  let s := { s with out := s.out ++ [.message 0x50 (leBytes 2 w.toNat ++ hashBytes session)] }
  let s := (framesOf s w).foldl reclaimFrame s
  let s := unbindWorld (zeroSlots s w) w
  { s with
    savedGangs := tabKeep s.savedGangs fun g => match tabFind s.savedBlocks g.block with
      | some b => !cs.contains b.ctx
      | none => true
    savedBlocks := tabKeep s.savedBlocks fun b => !cs.contains b.ctx
    ctxs := s.ctxs.filter fun e => !cs.contains e.1 }

/-- Every line of some frames is open to the island (R181, R343, R359 to R362, R408). -/
def framesOpen (s : State) (fs : List Nat) : Bool :=
  fs.all fun f => (List.range 1024).all fun k => physOpen s ringUnit (f * 65536 + 64 * k)

/-- MIGRATE_OUT: the policy is checked, an SPDM session is opened, and the destination is accepted by its registers; the world is sent,
and when the destination has answered READY it is gone here. A session that breaks before READY leaves it active. The destination's
registers, whether READY came, and the session's transcript are what the session brought; BUSY where frames of the world cannot be read
or zeroed now. The session is held until the tombstone is acknowledged (R374, R381; log 35). -/
def execMigrateOut (host : BitVec 5) (policy : List Byte) (tenantKey : List Byte) (destRegs : List (BitVec 512)) (ready : Bool)
    (session : BitVec 512) (s : State) : Answer :=
  islandCmd s host 0x50 fun caller s =>
    let w : BitVec 16 := BitVec.ofNat 16 (leAt policy 4 2)
    match tabFind s.island.worlds w.toNat with
    | none => (s, stBadreq, [])
    | some x =>
      if x.st ≠ .active ∨ !mayCommand caller w ∨ !policyOk policy tenantKey x then (s, stDenied, [])
      else
        let s := openMigration s w
        if !destinationOk s policy destRegs w then (endMigration s w, stDenied, [])
        else if !worldAtRest s w || !framesOpen s (framesOf s w) || (framesOf s w).any (frameShut s) then (endMigration s w, stBusy, [])
        else
          let s := { s with out := s.out ++ [.migrated w (worldImage s w x session (BitVec.ofNat 64 (leAt policy 8 8)))] }
          if ready then (leaveWorld s w x policy session, stOk, []) else (endMigration s w, stBusy, [])

/-- Free frames of HBM, from the lowest: which ones a migrating world gets is not stated (R381; log 10). -/
def takeFrames (s : State) (start n : Nat) : List Nat :=
  let all := 720 * 2 ^ 30 / 65536
  let base := regField s .devnum 12 0 * 2 ^ 27
  (((List.range all).map fun k => base + (start + k) % all).filter fun f => frameOwner s (f * 65536) == 0).take n

/-- Install a migrating world's frames at frames of this device. -/
def installFrames (s : State) (w : BitVec 16) (fs : List (Nat × List Byte)) : State :=
  fs.foldl (fun s f => physWrite (setOwner s f.1 w) (f.1 * 65536) (f.2.take 65536) w) s


/-- Install a migrating world's keys in free slots. -/
def installKeys (s : State) (w : BitVec 16) (ks : List (KeyUsage × List Byte)) : State :=
  ks.foldl (fun s k => match freeKeySlot s with
    | some n => (installKey s n k.1 w k.2).1
    | none => s) s

/-- Install a migrating world's bindings. -/
def installBinds (s : State) (w : BitVec 16) (bs : List (BitVec 16 × W64 × Bool × Byte)) : State :=
  bs.foldl (fun s b =>
    let x : CtxBind := { world := w, root := b.2.1, debug := b.2.2.1, parkth := b.2.2.2 }
    putIsland s { s.island with binds := tabPut s.island.binds b.1.toNat x }) s

/-- Install a migrating world's saved blocks and gangs under numbers of this device; the dispatcher places them when it restores their
contexts (R252, R381). -/
def installSaved (s : State) (image : MigratedWorld) : State :=
  let base := s.nextId
  { s with
    nextId := image.blocks.foldl (fun n e => max n (base + e.1 + 1)) base
    savedBlocks := image.blocks.foldl (fun t e => tabPut t (base + e.1) { e.2 with team := base + e.2.team }) s.savedBlocks
    savedGangs := image.gangs.foldl (fun t e => tabPut t (32 * base + e.1)
      { e.2 with block := base + e.2.block, heir := e.2.heir.map (32 * base + ·) }) s.savedGangs }

/-- An answer of the island to a peer. -/
def islandMessage (s : State) (code status : Nat) (w : BitVec 16) (session : BitVec 512) : State :=
  { s with out := s.out ++ [.message code (leBytes 1 status ++ leBytes 2 w.toNat ++ hashBytes session)] }

/-- The frames and keys of a migrating world, opened under the session's transport key, when every seal verifies (R381). -/
def openImage (image : MigratedWorld) (session : BitVec 512) : Option (List (List Byte) × List (KeyUsage × List Byte)) :=
  let key := Config.transportKey session
  match image.frames.mapM (fun f => Config.openBytes key (Config.transportIv f.1) (leBytes 8 f.1) f.2),
    image.keys.mapM (fun k => (Config.unwrap key k.2).map fun y => (k.1, y)) with
  | some fs, some ks => some (fs, ks)
  | _, _ => none

/-- MIGRATE_IN: what the session brought is installed as PENDING and READY is answered to the source, unless the world is known
here, or frames, slots or bindings lack, or a seal fails, or the frames cannot be written now; a refused command changes nothing (R370,
R381; log 35). -/
def execMigrateIn (world : WorldAsk) (image : MigratedWorld) (session : BitVec 512) (s : State) : Answer :=
  let w := world.world
  islandCmd s world.host 0x51 fun caller s =>
    let fs := takeFrames s (Config.freeIndex s.tick) image.frames.length
    if w = 0 ∨ w = 0xFFFF then (s, stBadreq, [])
    else if caller ≠ 0 || (tabFind s.island.worlds w.toNat).isSome ||
        image.binds.any fun b => (tabFind s.island.binds b.1.toNat).isSome then (s, stDenied, [])
    else if !framesOpen s fs then (s, stBusy, [])
    else if fs.length < image.frames.length ∨ 4096 < s.island.slots.length + image.keys.length then (s, stFull, [])
    else match openImage image session with
      | none => (s, stBadreq, [])
      | some (frames, keys) =>
        let s := putWorld { s with tick := s.tick + 1 } w { freshWorld image.keyHash with
          st := .pending, session := session, policy := image.policy }
        let s := installSaved (installFrames s w (fs.zip frames)) image
        let s := installBinds (installKeys s w keys) w image.binds
        (islandMessage s 0x51 stOk w session, stOk, [])

/-- COMMIT at the destination makes the world active, and it acknowledges; a PENDING destination asks again on a new session; the
source answers from its tombstone; and the source learns that the tombstone is acknowledged. A requester's session ends with what it was
opened for (R379, R381; log 35). -/
def execCommit (what : CommitStep) (world : BitVec 16) (session : BitVec 512) (s : State) : Answer :=
  match tabFind s.island.worlds world.toNat with
  | none => .next s
  | some x =>
    match what with
    | .commit =>
      if x.st = .pending ∧ x.session = session then
        .next (endMigration (islandMessage (putWorld s world { x with st := .active }) 0x52 stOk world session) world)
      else .next s
    | .askAgain => if x.st = .pending then .next (islandMessage (openMigration s world) 0x53 stOk world x.session)
      else .next s
    | .asked =>
      if x.st = .gone ∧ x.session = session then
        .next { s with out := s.out ++ [.message 0x50 (leBytes 2 world.toNat ++ hashBytes session)] }
      else .next s
    | .acknowledged =>
      if x.st = .gone ∧ x.session = session then .next (endMigration (putWorld s world { x with acked := true }) world) else .next s

/-- A context stands on cores or is being switched. -/
def ctxUp (c : Ctx) : Bool := c.st == .resident || c.st == .saving || c.st == .restoring

/-- Every line of L2 is written back to the basin and HBM (R382). -/
def cleanAllL2 (s : State) : State :=
  s.caches.l2.foldl (fun s e => cleanSlice s (e.1 / 2 ^ 50) (e.1 % 2 ^ 50 * 64)) s

/-- The key store, the key of the frame ownership table and the tier epochs are wrapped under the key in retention SRAM: nothing can use
them until they are unwrapped (R382). -/
def wrapStore (s : State) : State :=
  let i := s.island
  { s with
    island := { i with
      wrapped := true, wrappedBy := i.retention, wrappedSlots := i.slots, wrappedTable := i.tableKey, wrappedEpochs := s.tiers.epochs
      slots := [], tableKey := none }
    tiers := { s.tiers with epochs := [] } }

/-- They are unwrapped with the key they were wrapped under; without it they cannot be (R382). -/
def unwrapStore (s : State) : State :=
  let i := s.island
  if i.wrapped && i.retention.isSome && i.retention == i.wrappedBy then
    { s with
      island := { i with
        wrapped := false, wrappedBy := none, wrappedSlots := [], wrappedTable := none, wrappedEpochs := []
        slots := i.wrappedSlots, tableKey := i.wrappedTable }
      tiers := { s.tiers with epochs := i.wrappedEpochs } }
  else s

/-- A dirty line of L2 cannot be written back now (R374). -/
def heldL2 (s : State) : Bool := s.caches.l2.any fun e => heldLine s (e.1 / 2 ^ 50) (e.1 % 2 ^ 50 * 64)

/-- SLEEP_PREP: every context is pre-empted, one that is being restored once it is resident; once all are, L2 is written back, links are
suspended with their counters and buffers, and the keys are wrapped. A line whose write to the tier is held keeps it waiting (R249, R374,
R382). -/
def execSleepPrep (host : BitVec 5) (s : State) : Answer :=
  if s.island.preparing = some host then
    if s.ctxs.any fun e => ctxUp e.2 then .next (s.ctxs.foldl (fun s e => startSave s e.1) s)
    else if heldL2 s then .next (cleanAllL2 s)
    else
      let s := cleanAllL2 s
      let s := putIsland s { s.island with preparing := none }
      match takeIsland s host 0x60 with
      | some m => .next (sendReply (putMailbox (wrapStore s) (some host) m) (some host) 0x60 stOk [])
      | none => .next (wrapStore s)
  else match takeIsland s host 0x60 with
    | none => .next (islandOdd s host)
    | some m =>
      if m.world ≠ 0 then .next (sendReply (putMailbox s (some host) m) (some host) 0x60 stDenied [])
      else if s.island.preparing.isSome then .next (sendReply (putMailbox s (some host) m) (some host) 0x60 stBusy [])
      else
        let s := s.ctxs.foldl (fun s e => startSave s e.1) s
        .next (putIsland s { s.island with preparing := some host })

/-- Every confidential world is dead: its frames are reclaimed, its keys are gone, and it is reported as lost; one that has moved away
and whose tombstone is acknowledged lives elsewhere (R381, R382). -/
def loseWorlds (s : State) : State :=
  s.island.worlds.foldl (fun s e =>
    if e.2.st = .gone ∧ e.2.acked then s else
    let w : BitVec 16 := BitVec.ofNat 16 e.1
    let s := (framesOf s w).foldl reclaimFrame s
    let s := unbindWorld (zeroSlots s w) w
    putWorld s w { e.2 with st := .lost, tierKey := none, linkKey := none }) s

/-- POWER_LOSS: with the supply, everything on the device goes; the wrapped store cannot be decrypted once retention power was lost:
its keys and the confidential worlds are lost, and a fresh boot follows (R381, R382, R389). -/
def execPowerLoss (retention : Bool) (s : State) : Answer :=
  if retention then
    if s.mgmt.power = .dRetain then
      let t := loseWorlds { s with island := { s.island with slots := s.island.wrappedSlots } }
      let t := (tabKeys t.island.slots).foldl freeSlot t
      .next { putIsland t { t.island with
          retention := none, wrapped := false, wrappedBy := none, wrappedSlots := [], wrappedTable := none, wrappedEpochs := []
          sessions := [], mregs := [] } with
        mgmt := { t.mgmt with booted := false } }
    else .next s
  else
    let t := loseWorlds s
    .next { State.reset with
      agenda := s.agenda
      tick := s.tick
      out := s.out
      island := { Island.reset with
        worlds := t.island.worlds, gens := t.island.gens, boots := s.island.boots, tableKey := none, retention := none }
      mgmt := { Mgmt.reset with power := .dOff } }

/-- CONFIDENTIAL_VM_ENTRY: only island firmware sets a host core's world (R365). -/
def execConfidentialVmEntry (host : BitVec 5) (world : BitVec 16) (s : State) : Answer :=
  if worldActive s world ∧ world ≠ 0 ∧ world ≠ 0xFFFF then
    .next (putIsland s { s.island with hosts := tabPut s.island.hosts host.toNat world })
  else .next s

/-- CONFIDENTIAL_VM_EXIT (R365). -/
def execConfidentialVmExit (host : BitVec 5) (s : State) : Answer :=
  .next (putIsland s { s.island with hosts := tabDel s.island.hosts host.toNat })

end Sys2Proof.Machine
end

