-- ==== Sys2Proof/Machine/Spdm.lean ====
section
/-! DEFINITION. SPDM as responder, keying of scale-up links, and boot (R376 to R379). -/

namespace Sys2Proof.Machine

/-- A message leaves on the management path. -/
def sendMessage (s : State) (code : Nat) (bs : List Byte) : State := { s with out := s.out ++ [.message code bs] }

/-- Set how far the negotiation on the management path has come: version, capabilities, algorithms (R379). -/
def setSpdm (s : State) (n : Nat) : State := putIsland s { s.island with spdmState := n }

/-- SPDM request codes of R379, as SPDM 1.3 numbers them (log 35); ERROR is 0x7F. -/
def spdmError (s : State) : State := sendMessage s 0x7F []

/-- An answer to a request that needs the negotiation to have come so far (R379; logs 11, 35). -/
def spdmReply (s : State) (need code : Nat) (request : List Byte) : State :=
  if need ≤ s.island.spdmState then sendMessage s code (Config.spdmAnswer code request) else spdmError s

/-- GET_VERSION: a new negotiation (R379). -/
def execGetVersion (s : State) : Answer := .next (spdmReply (setSpdm s 1) 0 0x84 [])

/-- GET_CAPABILITIES (R379). -/
def execGetCapabilities (s : State) : Answer :=
  .next (if 1 ≤ s.island.spdmState then spdmReply (setSpdm s 2) 1 0xE1 [] else spdmError s)

/-- NEGOTIATE_ALGORITHMS: there is one algorithm set, and a request that does not offer it is answered with an error (R379). -/
def execNegotiateAlgorithms (request : List Byte) (s : State) : Answer :=
  .next (if 2 ≤ s.island.spdmState ∧ Config.offersSet request = true then spdmReply (setSpdm s 3) 2 0xE3 request else spdmError s)

/-- GET_DIGESTS (R379). -/
def execGetDigests (s : State) : Answer := .next (spdmReply s 3 0x81 [])

/-- GET_CERTIFICATE (R379). -/
def execGetCertificate (request : List Byte) (s : State) : Answer := .next (spdmReply s 3 0x82 request)

/-- CHALLENGE (R379). -/
def execChallenge (request : List Byte) (s : State) : Answer := .next (spdmReply s 3 0x83 request)

/-- GET_MEASUREMENTS: block i carries register i - 1; lost worlds are reported with it (R379, R382). -/
def execGetMeasurements (block : Nat) (s : State) : Answer :=
  .next (if 3 ≤ s.island.spdmState ∧ 1 ≤ block ∧ block ≤ 32 then
    let lost := (tabKeys (tabKeep s.island.worlds fun w => w.st == .lost)).flatMap (leBytes 2)
    sendMessage s 0xE0 (hashBytes (mreg s (block - 1)) ++ lost)
  else spdmError s)

/-- The island is the requester of a session (R379). -/
def peerAsks (peer : SpdmPeer) : Bool :=
  match peer with
  | .link _ asks => asks
  | .migration _ => true
  | .management => false

/-- KEY_EXCHANGE: a session is opened with its peer, the management path or the device at the other end of a link; as requester the
island has asked its way to here and sends its own request. A device that has not booted serves the management path only (R377, R379;
log 35). -/
def execKeyExchange (peer : SpdmPeer) (request : List Byte) (s : State) : Answer :=
  .next (if (if peer == .management then decide (3 ≤ s.island.spdmState) else s.mgmt.booted) then
    let s := putIsland s { s.island with
      sessions := s.island.sessions ++ [(s.island.nextSession, peer, false, 0)], nextSession := s.island.nextSession + 1 }
    if peerAsks peer then askSession s else sendMessage s 0xE4 (Config.spdmAnswer 0xE4 request)
  else spdmError s)

/-- A new session of a link: it is UP, its counters restart at 0, and its retry buffer goes again in its order under the new key
(R376). -/
def keyLink (s : State) (l : Nat) : State :=
  let x := linkOf s l
  let n := x.buffer.length
  let reseal (e : Flit × Nat) : Flit :=
    let c : W64 := BitVec.ofNat 64 e.2
    { e.1 with counter := c, bytes := flitBytes s l (x.keying + 1) c (BitVec.ofNat 32 (leAt e.1.bytes 0 4)) e.1.world e.1.plain }
  let s := putLink s l { x with
    sealSt := 0, sendCtr := BitVec.ofNat 64 n, recvCtr := 0, tries := 0, keying := x.keying + 1
    buffer := x.buffer.zipIdx.map reseal }
  let s := setField s (.sealstat l) 1 0 0
  if x.down || s.island.wrapped then s else sendQueued (resendAll s l) l

/-- FINISH: the session is complete (R376, R379). -/
def execFinish (session : Nat) (request : List Byte) (s : State) : Answer :=
  match s.island.sessions.find? fun x => x.1 == session && !x.2.2.1 with
  | none => .next (spdmError s)
  | some x =>
    let s := putIsland s { s.island with
      sessions := s.island.sessions.map fun y => if y.1 = session then (y.1, y.2.1, true, y.2.2.2) else y }
    let s := if peerAsks x.2.1 then askMessage s 0xE5 else sendMessage s 0xE5 (Config.spdmAnswer 0xE5 request)
    match x.2.1 with
    | .link l _ => .next (keyLink s l.toNat)
    | .migration _ | .management => .next s

/-- A complete session is open. -/
def sessionOpen (s : State) (session : Nat) : Bool := s.island.sessions.any fun x => x.1 == session && x.2.2.1

/-- KEY_UPDATE: the session goes on under its next key (R379). -/
def execKeyUpdate (session : Nat) (s : State) : Answer :=
  .next (if sessionOpen s session then
    sendMessage (putIsland s { s.island with
      sessions := s.island.sessions.map fun y => if y.1 = session then (y.1, y.2.1, y.2.2.1, y.2.2.2 + 1) else y })
      0xE9 (Config.spdmAnswer 0xE9 [])
  else spdmError s)

/-- Complete sessions with the device at the other end of a link. -/
def linkSessions (s : State) (l : Nat) : List (Nat × SpdmPeer × Bool × Nat) :=
  s.island.sessions.filter fun x => x.2.2.1 && (match x.2.1 with
    | .link k _ => k.toNat == l
    | .migration _ | .management => false)

/-- A link whose last session has ended has no key: STATE is unkeyed, and no flit passes until a new session completes (R376;
log 28). -/
def unkeyLink (s : State) (l : Nat) : State :=
  if linkSessions s l = [] then setField (putLink s l { linkOf s l with sealSt := 2 }) (.sealstat l) 1 0 2 else s

/-- END_SESSION (R376, R379). -/
def execEndSession (session : Nat) (s : State) : Answer :=
  .next (if sessionOpen s session then
    let t := sendMessage (putIsland s { s.island with sessions := s.island.sessions.filter fun y => y.1 != session })
      0xEC (Config.spdmAnswer 0xEC [])
    (match s.island.sessions.find? fun x => x.1 == session && x.2.2.1 with
      | some (_, .link l _, _) => unkeyLink t l.toNat
      | _ => t)
  else spdmError s)

/-- The ROM verifies the island firmware (R377). -/
def islandImageOk (x : BootImages) : Bool :=
  Config.sha512 x.islandKey == Config.fuseHash x.islandKeySlot && !Config.fuseRevoked x.islandKeySlot &&
  Config.verifies x.islandKey x.islandImage x.islandSig &&
  decide (Config.fuseVersion.toNat ≤ (Config.imageVersion x.islandImage).toNat)

/-- The island firmware verifies another image against the key list in its own signed image (R377). -/
def listedImageOk (x : BootImages) (key image sig : List Byte) : Bool :=
  (Config.keyList x.islandImage).contains key && Config.verifies key image sig &&
  decide (Config.fuseVersion.toNat ≤ (Config.imageVersion image).toNat)

/-- What register 5 measures: the device configuration, with the place of the tier's metadata area and the modes of the x16 ports
(R374, R378, R383; log 35 for its bytes). -/
def deviceConfig (x : BootImages) : List Byte := x.device ++ leBytes 8 x.tierArea.toNat ++ leBytes 1 x.pcie.toNat

/-- Extend a register by the hash of some bytes (R378). -/
def measure (s : State) (i : Nat) (bs : List Byte) : State := extendMreg s i (Config.sha512 bs)

/-- Boot from the island ROM (R377): each image is measured once verified; the management firmware fixes the modes of the ports
(R383). -/
def boot (x : BootImages) (s : State) : State :=
  let s := measure s 0 x.romState
  if !islandImageOk x then { s with mgmt := { s.mgmt with recovery := true } }
  else
    let s := measure (measure s 1 x.islandImage) 2 x.config
    if !listedImageOk x x.mgmtKey x.mgmtImage x.mgmtSig then sendMessage s 0 [0x42, 0x46]
    else
      let s := measure s 3 x.mgmtImage
      let s := { s with mgmt := { s.mgmt with pcie := x.pcie } }
      if !listedImageOk x x.dispKey x.dispImage x.dispSig then sendMessage s 0 [0x42, 0x46]
      else
        let s := measure (measure (measure s 4 x.dispImage) 5 (deviceConfig x)) 6 x.hostImage
        { s with mgmt := { s.mgmt with booted := true }, island := { s.island with tierArea := x.tierArea } }

/-- DEVICE_RESET: every register and unit is as reset leaves it, the queues of the storage engines among them (R388), a new device key
is made, and the chain of trust runs (R7, R374, R377, R378). Worlds that were lost stay reported, and a
tombstone stays until it is acknowledged (R381, R382; log 35). -/
def execDeviceReset (images : BootImages) (s : State) : Answer :=
  .next (boot images { State.reset with
    agenda := s.agenda
    tick := s.tick
    out := s.out
    island := { Island.reset with
      worlds := tabKeep s.island.worlds fun w => w.st == .lost || holdsTombstone w, boots := s.island.boots + 1
      tableKey := some (s.island.boots + 1), retention := some (s.island.boots + 1) } })

end Sys2Proof.Machine
end

