-- ==== Sys2Proof/Machine/Management.lean ====
section
/-! DEFINITION. The management core: its requests, power states, heartbeats, and errors of the units (R389, R390, R397 to R399). -/

namespace Sys2Proof.Machine

/-- Sequence state of the path a management request comes by: the management pins or connector, or the mailbox (R391). -/
def mgmtBox (s : State) (pins : Bool) : Mailbox := if pins then s.mgmt.pins else s.mgmt.mailbox

/-- Set it. -/
def putMgmtBox (s : State) (pins : Bool) (m : Mailbox) : State :=
  if pins then { s with mgmt := { s.mgmt with pins := m } } else putMailbox s none m

/-- The path serves: the pins always, the mailbox once the management firmware runs and the rings are enabled (R377, R391). -/
def mgmtOpen (s : State) (pins : Bool) : Bool := pins || (s.mgmt.booted && (mailRings s none).isSome)

/-- A reply of the management core (R390, R391). -/
def mgmtReply (s : State) (pins : Bool) (code status : Nat) (payload : List Byte) : State :=
  if !pins then sendReply s none code status payload
  else
    let m := s.mgmt.pins
    let s := { s with mgmt := { s.mgmt with pins := { m with next := m.next + 1 } } }
    sendMessage s code (mailMessage m.next m.got code status payload)

/-- Status codes of the management mailbox (R390). -/
def mgOk : Nat := 0
def mgBusy : Nat := 1
def mgDenied : Nat := 2
def mgBadreq : Nat := 3

/-- A management request with its sequence and acknowledgement (R390): executed when its sequence is the next; above that it is
answered BADREQ; one taken before is not taken again (log 36). -/
def mgmtCmd (s : State) (pins : Bool) (seq ack : W32) (code : Nat) (run : State → Reply) : Answer :=
  if s.mgmt.power = .dOff || !mgmtOpen s pins then .next s
  else
    let m := { mgmtBox s pins with acked := ack }
    let d := seqDiff seq.toNat m.got.toNat
    if d = 1 then
      let r := run (putMgmtBox s pins { m with got := seq, bells := dropBells m.bells seq })
      .next (mgmtReply r.1 pins code r.2.1 r.2.2)
    else if 1 < d ∧ d < 2 ^ 31 then .next (mgmtReply (putMgmtBox s pins (scanOn m seq)) pins code mgBadreq [])
    else .next s

/-- The ordering code as 16 bytes (R1, R390). -/
def orderingCode : List Byte :=
  padTo 16 ([0x53, 0x44, 0x43, 0x2D, 0x4B, 0x33, 0x2D] ++
    (if Config.orderingCodeIsModule then [0x4D, 0x4F, 0x44] else [0x50, 0x4B, 0x47]))

/-- IDENTITY (R390; log 36 for the width of DEVNUM). -/
def execIdentity (seq : PathSeq) (ack : W32) (s : State) : Answer :=
  mgmtCmd s seq.pins seq.seq ack 0x01 fun s =>
    (s, mgOk, orderingCode ++ leBytes 2 (regField s .devnum 12 0) ++ Config.firmwareVersions.take 30)

/-- Number of a power state in a message (R389; log 36). -/
def powerCode (p : PowerState) : Nat := match p with
  | .d0 => 0
  | .dIdle => 1
  | .dRetain => 2
  | .dOff => 3

/-- The device is woken from D-retain: the island unwraps its store, the links go on at their counters, and contexts can be restored
(R382, R389). -/
def wake (s : State) : State :=
  let s := unwrapStore (setPower s .d0)
  let s := (tabKeys s.links).foldl (fun s k => if linkShut s (linkOf s k) then s else sendQueued s k) s
  { s with disp := { s.disp with idleSince := s.cycle } }

/-- Everything goes with D-off but the names of the worlds that are lost (R382, R389). -/
def powerOff (s : State) : State :=
  let w := (loseWorlds s).island
  { State.reset with
    agenda := s.agenda
    tick := s.tick
    out := s.out
    island := { Island.reset with worlds := w.worlds, boots := s.island.boots, tableKey := none, retention := none }
    mgmt := { Mgmt.reset with power := .dOff } }

/-- A world is migrating in, or a granule moves (R361, R381; log 36). -/
def migrationRuns (s : State) : Bool := s.tiers.moving.isSome || s.island.worlds.any fun e => e.2.st == .pending

/-- What POWER does: BUSY while a SLEEP_PREP or a migration runs; from D-retain only back to D0; D-retain needs SLEEP_PREP to have
run; D-idle is entered by no request (R389). -/
def powerRun (target : PowerState) (s : State) : Reply :=
  if s.mgmt.power = .dRetain then (if target = .d0 then (wake s, mgOk, leBytes 1 0) else (s, mgDenied, []))
  else if s.island.preparing.isSome || migrationRuns s then (s, mgBusy, [])
  else match target with
    | .d0 => (wake s, mgOk, leBytes 1 0)
    | .dIdle => (s, mgBadreq, [])
    | .dRetain => if s.island.wrapped then (setPower s .dRetain, mgOk, leBytes 1 2) else (s, mgDenied, [])
    | .dOff => (setPower s .dOff, mgOk, leBytes 1 3)

/-- POWER (R389). The reply to D-off leaves before the power goes. -/
def execPower (seq : PathSeq) (ack : W32) (target : PowerState) (s : State) : Answer :=
  match mgmtCmd s seq.pins seq.seq ack 0x02 (powerRun target) with
  | .next t => .next (if t.mgmt.power = .dOff ∧ s.mgmt.power ≠ .dOff then powerOff t else t)
  | a => a

/-- A unit id names a unit with error counters (R390, R393, R396). -/
def unitExists (unit : W32) : Bool :=
  let cls := unit.toNat / 2 ^ 24
  let inst := unit.toNat % 2 ^ 24
  match cls with
  | 2 | 8 => decide (inst < 4)
  | 3 | 12 => decide (inst < 288)
  | 4 => decide (inst < 32)
  | 10 => decide (inst < 2)
  | 11 => inst == 2 || inst == 3
  | 13 => decide (inst < 192)
  | 14 => decide (inst < 12)
  | 1 | 5 | 6 | 7 | 9 => inst == 0
  | _ => false

/-- ERRCOUNT (R390, R398). -/
def execErrcount (seq : PathSeq) (ack : W32) (clear : Byte) (unit : W32) (s : State) : Answer :=
  mgmtCmd s seq.pins seq.seq ack 0x03 fun s =>
    if !unitExists unit then (s, mgBadreq, [])
    else
      let k := unit.toNat
      let r := leBytes 4 (tabGet s.mgmt.ce k 0).toNat ++ leBytes 4 (tabGet s.mgmt.ue k 0).toNat
      (if clear = 1 then { s with mgmt := { s.mgmt with ce := tabDel s.mgmt.ce k, ue := tabDel s.mgmt.ue k } } else s, mgOk, r)

/-- RESYNC: the reply names what was taken, and the numbers of the side that restarted begin again. A side that restarts waits for none of
the replies sent to it before, so that their slots are free: a RESYNC with SEQ 1 acknowledges them (R390, R391; DESIGN CHOICE, log 36). -/
def execResync (seq : PathSeq) (ack : W32) (s : State) : Answer :=
  let pins := seq.pins
  let seq := seq.seq
  if s.mgmt.power = .dOff || !mgmtOpen s pins then .next s
  else
    let b := mgmtBox s pins
    let m := { b with acked := if seq = 1 ∧ b.got ≠ 0 then b.next - 1 else ack }
    let d := seqDiff seq.toNat m.got.toNat
    if seq = 1 ∨ d = 1 then
      let t := mgmtReply (putMgmtBox s pins m) pins 0x04 mgOk (leBytes 4 m.got.toNat ++ leBytes 4 m.next.toNat)
      .next (putMgmtBox t pins { mgmtBox t pins with got := seq, bells := dropBells m.bells seq })
    else if d < 2 ^ 31 ∧ d ≠ 0 then .next (mgmtReply (putMgmtBox s pins (scanOn m seq)) pins 0x04 mgBadreq [])
    else .next s

/-- A launch queue has a record at its head that waits, or a launch with units to place (R328, R389). -/
def anyReadyHead (s : State) : Bool := (List.range 64).any fun q => headWaits s q || (queueNext s q).isSome

/-- Cycles of a millisecond at 1.25 GHz (R2, R5). -/
def msCycles : Nat := 1250000

/-- No queue has had a ready head for 1 ms in D0 (R389). -/
def idleDue (s : State) : Bool :=
  s.mgmt.power == .d0 && s.mgmt.booted && !anyReadyHead s && decide (s.disp.idleSince + msCycles ≤ s.cycle)

/-- D_IDLE_ENTRY: contexts stay resident (R389). -/
def execDIdleEntry (s : State) : Answer := .next (if idleDue s then setPower s .dIdle else s)

/-- HEARTBEAT: every 10 ms (R396, R399). -/
def execHeartbeat (s : State) : Answer :=
  let s := { s with mgmt := { s.mgmt with beats := s.mgmt.beats + 1 } }
  .next (raiseEvent s (sourceId 7 0) 0x0062 (systemRing s) (leBytes 4 0 ++ leBytes 8 (s.cycle / msCycles)))

/-- Count one up in a table of saturating 32-bit counters (R398). -/
def countUnit (t : Tab W32) (k : Nat) : Tab W32 :=
  if tabGet t k 0 = BitVec.allOnes 32 then t else tabPut t k (tabGet t k 0 + 1)

/-- CORRECTED_ERROR: counted; CECLIMIT when the counter passes its limit (R396 to R398). -/
def execCorrectedError (unit : W32) (s : State) : Answer :=
  let k := unit.toNat
  let old := tabGet s.mgmt.ce k 0
  let s := { s with mgmt := { s.mgmt with ce := countUnit s.mgmt.ce k } }
  let new := tabGet s.mgmt.ce k 0
  .next (if old.toNat ≤ (Config.ceLimit unit).toNat ∧ (Config.ceLimit unit).toNat < new.toNat then
    raiseEvent s (sourceId 7 0) 0x0060 (systemRing s) (leBytes 4 k ++ leBytes 4 new.toNat)
  else s)

/-- The line of a core's L1, of an L2 slice, of a basin or of memory becomes poisoned: where the unit that met the error holds it
(R397). -/
def poisonLine (s : State) (unit : W32) (pa : Nat) : State :=
  let inst := unit.toNat % 2 ^ 24
  let k := backAddr s pa / 64
  if unit.toNat / 2 ^ 24 = 12 ∧ (tabFind s.caches.l1 (lineKey inst pa)).isSome then
    { s with caches := { s.caches with l1 := tabUpd s.caches.l1 (lineKey inst pa) fun c => { c with poison := true } } }
  else if unit.toNat / 2 ^ 24 = 13 ∧ (tabFind s.caches.l2 (lineKey inst pa)).isSome then poisonAt s (inst, pa)
  else if (tabFind s.caches.basin k).isSome then
    { s with caches := { s.caches with basin := tabUpd s.caches.basin k fun c => { c with poison := true } } }
  else { s with caches := { s.caches with poison := tabPut s.caches.poison k () } }

/-- UNCORRECTED_DATA_ERROR: the line is poisoned; its requests will park as POISON (R397, R398). -/
def execUncorrectedDataError (unit : W32) (pa : Nat) (s : State) : Answer :=
  .next (poisonLine { s with mgmt := { s.mgmt with ue := countUnit s.mgmt.ue unit.toNat } } unit pa)

/-- UNCORRECTED_CONTROL_ERROR: the unit halts, and UNITHALT tells (R396 to R398). -/
def execUncorrectedControlError (unit : W32) (cause : Byte) (ctx : W32) (s : State) : Answer :=
  let k := unit.toNat
  let halted := if s.mgmt.halted.contains k then s.mgmt.halted else s.mgmt.halted ++ [k]
  let s := { s with mgmt := { s.mgmt with ue := countUnit s.mgmt.ue k, halted := halted } }
  .next (raiseEvent s (sourceId 7 0) 0x0061 (systemRing s)
    (leBytes 4 k ++ leBytes 1 cause.toNat ++ leBytes 3 0 ++ leBytes 4 ctx.toNat) (ctxWorld s ctx.toNat))

end Sys2Proof.Machine
end

