-- ==== Sys2Proof/Machine/Ports.lean ====
section
/-! DEFINITION. The Ethernet ports and the storage engines (R372, R373, R383 to R388). -/

namespace Sys2Proof.Machine

/-- A queue of descriptors or requests: ring base, slots, and the registers it has (R386, R388). -/
structure PortQueue where
  base : Nat
  size : Nat
  ctl  : SysReg
  ptr  : SysReg
  world : BitVec 16

/-- An enabled queue that has not stopped (R384, R386, R388). -/
def portQueue (s : State) (base ctl ptr : SysReg) : Option PortQueue :=
  match ringOf s base 4 16 with
  | some (b, n) =>
    if regField s ctl 0 0 = 1 ∧ regField s ctl 7 7 = 0 then
      some { base := b, size := n, ctl := ctl, ptr := ptr, world := BitVec.ofNat 16 (regField s ctl 31 16) }
    else none
  | none => none

/-- Queues of an Ethernet port: d is 0 for transmit and 1 for receive (R386). -/
def ethQueue (s : State) (p d q : Nat) : Option PortQueue := portQueue s (.eqbase p d q) (.eqctl p d q) (.eqptr p d q)

/-- Request queues of a storage engine, while its port, x16 port 2 or 3, is in PCIe mode (R383, R387, R388). -/
def storQueue (s : State) (p q : Nat) : Option PortQueue :=
  if s.mgmt.pcie.getLsbD (p - 2) then portQueue s (.sqbase p q) (.sqctl p q) (.sqptr p q) else none

/-- Sequences of the next entry software will write and the next the port takes (R386). -/
def qTail (s : State) (x : PortQueue) : Nat := regField s x.ptr 31 0
def qHead (s : State) (x : PortQueue) : Nat := regField s x.ptr 63 32

/-- Address of an entry of a queue. -/
def qSlot (x : PortQueue) (seq n : Nat) : Nat := x.base + seq % x.size * n

/-- HEAD advances, and the queue's host core is signalled when it asks for it and was not since TAIL was written (R384). -/
def advanceQueue (s : State) (x : PortQueue) (n : Nat) : State :=
  let s := setField s x.ptr 63 32 ((qHead s x + n) % 2 ^ 32)
  if regField s x.ctl 1 1 = 1 ∧ !s.mgmt.signalled.contains x.ptr then
    signalHost { s with mgmt := { s.mgmt with signalled := s.mgmt.signalled ++ [x.ptr] } } (regField s x.ctl 6 2)
  else s

/-- The queue stops: its ring lies outside its world's frames (R384). -/
def stopQueue (s : State) (x : PortQueue) : State := setField s x.ctl 7 7 1

/-- The secure association of a port, index and direction (R372). -/
def findSa (s : State) (p i : Nat) (receive : Bool) : Option EthSa :=
  s.island.sas.find? fun a => a.port == p && a.index == i && a.receive == receive

/-- Change a secure association's packet number. -/
def setPn (s : State) (a : EthSa) (pn : W64) : State :=
  putIsland s { s.island with sas := s.island.sas.map fun b => if b = a then { b with pn := pn } else b }

/-- The initial value of a sealed frame: SCI and packet number (R372; log 11). -/
def saIv (sci pn : W64) : List Byte := leBytes 8 sci.toNat ++ leBytes 8 pn.toNat

/-- A transmit descriptor is in order: length, flags and reserved bytes (R384; log 37). -/
def txOk (d : List Byte) : Bool :=
  decide (60 ≤ leAt d 8 2) && decide (leAt d 8 2 ≤ 9216) && leAt d 12 1 == 1 && leAt d 14 2 == 0

/-- The status of a transmit descriptor, and the association it is sealed under (R372, R384). -/
def txStatus (s : State) (p : Nat) (x : PortQueue) (d : List Byte) : Nat × Option (EthSa × KeySlot) :=
  if !txOk d || !worldMay s x.world (leAt d 0 8) (leAt d 8 2) then (3, none)
  else if leAt d 10 2 = 0xFFFF then (if x.world = 0 then 1 else 3, none)
  else match findSa s p (leAt d 10 2) false with
    | none => (3, none)
    | some a => match slotOf s a.handle with
      | none => (3, none)
      | some k => if a.world ≠ x.world then (3, none)
        else if a.pn = BitVec.allOnes 64 then (2, none) else (1, some (a, k))

/-- The SA's packet number advances; at 2^64 - 1 it is exhausted (R372). -/
def advancePn (s : State) (a : EthSa) : State :=
  let s := setPn s a (a.pn + 1)
  if a.pn + 1 = BitVec.allOnes 64 then
    raiseEvent s (sourceId 10 a.port) 0x0050 (systemRing s)
      (leBytes 2 a.port ++ leBytes 2 a.index ++ leBytes 2 a.world.toNat) a.world
  else s

/-- A SecTAG as IEEE 802.1AE lays it out: EtherType 88E5, the SCI present and the data encrypted with the AN, a short length of
zero since a frame holds 48 bytes or more of data, the low half of the packet number and the SCI (R372; log 34). -/
def secTagBytes (sci : W64) (an : BitVec 2) (pn : W64) : List Byte :=
  [0x88, 0xE5, BitVec.ofNat 8 (0x2C + an.toNat), 0] ++ (leBytes 4 pn.toNat).reverse ++ (leBytes 8 sci.toNat).reverse

/-- A sealed frame: the two MAC addresses and the SecTAG in clear, which the ICV covers, then the rest encrypted from offset 0 with
its ICV (R372). -/
def sealFrame (key : List Byte) (sci : W64) (an : BitVec 2) (pn : W64) (bytes : List Byte) : List Byte :=
  let head := bytes.take 12 ++ secTagBytes sci an pn
  head ++ Config.sealBytes key (saIv sci pn) head (bytes.drop 12)

/-- A received frame opened: `bytes` holds its MAC addresses and what follows the SecTAG (R372, R385). -/
def openFrame (key : List Byte) (sci : W64) (an : BitVec 2) (pn : W64) (bytes : List Byte) : Option (List Byte) :=
  (Config.openBytes key (saIv sci pn) (bytes.take 12 ++ secTagBytes sci an pn) (bytes.drop 12)).map (bytes.take 12 ++ ·)

/-- A frame with the frame check sequence appended (R384). -/
def withFcs (bytes : List Byte) : List Byte := bytes ++ leBytes 4 (Config.crc32 bytes).toNat

/-- A frame leaves, sealed under an association or not. -/
def sendFrame (s : State) (p : Nat) (bytes : List Byte) (sa : Option (EthSa × KeySlot)) : State :=
  match sa with
  | some (a, k) => advancePn { s with out := s.out ++ [.frame p true (withFcs (sealFrame k.key a.sci a.an a.pn bytes))] } a
  | none => { s with out := s.out ++ [.frame p false (withFcs bytes)] }

/-- What a transmit queue reads, the descriptor at HEAD and the frame that it sends, and what it writes, the descriptor's status; before the
descriptor is read, that alone (R384). -/
def txTouches (s : State) (p : Nat) (x : PortQueue) : List (Nat × Nat) × List (Nat × List Byte) :=
  let at_ := qSlot x (qHead s x) 16
  if !physGot s ringUnit at_ 16 then ([(at_, 16)], [])
  else
    let d := physRead s at_ 16
    let st := (txStatus s p x d).1
    ((at_, 16) :: (if st = 1 then [(leAt d 0 8, leAt d 8 2)] else []), [(at_ + 13, leBytes 1 st)])

/-- TX_DESCRIPTOR: while a line that it touches is held, or not answered, the queue waits (R220, R359, R384). -/
def execTxDescriptor (port queue : Nat) (s : State) : Answer :=
  match ethQueue s port 0 queue with
  | none => .next s
  | some x =>
    if qTail s x = qHead s x then .next s
    else if !worldMay s x.world x.base (16 * x.size) then .next (stopQueue s x)
    else
      let t := txTouches s port x
      if !physReady s t.1 t.2 then .next (physMiss s x.world t.1 t.2)
      else
        let d := physRead s (qSlot x (qHead s x) 16) 16
        let st := txStatus s port x d
        let u := if st.1 = 1 then sendFrame s port (physRead s (leAt d 0 8) (leAt d 8 2)) st.2 else s
        let u := if st.1 = 3 then countField u (.ecnt2 port) 63 32 else u
        .next (advanceQueue (physDone u t.1 t.2 x.world) x 1)

/-- A buffer can take a frame: it lies in frames of the queue's world or shared, and for a frame of an association in frames of the
association's world alone (R372, R384; log 37). -/
def rxMay (s : State) (x : PortQueue) (sa : Option (BitVec 16)) (pa n : Nat) : Bool :=
  match sa with
  | none => worldMay s x.world pa n
  | some w => (List.range ((pa % 65536 + n + 65535) / 65536)).all fun k => frameOwner s (pa + 65536 * k) == w

/-- What a port finds in a receive queue for a frame: too few empty descriptors, a descriptor that is not read yet, or its buffers, with
the refused slots before them. -/
inductive RxFind where
  | few
  | unread (pa : Nat)
  | found (slots : List (Nat × Bool))
  deriving DecidableEq, Repr

/-- A slot stands before what is found behind it. -/
def RxFind.behind (x : RxFind) (seq : Nat) (ok : Bool) : RxFind :=
  match x with
  | .found r => .found ((seq, ok) :: r)
  | .few => .few
  | .unread pa => .unread pa

/-- Buffers of a receive queue for a frame (R384, R385). -/
def rxSlots (s : State) (x : PortQueue) (sa : Option (BitVec 16)) (buf need : Nat) (fuel seq : Nat) : RxFind :=
  match fuel with
  | 0 => if need = 0 then .found [] else .few
  | fuel + 1 =>
    if need = 0 then .found []
    else if seq = qTail s x then .few
    else if !physGot s ringUnit (qSlot x seq 16) 16 then .unread (qSlot x seq 16)
    else
      let d := physRead s (qSlot x seq 16) 16
      if leAt d 13 1 ≠ 0 then .few
      else
        let ok := rxMay s x sa (leAt d 0 8) buf
        (rxSlots s x sa buf (if ok then need - 1 else need) fuel ((seq + 1) % 2 ^ 32)).behind seq ok

/-- What a port writes for a frame: its bytes into the buffers found, and the fields of the descriptors (R384, R385). -/
def rxWrites (s : State) (x : PortQueue) (buf : Nat) (bytes : List Byte) (sa : Nat) (slots : List (Nat × Bool)) :
    List (Nat × List Byte) :=
  match slots with
  | [] => []
  | (seq, true) :: r =>
    let at_ := qSlot x seq 16
    let chunk := bytes.take buf
    let rest := bytes.drop buf
    let flags := (if rest.isEmpty then 1 else 0) + (if sa = 0xFFFF then 2 else 0)
    (leAt (physRead s at_ 8) 0 8, chunk) ::
      (at_ + 8, leBytes 2 chunk.length ++ leBytes 2 sa ++ leBytes 1 flags ++ leBytes 1 1) :: rxWrites s x buf rest sa r
  | (seq, false) :: r => (qSlot x seq 16 + 13, leBytes 1 3) :: rxWrites s x buf bytes sa r

/-- Refused descriptors are counted (R384). -/
def countRefused (s : State) (port : Nat) (slots : List (Nat × Bool)) : State :=
  (slots.filter fun e => !e.2).foldl (fun s _ => countField s (.ecnt2 port) 63 32) s

/-- A frame goes into a receive queue, or is dropped whole; or the port has asked for lines that it touches, and the frame waits (R220,
R359, R384, R385). -/
def deliverFrame (s : State) (port queue : Nat) (bytes : List Byte) (sa : Nat) (own : Option (BitVec 16)) : State × Bool :=
  match ethQueue s port 1 queue with
  | none => (countField s (.ecnt2 port) 31 0, true)
  | some x =>
    if !worldMay s x.world x.base (16 * x.size) then (countField (stopQueue s x) (.ecnt2 port) 31 0, true)
    else
      let buf := regField s x.ctl 45 32
      if buf < 256 ∨ 16320 < buf ∨ buf % 64 ≠ 0 then (countField s (.ecnt2 port) 31 0, true)
      else match rxSlots s x own buf ((bytes.length + buf - 1) / buf) x.size (qHead s x) with
        | .few => (countField s (.ecnt2 port) 31 0, true)
        | .unread pa => (physAsk s ringUnit x.world pa 16, false)
        | .found slots =>
          let reads := slots.map fun e => (qSlot x e.1 16, 16)
          let writes := rxWrites s x buf bytes sa slots
          if !physReady s reads writes then (physMiss s x.world reads writes, false)
          else (advanceQueue (countRefused (physDone s reads writes x.world) port slots) x slots.length, true)

/-- A frame of a port waits for lines of memory. -/
def rxWaits (s : State) (port : Nat) : Bool :=
  s.mgmt.late.any fun i => match i with
    | .frame p _ => p == port
    | .drive .. => false

/-- A frame goes on to its queue: what its delivery changes beside, or the frame waits. -/
def rxDeliver (port : Nat) (frame : FrameIn) (r : State × Bool) (more : State → State) : Answer :=
  .next (if r.2 then more r.1 else holdInput r.1 (.frame port frame))

/-- A packet number lies in the replay window of an association (R372; log 34). -/
def inWindow (a : EthSa) (pn : W64) : Bool := decide (a.pn.toNat ≤ pn.toNat + a.window)

/-- RX_FRAME: a frame whose queue or buffers lie in lines that are held waits, and later frames of its port behind it (R385); a device
that has not booted serves no port, nor does a port that a control error has halted (R377, R397). -/
def execRxFrame (port : Nat) (frame : FrameIn) (s : State) : Answer :=
  if !s.mgmt.booted || unitDead s 10 port then .next s
  else if rxWaits s port then .next (holdInput s (.frame port frame))
  else if !frame.fcsOk then .next (countField s (.ecnt0 port) 31 0)
  else match frame.secTag with
    | some (sci, an, pn) =>
      match s.island.sas.find? fun a => a.port == port && a.receive && a.sci == sci && a.an == an with
      | none => .next (countField s (.ecnt1 port) 31 0)
      | some a =>
        match slotOf s a.handle with
        | none => .next (countField s (.ecnt1 port) 31 0)
        | some k => match openFrame k.key sci an pn frame.bytes with
          | none => .next (countField s (.ecnt0 port) 63 32)
          | some plain =>
            if !inWindow a pn then .next (countField s (.ecnt0 port) 63 32)
            else
              rxDeliver port frame (deliverFrame s port a.queue plain a.index (some a.world)) fun s =>
                if a.pn.toNat ≤ pn.toNat then setPn s a (pn + 1) else s
    | none =>
      let q := regField s (.epctl port) 6 1
      if regField s (.epctl port) 0 0 = 1 ∧ ethWorld s port 1 q = 0 then rxDeliver port frame (deliverFrame s port q frame.bytes 0xFFFF none) id
      else .next (countField s (.ecnt1 port) 63 32)

/-- The next request of a storage queue that the engine has not taken: HEAD, or behind it (R387). -/
def storNext (s : State) (p q : Nat) (x : PortQueue) : Option Nat :=
  ((List.range (seqDiff (qTail s x) (qHead s x))).map fun k => (qHead s x + k) % 2 ^ 32).find? fun n =>
    !(s.mgmt.drives.any fun d => d.2.port == p && d.2.queue == q && d.2.slot == n) && !s.mgmt.finished.contains (p, q, n)

/-- HEAD passes the requests that have completed, with every earlier one (R387). -/
def passHead (s : State) (p q : Nat) (x : PortQueue) (fuel : Nat) : State :=
  match fuel with
  | 0 => s
  | fuel + 1 =>
    if s.mgmt.finished.contains (p, q, qHead s x) then
      let s := { s with mgmt := { s.mgmt with finished := s.mgmt.finished.erase (p, q, qHead s x) } }
      passHead (advanceQueue s x 1) p q x fuel
    else s

/-- The status fields that a request's completion writes, while its ring lies in frames of its world (R384, R387). -/
def storWrites (s : State) (x : PortQueue) (n status nvstat cdw0 : Nat) : List (Nat × List Byte) :=
  if worldMay s x.world x.base (64 * x.size) then
    [(qSlot x n 64 + 48, leBytes 2 status ++ leBytes 2 nvstat ++ leBytes 4 cdw0)]
  else []

/-- A request completes: its status fields have been written, or the queue stops where its ring lies in frames of its world no more; and
HEAD may pass it (R384, R387). -/
def completeStor (s : State) (p q : Nat) (x : PortQueue) (n : Nat) : State :=
  let s := if worldMay s x.world x.base (64 * x.size) then s else stopQueue s x
  passHead { s with mgmt := { s.mgmt with finished := s.mgmt.finished ++ [(p, q, n)] } } p q x (s.mgmt.finished.length + 1)

/-- The binding of a drive's namespace for a world (R373, R387). -/
def nsBinding (s : State) (w : BitVec 16) (r : List Byte) : Option NsBind :=
  s.island.nsBinds.find? fun b => b.world == w && b.drive == leAt r 2 2 && b.nsid == BitVec.ofNat 32 (leAt r 4 4)

/-- Bytes of a data unit of a binding (R373). -/
def unitBytes (b : NsBind) : Nat := if b.unit4096 then 4096 else 512

/-- Physical pieces of a request's buffer of `n` bytes: pages of its list, or one piece (R387). -/
def storPieces (s : State) (r : List Byte) (n : Nat) : List (Nat × Nat) :=
  let buf := leAt r 24 8
  if leAt r 32 1 % 2 = 1 then
    (List.range ((n + 4095) / 4096)).map fun k => (physNat s (buf + 8 * k) 8, min 4096 (n - 4096 * k))
  else [(buf, n)]

/-- The page list of a request, if it has one, lies in frames of its world or shared; another is not read (R387). -/
def listMay (s : State) (w : BitVec 16) (r : List Byte) (n : Nat) : Bool :=
  leAt r 32 1 == 0 || worldMay s w (leAt r 24 8) (8 * ((n + 4095) / 4096))

/-- A request is laid out as R387 says. -/
def storOk (s : State) (w : BitVec 16) (r : List Byte) (n : Nat) : Bool :=
  let op := leAt r 0 1
  decide (1 ≤ op) && decide (op ≤ 4) && leAt r 1 1 == 0 && decide (leAt r 2 2 < 256) && leAt r 20 4 == 0 &&
  decide (leAt r 32 1 < 2) && leAt r 33 7 == 0 && leAt r 56 8 == 0 &&
  (if op ≤ 2 then decide (1 ≤ leAt r 16 4) && decide (leAt r 16 4 ≤ 65536) else true) &&
  (if op = 3 then leAt r 16 4 == 0 else true) &&
  (if op ≤ 2 ∧ leAt r 32 1 = 1 ∧ listMay s w r n then (storPieces s r n).all fun p => p.1 % 4096 == 0 else true)

/-- Every byte that a request's transfer touches lies in frames of its world or shared (R387). -/
def storMay (s : State) (w : BitVec 16) (r : List Byte) (n : Nat) : Bool :=
  listMay s w r n && (storPieces s r n).all fun p => worldMay s w p.1 p.2

/-- The data units of a WRITE, each sealed with its number as the tweak (R373, R387). -/
def sealUnits (key : List Byte) (du size : Nat) (bytes : List Byte) (n : Nat) : List Byte :=
  (List.range n).flatMap fun i => padTo size (Config.xtsSeal key (du + i) ((bytes.drop (i * size)).take size))

/-- The data units of a READ, each opened with its number as the tweak; XTS detects nothing (R371, R373). -/
def openUnits (key : List Byte) (du size : Nat) (bytes : List Byte) (n : Nat) : List Byte :=
  (List.range n).flatMap fun i => padTo size (Config.xtsOpen key (du + i) ((bytes.drop (i * size)).take size))

/-- What the engine does with a request: its status at once, or the data that goes to the drive with it (R387). -/
def storAction (s : State) (x : PortQueue) (r : List Byte) : Nat ⊕ List Byte :=
  let op := leAt r 0 1
  match nsBinding s x.world r with
  | some b =>
    let n := if op ≤ 2 then leAt r 16 4 * unitBytes b else 0
    if !storOk s x.world r n then .inl 5
    else if op = 4 then
      (if x.world ≠ 0 ∨ !worldMay s x.world (leAt r 24 8) 4160 then .inl 4 else .inr (physRead s (leAt r 24 8) 4160))
    else if op = 3 then .inr []
    else match slotOf s b.handle with
      | none => .inl 3
      | some k =>
        if !storMay s x.world r n then .inl 4
        else if op = 1 then .inr []
        else .inr (sealUnits k.key (leAt r 8 8) (unitBytes b) ((storPieces s r n).flatMap fun p => physRead s p.1 p.2) (leAt r 16 4))
  | none =>
    if !storOk s x.world r 0 then .inl 5
    else if op ≤ 2 then .inl 3
    else if op = 4 then
      (if x.world ≠ 0 ∨ !worldMay s x.world (leAt r 24 8) 4160 then .inl 4 else .inr (physRead s (leAt r 24 8) 4160))
    else .inr []

/-- What a storage engine reads for a request: the request, the page list of its buffer, and the data that it sends; what it cannot know
before it has read the rest is not listed yet (R387). -/
def storReads (s : State) (x : PortQueue) (n : Nat) : List (Nat × Nat) :=
  let at_ := qSlot x n 64
  if !physGot s ringUnit at_ 64 then [(at_, 64)]
  else
    let r := physRead s at_ 64
    let op := leAt r 0 1
    let bytes := match nsBinding s x.world r with
      | some b => if op ≤ 2 then leAt r 16 4 * unitBytes b else 0
      | none => 0
    let list := if leAt r 32 1 = 1 ∧ op ≤ 2 ∧ 0 < bytes ∧ listMay s x.world r bytes = true then
      [(leAt r 24 8, 8 * ((bytes + 4095) / 4096))] else []
    if !list.all (fun p => physGot s ringUnit p.1 p.2) then (at_, 64) :: list
    else
      let data := if !storOk s x.world r bytes then []
        else if op = 2 ∧ storMay s x.world r bytes = true then storPieces s r bytes
        else if op = 4 ∧ x.world = 0 ∧ worldMay s x.world (leAt r 24 8) 4160 = true then [(leAt r 24 8, 4160)]
        else []
      (at_, 64) :: list ++ data

/-- STORAGE_REQUEST: while a line that it touches is held, or not answered, the request waits (R220, R359, R387). -/
def execStorageRequest (port queue : Nat) (s : State) : Answer :=
  match storQueue s port queue with
  | none => .next s
  | some x =>
    match storNext s port queue x with
    | none => .next s
    | some n =>
      if !worldMay s x.world x.base (64 * x.size) then .next (stopQueue s x)
      else
        let reads := storReads s x n
        if !physReady s reads [] then .next (physMiss s x.world reads [])
        else
        let r := physRead s (qSlot x n 64) 64
        match storAction s x r with
        | .inl st =>
          let writes := storWrites s x n st 0 0
          if !physReady s reads writes then .next (physMiss s x.world reads writes)
          else
            let s := if st = 3 then countField s (.scnt port) 63 32 else s
            .next (completeStor (physDone s reads writes x.world) port queue x n)
        | .inr data =>
          let s := physDone s reads [] x.world
          .next { s with
            nextId := s.nextId + 1
            mgmt := { s.mgmt with
              drives := tabPut s.mgmt.drives s.nextId
                { port := port, queue := queue, slot := n, base := x.base, size := x.size, world := x.world, bytes := r } }
            out := s.out ++ [.drive port (leAt r 2 2) r data] }

/-- The queue of a request at a drive, as it was when the request was taken: it completes although the queue has stopped or was disabled
meanwhile (R387). -/
def driveQueue (d : DriveReq) : PortQueue :=
  { base := d.base, size := d.size, ctl := .sqctl d.port d.queue, ptr := .sqptr d.port d.queue, world := d.world }

/-- The key of the namespace of a request is there, where a READ needs one (R369, R373). -/
def storKey (s : State) (x : PortQueue) (r : List Byte) : Bool :=
  leAt r 0 1 != 1 || ((nsBinding s x.world r).bind fun b => slotOf s b.handle).isSome

/-- Frames of a request's buffer may have changed owner since it was taken: what comes back for a frame of another world is not
written (R366, R368, R387). -/
def storStill (s : State) (x : PortQueue) (r : List Byte) : Bool :=
  match leAt r 0 1 with
  | 1 => (match nsBinding s x.world r with
    | some b => storMay s x.world r (leAt r 16 4 * unitBytes b)
    | none => true)
  | 4 => worldMay s x.world (leAt r 24 8) 4160
  | _ => true

/-- Bytes laid into some pieces of memory, one after the other. -/
def layPieces (ps : List (Nat × Nat)) (bs : List Byte) : List (Nat × List Byte) :=
  match ps with
  | [] => []
  | p :: r => (p.1, bs.take p.2) :: layPieces r (bs.drop p.2)

/-- Data from a drive enters the buffer of its request (R387). -/
def storLand (s : State) (x : PortQueue) (r data : List Byte) : List (Nat × List Byte) :=
  match leAt r 0 1 with
  | 1 => (match nsBinding s x.world r with
    | some b => (match slotOf s b.handle with
      | some k =>
        let n := leAt r 16 4 * unitBytes b
        layPieces (storPieces s r n) (openUnits k.key (leAt r 8 8) (unitBytes b) data (leAt r 16 4))
      | none => [])
    | none => [])
  | 4 => layPieces [(leAt r 24 8 + 64, 4096)] data
  | _ => []

/-- The page list that a READ reads again when its data lands (R387). -/
def landReads (s : State) (x : PortQueue) (r : List Byte) : List (Nat × Nat) :=
  match leAt r 0 1, nsBinding s x.world r with
  | 1, some b =>
    let n := leAt r 16 4 * unitBytes b
    if leAt r 32 1 = 1 ∧ listMay s x.world r n = true then [(leAt r 24 8, 8 * ((n + 4095) / 4096))] else []
  | _, _ => []

/-- The status that a drive's completion gives its request: a READ whose namespace is bound no longer, or whose key is gone, ends with
NOBIND (R373, R387). -/
def storStatus (s : State) (x : PortQueue) (r : List Byte) (status : BitVec 16) : Nat :=
  if status ≠ 0 then 2 else if !storKey s x r then 3 else if storStill s x r then 1 else 4

/-- DRIVE_COMPLETION: each request completes once (R373, R387); an engine that a control error has halted takes none (R397). While a line
that it touches is held, or not answered, the completion waits (R220, R359). -/
def execDriveCompletion (tag : Nat) (status : BitVec 16) (cdw0 : W32) (data : List Byte) (s : State) : Answer :=
  match tabFind s.mgmt.drives tag with
  | none => .next s
  | some d =>
    if unitDead s 11 d.port then .next s
    else
      let x := driveQueue d
      let c := if leAt d.bytes 0 1 = 4 then cdw0.toNat else 0
      let reads := landReads s x d.bytes
      if !physReady s reads [] then .next (holdInput (physMiss s x.world reads []) (.drive tag status cdw0 data))
      else
        let st := storStatus s x d.bytes status
        let writes := (if st = 1 then storLand s x d.bytes data else []) ++
          storWrites s x d.slot st (if st = 2 then status.toNat else 0) (if st ≤ 2 then c else 0)
        if !physReady s reads writes then .next (holdInput (physMiss s x.world reads writes) (.drive tag status cdw0 data))
        else
          let s := physDone { s with mgmt := { s.mgmt with drives := tabDel s.mgmt.drives tag } } reads writes x.world
          let s := if st = 2 then countField s (.scnt d.port) 31 0 else if st = 3 then countField s (.scnt d.port) 63 32 else s
          .next (completeStor s d.port d.queue x d.slot)

end Sys2Proof.Machine
end

