-- ==== Sys2Proof/Machine/RegWrite.lean ====
section
/-! DEFINITION. Writes to the registers of the system and debug windows, and what they start (R7, R98, R108, R180, R205, R255, R340,
R347, R364, R384 to R386, R391, R392). -/

namespace Sys2Proof.Machine

/-- The steps that a write starts: the rows of their own that the register's GO or request bits ask for (R7, R108, R180, R255, R326,
R356, R360, R364). In which order the requests of one DHALT write act is not stated: HALT, then RESUME, then STEP (DESIGN CHOICE,
log 22). -/
def registerStarts (r : SysReg) (v : W64) : List Instr :=
  match r with
  | .xlinvc => if v.getLsbD 38 then [.invalidation] else []
  | .pkop => if v.getLsbD 8 then (if wbits v 1 0 = 1 then [.parkRelease] else if wbits v 1 0 = 2 then [.parkCancel] else []) else []
  | .ftrel d => [.firstTouchRelease d (wbits v 55 16)]
  | .migcmd => if v.getLsbD 57 then [.migrationMove] else []
  | .lqptr q => [.lqptrTailWrite q (v.setWidth 32)]
  | .plaincfg d => [.plainCarve d v]
  | .debug core off =>
    if off = 0x010 then
      (if v.getLsbD 0 then [.debugHalt core] else []) ++ (if v.getLsbD 1 then [.debugResume core] else []) ++
      (if v.getLsbD 2 then [.debugStep core] else [])
    else if off = 0x200 then (if v.getLsbD 16 then [.programBufferGo core] else [])
    else []
  | _ => []

/-- The host core of a queue may be signalled again (R384). -/
def rearm (s : State) (r : SysReg) : State :=
  doorbell { s with mgmt := { s.mgmt with signalled := s.mgmt.signalled.filter fun x => x != r } }

/-- A write of EQCTL that changes WORLD unbinds the associations bound to the queue (R385). -/
def unbindQueue (s : State) (p d q : Nat) : State :=
  putIsland s { s.island with sas := s.island.sas.filter fun a => !(a.port == p && d == 1 && a.receive && a.queue == q) }

/-- Which registers a write leaves to the row of their own. -/
def ownRow (r : SysReg) : Bool :=
  match r with
  | .lqptr _ | .plaincfg _ => true
  | _ => false

/-- The fields after software's write: a device number of 4,608 or above is ignored, and a breakpoint mode of 3 sets 0 (R108, R180,
R205). -/
def writtenReg (s : State) (r : SysReg) (v : W64) : State :=
  match r with
  | .devnum => if 4608 ≤ wbits v 12 0 then s else writeReg s r v
  | .debug _ off =>
    let t := writeReg s r v
    if 0x040 ≤ off ∧ off < 0x0C0 ∧ off % 16 = 8 ∧ regField t r 1 0 = 3 then setField t r 1 0 0 else t
  | _ => if ownRow r then s else writeReg s r v

/-- What else follows a write: doorbells, a domain ring that is enabled, a park store whose spill ring changed, a queue whose world
changed (R232, R340, R384, R385, R391, R392). -/
def registerFollows (s t : State) (r : SysReg) : State :=
  match r with
  | .dcqctl d =>
    if regField s r 0 0 = 0 ∧ regField t r 0 0 = 1 then setField t (.dcqstat d) 31 0 1 else t
  | .pkspill _ => noteParks t
  | .eqptr _ _ _ | .sqptr _ _ => rearm t r
  | .eqctl p d q => if regField s r 31 16 = regField t r 31 16 then t else unbindQueue t p d q
  | .mbdb => ringBell (doorbell t) none 0
  | .ibdb n => islandDoorbell (doorbell t) (BitVec.ofNat 5 n)
  | _ => t

/-- A register of an island mailbox lies in a page that the hub admits only from its host core, and a debug window in one that only the
management core reaches (R98, R392). -/
def pageClosed (x : RegAsk) : Bool :=
  match x.reg with
  | .ibqbase n | .ibrbase n | .ibdb n | .ibctl n => x.host.map (·.toNat) != some n
  | .debug _ _ => x.host.isSome
  | _ => false

/-- REGISTER_WRITE: RW fields take the value and W1C bits written 1 clear; a GO or request bit starts its step next (R7). A device that
has not booted serves no write (R377). -/
def execRegisterWrite (reg : RegAsk) (value : W64) (s : State) : Answer :=
  if !s.mgmt.booted || pageClosed reg then .next s
  else
    let t := registerFollows s (writtenReg s reg.reg value) reg.reg
    .next { t with agenda := registerStarts reg.reg value ++ t.agenda }

end Sys2Proof.Machine
end

