-- ==== Sys2Proof/Machine/Dispatch.lean ====
section
/-! DEFINITION. The dispatch: each instruction and each step of a unit to its meaning. -/

namespace Sys2Proof.Machine

open Sys2Proof

/-- The meaning of an instruction or step in a state. -/
def exec (i : Instr) (s : State) : Host.Outcome State Fault Refusal :=
  match i with
  | .nop => Sys2Proof.Machine.execNop s
  | .exit => Sys2Proof.Machine.execExit s
  | .bra off => Sys2Proof.Machine.execBra off s
  | .jal sd off => Sys2Proof.Machine.execJal sd off s
  | .jalr sd sa imm => Sys2Proof.Machine.execJalr sd sa imm s
  | .beq sa sb off => Sys2Proof.Machine.execBeq sa sb off s
  | .bne sa sb off => Sys2Proof.Machine.execBne sa sb off s
  | .blt sa sb off => Sys2Proof.Machine.execBlt sa sb off s
  | .bge sa sb off => Sys2Proof.Machine.execBge sa sb off s
  | .bltn sa sb off => Sys2Proof.Machine.execBltn sa sb off s
  | .bgen sa sb off => Sys2Proof.Machine.execBgen sa sb off s
  | .bany p off => Sys2Proof.Machine.execBany p off s
  | .ball p off => Sys2Proof.Machine.execBall p off s
  | .bnone p off => Sys2Proof.Machine.execBnone p off s
  | .join => Sys2Proof.Machine.execJoin s
  | .yield => Sys2Proof.Machine.execYield s
  | .pause n => Sys2Proof.Machine.execPause n s
  | .pauseExpiry gang => Sys2Proof.Machine.execPauseExpiry gang s
  | .wide => Sys2Proof.Machine.execWide s
  | .endw => Sys2Proof.Machine.execEndw s
  | .regroup vfirst vlast k block => Sys2Proof.Machine.execRegroup vfirst vlast k block s
  | .regroupProceed gang => Sys2Proof.Machine.execRegroupProceed gang s
  | .bsync => Sys2Proof.Machine.execBsync s
  | .tsync => Sys2Proof.Machine.execTsync s
  | .barrierRelease gang => Sys2Proof.Machine.execBarrierRelease gang s
  | .retc => Sys2Proof.Machine.execRetc s
  | .sadd sd sa sb => Sys2Proof.Machine.execSadd sd sa sb s
  | .ssub sd sa sb => Sys2Proof.Machine.execSsub sd sa sb s
  | .smul sd sa sb => Sys2Proof.Machine.execSmul sd sa sb s
  | .smulh sd sa sb => Sys2Proof.Machine.execSmulh sd sa sb s
  | .smulhn sd sa sb => Sys2Proof.Machine.execSmulhn sd sa sb s
  | .sand sd sa sb => Sys2Proof.Machine.execSand sd sa sb s
  | .sor sd sa sb => Sys2Proof.Machine.execSor sd sa sb s
  | .sxor sd sa sb => Sys2Proof.Machine.execSxor sd sa sb s
  | .sshl sd sa sb => Sys2Proof.Machine.execSshl sd sa sb s
  | .sshr sd sa sb => Sys2Proof.Machine.execSshr sd sa sb s
  | .ssra sd sa sb => Sys2Proof.Machine.execSsra sd sa sb s
  | .smin sd sa sb => Sys2Proof.Machine.execSmin sd sa sb s
  | .smax sd sa sb => Sys2Proof.Machine.execSmax sd sa sb s
  | .sminn sd sa sb => Sys2Proof.Machine.execSminn sd sa sb s
  | .smaxn sd sa sb => Sys2Proof.Machine.execSmaxn sd sa sb s
  | .sslt sd sa sb => Sys2Proof.Machine.execSslt sd sa sb s
  | .ssltn sd sa sb => Sys2Proof.Machine.execSsltn sd sa sb s
  | .sclz sd sa => Sys2Proof.Machine.execSclz sd sa s
  | .spopc sd sa => Sys2Proof.Machine.execSpopc sd sa s
  | .saddi sd sa imm => Sys2Proof.Machine.execSaddi sd sa imm s
  | .sandi sd sa imm => Sys2Proof.Machine.execSandi sd sa imm s
  | .sori sd sa imm => Sys2Proof.Machine.execSori sd sa imm s
  | .sxori sd sa imm => Sys2Proof.Machine.execSxori sd sa imm s
  | .sshli sd sa n => Sys2Proof.Machine.execSshli sd sa n s
  | .sshri sd sa n => Sys2Proof.Machine.execSshri sd sa n s
  | .ssrai sd sa n => Sys2Proof.Machine.execSsrai sd sa n s
  | .sslti sd sa imm => Sys2Proof.Machine.execSslti sd sa imm s
  | .slui sd imm => Sys2Proof.Machine.execSlui sd imm s
  | .saddpc sd imm => Sys2Proof.Machine.execSaddpc sd imm s
  | .smovi sd imm => Sys2Proof.Machine.execSmovi sd imm s
  | .sins16 sd imm => Sys2Proof.Machine.execSins16 sd imm s
  | .sldw sd sa imm => Sys2Proof.Machine.execSldw sd sa imm s
  | .sldd sd sa imm => Sys2Proof.Machine.execSldd sd sa imm s
  | .sstw sd sa imm => Sys2Proof.Machine.execSstw sd sa imm s
  | .sstd sd sa imm => Sys2Proof.Machine.execSstd sd sa imm s
  | .sldk k sa imm => Sys2Proof.Machine.execSldk k sa imm s
  | .sldp sd sa imm => Sys2Proof.Machine.execSldp sd sa imm s
  | .sstp sd sa imm => Sys2Proof.Machine.execSstp sd sa imm s
  | .srd sd reg => Sys2Proof.Machine.execSrd sd reg s
  | .swr sd reg => Sys2Proof.Machine.execSwr sd reg s
  | .ssetb sd reg => Sys2Proof.Machine.execSsetb sd reg s
  | .sclrb sd reg => Sys2Proof.Machine.execSclrb sd reg s
  | .trap code => Sys2Proof.Machine.execTrap code s
  | .eret => Sys2Proof.Machine.execEret s
  | .fence pred succ scope => Sys2Proof.Machine.execFence pred succ scope s
  | .swait sa path => Sys2Proof.Machine.execSwait sa path s
  | .monw sa imm => Sys2Proof.Machine.execMonw sa imm s
  | .mwaitv sd sa => Sys2Proof.Machine.execMwaitv sd sa s
  | .monitorWake gang => Sys2Proof.Machine.execMonitorWake gang s
  | .mwaitvReread gang => Sys2Proof.Machine.execMwaitvReread gang s
  | .cmo sa sb kind => Sys2Proof.Machine.execCmo sa sb kind s
  | .dbgb code => Sys2Proof.Machine.execDbgb code s
  | .srdx sd sa reg => Sys2Proof.Machine.execSrdx sd sa reg s
  | .tcopy sa => Sys2Proof.Machine.execTcopy sa s
  | .tcopym sa => Sys2Proof.Machine.execTcopym sa s
  | .barinit sa sb => Sys2Proof.Machine.execBarinit sa sb s
  | .bararr sa sb arr => Sys2Proof.Machine.execBararr sa sb arr s
  | .barwait sa sb => Sys2Proof.Machine.execBarwait sa sb s
  | .mbatch sd => Sys2Proof.Machine.execMbatch sd s
  | .mwait sa => Sys2Proof.Machine.execMwait sa s
  | .genrol sd sa sb => Sys2Proof.Machine.execGenrol sd sa sb s
  | .gleave sa => Sys2Proof.Machine.execGleave sa s
  | .gload sd sa sb => Sys2Proof.Machine.execGload sd sa sb s
  | .gput sd sa sb => Sys2Proof.Machine.execGput sd sa sb s
  | .solicit sd sa sb => Sys2Proof.Machine.execSolicit sd sa sb s
  | .cwait sd sa => Sys2Proof.Machine.execCwait sd sa s
  | .respond sa sb => Sys2Proof.Machine.execRespond sa sb s
  | .diradd sd sa sb => Sys2Proof.Machine.execDiradd sd sa sb s
  | .dirdel sd sa => Sys2Proof.Machine.execDirdel sd sa s
  | .dirmov sd sa sb => Sys2Proof.Machine.execDirmov sd sa sb s
  | .dirDeparture handoff => Sys2Proof.Machine.execDirDeparture handoff s
  | .dirInstall handoff => Sys2Proof.Machine.execDirInstall handoff s
  | .departureAtSource handoff => Sys2Proof.Machine.execDepartureAtSource handoff s
  | .iadd f => Sys2Proof.Machine.execIadd f s
  | .isub f => Sys2Proof.Machine.execIsub f s
  | .imul f => Sys2Proof.Machine.execImul f s
  | .imulh f => Sys2Proof.Machine.execImulh f s
  | .imad f => Sys2Proof.Machine.execImad f s
  | .iadd3 f => Sys2Proof.Machine.execIadd3 f s
  | .iabs f => Sys2Proof.Machine.execIabs f s
  | .ineg f => Sys2Proof.Machine.execIneg f s
  | .imin f => Sys2Proof.Machine.execImin f s
  | .imax f => Sys2Proof.Machine.execImax f s
  | .iand f => Sys2Proof.Machine.execIand f s
  | .ior f => Sys2Proof.Machine.execIor f s
  | .ixor f => Sys2Proof.Machine.execIxor f s
  | .inot f => Sys2Proof.Machine.execInot f s
  | .tern f => Sys2Proof.Machine.execTern f s
  | .ishl f => Sys2Proof.Machine.execIshl f s
  | .ishr f => Sys2Proof.Machine.execIshr f s
  | .isra f => Sys2Proof.Machine.execIsra f s
  | .shf f => Sys2Proof.Machine.execShf f s
  | .popc f => Sys2Proof.Machine.execPopc f s
  | .clz f => Sys2Proof.Machine.execClz f s
  | .brev f => Sys2Proof.Machine.execBrev f s
  | .bfe f => Sys2Proof.Machine.execBfe f s
  | .bfi f => Sys2Proof.Machine.execBfi f s
  | .prmt f => Sys2Proof.Machine.execPrmt f s
  | .icmp f => Sys2Proof.Machine.execIcmp f s
  | .fcmp f => Sys2Proof.Machine.execFcmp f s
  | .klop f => Sys2Proof.Machine.execKlop f s
  | .kmov f => Sys2Proof.Machine.execKmov f s
  | .ktov f => Sys2Proof.Machine.execKtov f s
  | .sel f => Sys2Proof.Machine.execSel f s
  | .mov f => Sys2Proof.Machine.execMov f s
  | .movi f => Sys2Proof.Machine.execMovi f s
  | .fadd f => Sys2Proof.Machine.execFadd f s
  | .fsub f => Sys2Proof.Machine.execFsub f s
  | .fmul f => Sys2Proof.Machine.execFmul f s
  | .ffma f => Sys2Proof.Machine.execFfma f s
  | .fmin f => Sys2Proof.Machine.execFmin f s
  | .fmax f => Sys2Proof.Machine.execFmax f s
  | .fabs f => Sys2Proof.Machine.execFabs f s
  | .fneg f => Sys2Proof.Machine.execFneg f s
  | .frcp f => Sys2Proof.Machine.execFrcp f s
  | .frsq f => Sys2Proof.Machine.execFrsq f s
  | .fsqrt f => Sys2Proof.Machine.execFsqrt f s
  | .fexp2 f => Sys2Proof.Machine.execFexp2 f s
  | .flog2 f => Sys2Proof.Machine.execFlog2 f s
  | .fsin f => Sys2Proof.Machine.execFsin f s
  | .fcos f => Sys2Proof.Machine.execFcos f s
  | .ftanh f => Sys2Proof.Machine.execFtanh f s
  | .fdiv f => Sys2Proof.Machine.execFdiv f s
  | .frnd f => Sys2Proof.Machine.execFrnd f s
  | .fclass f => Sys2Proof.Machine.execFclass f s
  | .cvt f => Sys2Proof.Machine.execCvt f s
  | .cvtp f => Sys2Proof.Machine.execCvtp f s
  | .cvtu f => Sys2Proof.Machine.execCvtu f s
  | .qdec f => Sys2Proof.Machine.execQdec f s
  | .qenc f => Sys2Proof.Machine.execQenc f s
  | .scle f => Sys2Proof.Machine.execScle f s
  | .shfl f => Sys2Proof.Machine.execShfl f s
  | .qxch f => Sys2Proof.Machine.execQxch f s
  | .vote f => Sys2Proof.Machine.execVote f s
  | .matchLanes f => Sys2Proof.Machine.execMatchLanes f s
  | .redux f => Sys2Proof.Machine.execRedux f s
  | .scan f => Sys2Proof.Machine.execScan f s
  | .ltos f => Sys2Proof.Machine.execLtos f s
  | .ld f => Sys2Proof.Machine.execLd f s
  | .st f => Sys2Proof.Machine.execSt f s
  | .atom f => Sys2Proof.Machine.execAtom f s
  | .red f => Sys2Proof.Machine.execRed f s
  | .cas f => Sys2Proof.Machine.execCas f s
  | .pref f => Sys2Proof.Machine.execPref f s
  | .brl f => Sys2Proof.Machine.execBrl f s
  | .brxl f => Sys2Proof.Machine.execBrxl f s
  | .launch f => Sys2Proof.Machine.execLaunch f s
  | .launchEnqueue => Sys2Proof.Machine.execLaunchEnqueue s
  | .mma f => Sys2Proof.Machine.execMma f s
  | .mmat f => Sys2Proof.Machine.execMmat f s
  | .mmaz f => Sys2Proof.Machine.execMmaz f s
  | .mzero f => Sys2Proof.Machine.execMzero f s
  | .mld f => Sys2Proof.Machine.execMld f s
  | .mst f => Sys2Proof.Machine.execMst f s
  | .mout f => Sys2Proof.Machine.execMout f s
  | .matrixExecute core => Sys2Proof.Machine.execMatrixExecute core s
  | .emptyTurn => Sys2Proof.Machine.execEmptyTurn s
  | .instructionFetch req => Sys2Proof.Machine.execInstructionFetch req s
  | .translationWalk req => Sys2Proof.Machine.execTranslationWalk req s
  | .parkRecordWrite die ring => Sys2Proof.Machine.execParkRecordWrite die ring s
  | .memRequestAtHome req => Sys2Proof.Machine.execMemRequestAtHome req s
  | .accessComplete access => Sys2Proof.Machine.execAccessComplete access s
  | .lateCompletionDelivery access => Sys2Proof.Machine.execLateCompletionDelivery access s
  | .controllerService stack channel => Sys2Proof.Machine.execControllerService stack channel s
  | .basinWindowEnd stack bank => Sys2Proof.Machine.execBasinWindowEnd stack bank s
  | .spillFetch die slice => Sys2Proof.Machine.execSpillFetch die slice s
  | .portReplay req => Sys2Proof.Machine.execPortReplay req s
  | .copyComplete cmd => Sys2Proof.Machine.execCopyComplete cmd s
  | .groupTimerExpiry sector group => Sys2Proof.Machine.execGroupTimerExpiry sector group s
  | .groupFillComplete cmd => Sys2Proof.Machine.execGroupFillComplete cmd s
  | .gputDelivery cmd receiver => Sys2Proof.Machine.execGputDelivery cmd receiver s
  | .gputAck cmd receiver => Sys2Proof.Machine.execGputAck cmd receiver s
  | .solicitAtRoot => Sys2Proof.Machine.execSolicitAtRoot s
  | .coreReport census core => Sys2Proof.Machine.execCoreReport census core s
  | .responderStart core => Sys2Proof.Machine.execResponderStart core s
  | .responseCombine census index => Sys2Proof.Machine.execResponseCombine census index s
  | .censusComplete census => Sys2Proof.Machine.execCensusComplete census s
  | .censusTimeout census => Sys2Proof.Machine.execCensusTimeout census s
  | .launchRecordTake queue => Sys2Proof.Machine.execLaunchRecordTake queue s
  | .placeUnit => Sys2Proof.Machine.execPlaceUnit s
  | .yieldDeadline => Sys2Proof.Machine.execYieldDeadline s
  | .parkthCheck => Sys2Proof.Machine.execParkthCheck s
  | .saveImageWrite ctx => Sys2Proof.Machine.execSaveImageWrite ctx s
  | .contextRestore ctx => Sys2Proof.Machine.execContextRestore ctx s
  | .blockRetire block => Sys2Proof.Machine.execBlockRetire block s
  | .launchRetire launch => Sys2Proof.Machine.execLaunchRetire launch s
  | .lqptrTailWrite queue tail => Sys2Proof.Machine.execLqptrTailWrite queue tail s
  | .graphNodeStart launch node => Sys2Proof.Machine.execGraphNodeStart launch node s
  | .graphNodeFinish launch node => Sys2Proof.Machine.execGraphNodeFinish launch node s
  | .slwb die => Sys2Proof.Machine.execSlwb die s
  | .dsplit die => Sys2Proof.Machine.execDsplit die s
  | .dsplitComplete die => Sys2Proof.Machine.execDsplitComplete die s
  | .firstTouchRelease die region => Sys2Proof.Machine.execFirstTouchRelease die region s
  | .plainCarve die value => Sys2Proof.Machine.execPlainCarve die value s
  | .migrationDone tierOk => Sys2Proof.Machine.execMigrationDone tierOk s
  | .dcReleaseAck base => Sys2Proof.Machine.execDcReleaseAck base s
  | .tierReseal granule => Sys2Proof.Machine.execTierReseal granule s
  | .linkRetryExhausted link => Sys2Proof.Machine.execLinkRetryExhausted link s
  | .sleepPrep host => Sys2Proof.Machine.execSleepPrep host s
  | .identity seq ack => Sys2Proof.Machine.execIdentity seq ack s
  | .power seq ack target => Sys2Proof.Machine.execPower seq ack target s
  | .errcount seq ack clear unit => Sys2Proof.Machine.execErrcount seq ack clear unit s
  | .resync seq ack => Sys2Proof.Machine.execResync seq ack s
  | .txDescriptor port queue => Sys2Proof.Machine.execTxDescriptor port queue s
  | .storageRequest port queue => Sys2Proof.Machine.execStorageRequest port queue s
  | .debugHalt core => Sys2Proof.Machine.execDebugHalt core s
  | .haltComplete block => Sys2Proof.Machine.execHaltComplete block s
  | .debugResume core => Sys2Proof.Machine.execDebugResume core s
  | .debugStep core => Sys2Proof.Machine.execDebugStep core s
  | .programBufferGo core => Sys2Proof.Machine.execProgramBufferGo core s
  | .debugSample core => Sys2Proof.Machine.execDebugSample core s
  | .handoffFailure handoff => Sys2Proof.Machine.execHandoffFailure handoff s
  | .lowerTierService req answer => Sys2Proof.Machine.execLowerTierService req answer s
  | .dcReleaseRequest base size => Sys2Proof.Machine.execDcReleaseRequest base size s
  | .dcForcedRelease base size => Sys2Proof.Machine.execDcForcedRelease base size s
  | .flitReceive link flit => Sys2Proof.Machine.execFlitReceive link flit s
  | .flitResend link => Sys2Proof.Machine.execFlitResend link s
  | .linkRetrain link => Sys2Proof.Machine.execLinkRetrain link s
  | .worldCreate host keyHash => Sys2Proof.Machine.execWorldCreate host keyHash s
  | .worldDestroy host world => Sys2Proof.Machine.execWorldDestroy host world s
  | .ctxBind host ctx root debug parkth => Sys2Proof.Machine.execCtxBind host ctx root debug parkth s
  | .frameAssign host world frame count => Sys2Proof.Machine.execFrameAssign host world frame count s
  | .frameReclaim host world frame count => Sys2Proof.Machine.execFrameReclaim host world frame count s
  | .keyImport host wrap usage blob => Sys2Proof.Machine.execKeyImport host wrap usage blob s
  | .keyDestroy host handle => Sys2Proof.Machine.execKeyDestroy host handle s
  | .saBind host handle target => Sys2Proof.Machine.execSaBind host handle target s
  | .worldReport host => Sys2Proof.Machine.execWorldReport host s
  | .wmrExtend host mr digest => Sys2Proof.Machine.execWmrExtend host mr digest s
  | .migrateOut host policy tenantKey destRegs ready session => Sys2Proof.Machine.execMigrateOut host policy tenantKey destRegs ready session s
  | .migrateIn world image session => Sys2Proof.Machine.execMigrateIn world image session s
  | .getVersion => Sys2Proof.Machine.execGetVersion s
  | .getCapabilities => Sys2Proof.Machine.execGetCapabilities s
  | .getDigests => Sys2Proof.Machine.execGetDigests s
  | .negotiateAlgorithms request => Sys2Proof.Machine.execNegotiateAlgorithms request s
  | .getCertificate request => Sys2Proof.Machine.execGetCertificate request s
  | .challenge request => Sys2Proof.Machine.execChallenge request s
  | .getMeasurements block => Sys2Proof.Machine.execGetMeasurements block s
  | .keyExchange peer request => Sys2Proof.Machine.execKeyExchange peer request s
  | .finish session request => Sys2Proof.Machine.execFinish session request s
  | .keyUpdate session => Sys2Proof.Machine.execKeyUpdate session s
  | .endSession session => Sys2Proof.Machine.execEndSession session s
  | .deviceReset images => Sys2Proof.Machine.execDeviceReset images s
  | .correctedError unit => Sys2Proof.Machine.execCorrectedError unit s
  | .uncorrectedDataError unit pa => Sys2Proof.Machine.execUncorrectedDataError unit pa s
  | .uncorrectedControlError unit cause ctx => Sys2Proof.Machine.execUncorrectedControlError unit cause ctx s
  | .rxFrame port frame => Sys2Proof.Machine.execRxFrame port frame s
  | .driveCompletion tag status cdw0 data => Sys2Proof.Machine.execDriveCompletion tag status cdw0 data s
  | .registerWrite reg value => Sys2Proof.Machine.execRegisterWrite reg value s
  | .commit asDestination world session => Sys2Proof.Machine.execCommit asDestination world session s
  | .powerLoss retention => Sys2Proof.Machine.execPowerLoss retention s
  | .confidentialVmEntry host world => Sys2Proof.Machine.execConfidentialVmEntry host world s
  | .confidentialVmExit host => Sys2Proof.Machine.execConfidentialVmExit host s
  | .migrationMove => Sys2Proof.Machine.execMigrationMove s
  | .parkRelease => Sys2Proof.Machine.execParkRelease s
  | .parkCancel => Sys2Proof.Machine.execParkCancel s
  | .invalidation => Sys2Proof.Machine.execInvalidation s
  | .invalidationDone => Sys2Proof.Machine.execInvalidationDone s
  | .heartbeat => Sys2Proof.Machine.execHeartbeat s
  | .dIdleEntry => Sys2Proof.Machine.execDIdleEntry s

end Sys2Proof.Machine
end

