-- ==== Sys2Proof/Machine/Hosts.lean ====
section
/-! DEFINITION. The accesses of the host cores and the management core to device memory, under RVWMO among themselves and with the
device's agents at the homes, and the requests of other devices for lines of this one (R201, R218, R220, R221). -/

namespace Sys2Proof.Machine

/-- It reads, it writes. -/
def hostReads (k : HostKind) : Bool :=
  match k with
  | .load | .lr | .amo .. | .cas => true
  | .store | .sc | .fence .. => false
def hostWrites (k : HostKind) : Bool :=
  match k with
  | .store | .sc | .amo .. | .cas => true
  | .load | .lr | .fence .. => false

/-- Two accesses share a byte. -/
def hostMeet (a b : HostAcc) : Bool := decide (a.pa < b.pa + b.len) && decide (b.pa < a.pa + a.len)

/-- An earlier access of a core comes before a later one in global memory order: RVWMO's preserved program order, that is overlap,
fences, acquire and release, reservations and dependencies (R221; log 5). -/
def hostOrdered (id : Nat) (a b : HostAcc) : Bool :=
  match a.kind, b.kind with
  | .fence _ _ r w, _ => (r && hostReads b.kind) || (w && hostWrites b.kind) || !(hostReads b.kind || hostWrites b.kind)
  | _, .fence r w _ _ => (r && hostReads a.kind) || (w && hostWrites a.kind)
  | ka, kb =>
    a.aq || b.rl || (a.rl && b.aq) || b.after.contains id || (ka == .lr && kb == .sc) ||
    (hostMeet a b && (hostWrites kb || hostReads ka || ka == .sc))

/-- Earlier accesses of an access's core that are not performed, oldest first. -/
def hostEarlier (s : State) (id : Nat) (a : HostAcc) : List (Nat × HostAcc) :=
  s.hostAccs.filter fun e => decide (e.1 < id) && e.2.core == a.core

/-- The world of an access: its flit's, or that of the code its core runs; the management core is outside every confidential VM
(R365). -/
def hostAccWorld (s : State) (a : HostAcc) : BitVec 16 :=
  a.peer.getD (if a.core < 32 then hostWorld s (BitVec.ofNat 5 a.core) else 0)

/-- Bytes that a host access touches. -/
def hostBytes (a : HostAcc) : List Nat := (List.range a.len).map fun i => a.pa + i

/-- A host access at the home of a line: without a leaf the slice of domain 0 under HASH, with the leaf of another device's request the
slice that its DOM and HOME name (R220, R355, R408). -/
def hostAt (s : State) (a : HostAcc) (p : Nat) : Req :=
  { agent := .hub, before := [], access := none, cmd := none, unit := none, core := 288, ctx := 0, world := hostAccWorld s a, asid := 0,
    seq := 0, kind := if a.fetch then .fetch 0 0 else .read, space := .g, va := 0, pa := p / 64 * 64, leaf := a.leaf, order := .rlx, scope := 4, urgent := false,
    parts := [], stage := .home, entered := 0, slice := homeOf s p a.leaf 288 }

/-- A store may write a whole poisoned line anew: the access covers it (R397, R398; log 5). -/
def wholeLine (a : HostAcc) (p : Nat) : Bool :=
  a.kind == .store && decide (a.pa ≤ p / 64 * 64) && decide (p / 64 * 64 + 64 ≤ a.pa + a.len)

/-- The unit number of a host access. -/
def hostUnit (id : Nat) : Nat × Nat := (5, id)

/-- Nothing at the home of a line of this device but the queue of its slice keeps an access from it: nothing holds it there, its frame
belongs to the access's world or is shared, and it is not poisoned, or wholly written anew (R181, R231, R361, R362, R366, R398). -/
def hostServed (s : State) (a : HostAcc) (p : Nat) : Bool :=
  let r := hostAt s a p
  match homeGate s 0 r with
  | .ok | .miss _ => !(homeLine s r.slice r.pa).2 || wholeLine a p
  | .park .poison => wholeLine a p && (extentOf s r.pa).isNone
  | _ => false

/-- What an access of another device to a line of this one meets that is answered with a refusal (R231, R366). -/
def hostRefused (s : State) (a : HostAcc) : Option Refused :=
  if a.peer.isNone then none else (hostBytes a).findSome? fun p =>
    match homeGate s 0 (hostAt s a p) with
    | .park .world => some .world
    | .park .poison => if hostServed s a p then none else some .poison
    | .ok | .miss _ => if hostServed s a p then none else some .poison
    | _ => none

/-- What an access asks the device that homes its lines to do: a read, a write, or the whole read and write of an AMO or a CAS; an SC
asks for nothing, since no reservation of another device's line stands (R220, R221; log 5). -/
def hostAsk (s : State) (id : Nat) (a : HostAcc) : State :=
  let w := hostAccWorld s a
  match a.kind with
  | .load | .lr => physAsk s (hostUnit id) w a.pa a.len
  | .store => physSend s (hostUnit id) w a.pa (a.data.take a.len)
  | .amo op ty => putReq s (physReq s (hostUnit id) w (.rmw op ty) a.pa a.len (a.data.take a.len) [])
  | .cas => putReq s (physReq s (hostUnit id) w .cas a.pa a.len ((a.data.drop a.len).take a.len) (a.data.take a.len))
  | .sc | .fence .. => s

/-- The answer to an AMO or a CAS at a line of another device. -/
def hostAnswer (s : State) (id : Nat) : Option (List Byte) :=
  (s.reqs.find? fun e => isPhys (hostUnit id) e.2 && e.2.stage == .done && e.2.kind != .read && e.2.kind != .write).map
    fun e => e.2.parts.flatMap (·.res)

/-- An access to another device's lines has been performed there (R220). -/
def hostFar (s : State) (id : Nat) (a : HostAcc) : Bool :=
  match a.kind with
  | .load | .lr => physGot s (hostUnit id) a.pa a.len
  | .store => physSent s (hostUnit id) a.pa (a.data.take a.len)
  | .amo .. | .cas => (hostAnswer s id).isSome
  | .sc | .fence .. => true

/-- Every line of an access can be reached at its home now: its slice takes it and runs, and nothing else holds it there; or the access
has been performed on the device that homes it, or is refused; otherwise it is not answered (R181, R220, R231, R359, R361, R362, R366,
R397; log 5). -/
def hostAllowed (s : State) (id : Nat) (a : HostAcc) : Bool :=
  if isRemote s a.pa then hostFar s id a
  else (hostRefused s a).isSome ||
    (hostBytes a).all fun p => hostServed s a p && sliceTakes s (hostUnit id) (hostAt s a p).slice p

/-- A host access that only the queues of slices, or the links, keep from its lines takes its places in those queues, or is sent (R220,
R359). -/
def hostEnter (s : State) (id : Nat) (a : HostAcc) : State :=
  if isRemote s a.pa then (if s.reqs.any fun e => isPhys (hostUnit id) e.2 then s else hostAsk s id a)
  else ((hostBytes a).filter fun p => p == a.pa || p % 64 == 0).foldl
    (fun s p => if hostServed s a p then physQueue s (hostUnit id) (hostAt s a p).slice p else s) s

/-- The link that an answer leaves by takes flits (R363, R376). -/
def answerOpen (s : State) (a : HostAcc) : Bool := a.peer.isNone || !linkShut s (linkOf s (a.core - 64))

/-- An access has its turn: no earlier one must come before it (R221). -/
def hostTurn (s : State) (id : Nat) (a : HostAcc) : Bool :=
  answerOpen s a && (hostEarlier s id a).all fun e => !hostOrdered e.1 e.2 a

/-- An access can be performed (R221). -/
def hostReady (s : State) (id : Nat) (a : HostAcc) : Bool := hostTurn s id a && hostAllowed s id a

/-- Bytes with those that a store puts among them. -/
def hostLay (a : HostAcc) (bs : List Byte) (q : HostAcc) : List Byte :=
  bs.zipIdx.map fun e =>
    let p := a.pa + e.2
    if q.pa ≤ p ∧ p < q.pa + q.len then q.data.getD (p - q.pa) 0 else e.1

/-- The bytes of an access at their homes, or as the device that homes them answered (R220). -/
def hostRead (s : State) (id : Nat) (a : HostAcc) : List Byte :=
  if isRemote s a.pa then (hostAnswer s id).getD (physReadOf s (hostUnit id) a.pa a.len)
  else (hostBytes a).map fun p => lineByte (homeLine s (homeOf s p a.leaf 288) (p / 64 * 64)).1 (p % 64)

/-- The value of a load: memory at its home, with the core's own earlier stores that still wait laid over it (R221). -/
def hostValue (s : State) (id : Nat) (a : HostAcc) : List Byte :=
  (((hostEarlier s id a).map (·.2)).filter fun q => q.kind == .store).foldl (hostLay a) (hostRead s id a)

/-- The lines of an access have come to their home slices as those of any request (R351, R356). -/
def hostFetch (s : State) (a : HostAcc) : State :=
  if isRemote s a.pa then s else ((hostBytes a).filter fun p => p == a.pa || p % 64 == 0).foldl (fun s p => fetchLine s (hostAt s a p)) s

/-- Write bytes at an address in an access's world, at the homes that its leaf gives; what another device homes has been written there
(R220, R366, R408). -/
def hostPut (s : State) (a : HostAcc) (pa : Nat) (bs : List Byte) : State :=
  if isRemote s pa then s else (lineChunks (BitVec.ofNat 64 pa) bs).foldl (fun s e =>
    let p := e.1.toNat
    let slice := homeOf s p a.leaf 288
    let s := writeHome s slice (p / 64 * 64) (p % 64) e.2 a.leaf.dom a.leaf.basin (hostAccWorld s a)
    if wholeLine a p then healLine s slice (p / 64 * 64) else s) s

/-- Perform a host access (R218, R221): an SC writes while its reservation stands, and returns 0 then and 1 otherwise; an LR of another
device's line reserves nothing (log 5). -/
def hostPerform (s : State) (id : Nat) (a : HostAcc) : State :=
  let w := hostAccWorld s a
  let s0 := hostFetch (physEnd { s with hostAccs := tabDel s.hostAccs id } (hostUnit id)) a
  let ret (s : State) (v : List Byte) : State :=
    if a.peer.isSome then putFlit s (a.core - 64) w none else { s with hostVals := tabPut s.hostVals id v }
  let old := hostRead s id a
  match a.kind with
  | .fence .. => { s with hostAccs := tabDel s.hostAccs id }
  | .load => ret s0 (hostValue s id a)
  | .lr => ret (if isRemote s a.pa then s0 else { s0 with hostResv := tabPut s0.hostResv a.core (a.pa / 64) }) (hostValue s id a)
  | .store => if a.peer.isSome then ret (hostPut s0 a a.pa a.data) [] else hostPut s0 a a.pa a.data
  | .sc =>
    if tabFind s.hostResv a.core = some (a.pa / 64) ∧ !isRemote s a.pa then
      ret { hostPut s0 a a.pa a.data with hostResv := tabDel (hostPut s0 a a.pa a.data).hostResv a.core } [0]
    else ret { s0 with hostResv := tabDel s0.hostResv a.core } [1]
  | .amo op ty => ret (hostPut s0 a a.pa (leBytes a.len (rmwNew op ty a.len (leNat old) (leNat a.data)))) old
  | .cas => ret (if old == a.data.take a.len then hostPut s0 a a.pa ((a.data.drop a.len).take a.len) else s0) old

/-- What a host access does at its turn: it is performed, or answered with a refusal, or it enters queues and links (R220, R359, R366). -/
def hostStep (s : State) (id : Nat) (a : HostAcc) : State :=
  if !hostAllowed s id a then hostEnter s id a
  else if (hostRefused s a).isSome then
    putFlit (physEnd { s with hostAccs := tabDel s.hostAccs id } (hostUnit id)) (a.core - 64) (hostAccWorld s a) none
  else hostPerform s id a

/-- Host accesses that have a step to take now. -/
def hostDue (s : State) : List (Nat × HostAcc) :=
  s.hostAccs.filter fun e => hostTurn s e.1 e.2 && hostStep s e.1 e.2 != s

end Sys2Proof.Machine
end

