-- ==== Sys2Proof/Machine/Turn.lean ====
section
/-! DEFINITION. What happens next: the input that is due, the turn of a gang, a step of a unit, or the next cycle (R21 to R29, R43,
R99 to R105, R183, R193, R194, R196, R200, R274, R298, R318). -/

namespace Sys2Proof.Machine

open Sys2Proof

/-- What a step does: it runs an instruction or a unit's step in a state, or only changes the state. -/
inductive Plan where
  | run (i : Instr) (s : State)
  | done (s : State)
  deriving DecidableEq, Repr

/-- A fragment goes on behind the instruction it waits at. -/
def goOn (f : Frag) : Frag := { f with pc := f.pc + 4, wait := .running, words := [] }

/-- The wait of a fragment ends when its condition holds: BARWAIT, MWAIT, SWAIT and CWAIT (R194, R274, R298, R318). The waits at
JOIN, WIDE and ENDW end with the last arrival; barriers, REGROUP and MWAITV have steps of their own. A gang that waits at CWAIT while
another one consumes the census gets all ones, of which the spec says nothing (R318; DESIGN CHOICE, log 21). -/
def endWait (s : State) (key : Nat) (b : Block) (e : Nat × Frag) : State :=
  match tabFind s.gangs key with
  | none => s
  | some g =>
    let go (s : State) (g : Gang) : State := putGang s key (putFrag g e.1 (goOn e.2))
    match e.2.wait with
    | .barwait base ph =>
      if !padOpen s key g.block b s.nextId base 16 && (readBarrier b base).phase != ph then absorb (go s g) key else s
    | .mwait x => if mwaitHolds s key b.core g.bn x then s else go s g
    | .swait p n => if pathCount g p ≤ n.toNat then go s g else s
    | .cwait sd id order =>
      match (tabFind s.censuses id).filter fun c => c.block == g.block && c.order == order with
      | some c => if c.complete then go (consumeCensus s b id) (setSreg g sd (BitVec.ofNat 64 c.counted)) else s
      | none => go s (setSreg g sd (BitVec.allOnes 64))
    | .running | .join _ | .wide | .endw | .regroup _ | .bsync | .tsync | .mwaitvRead _ _ _ | .mwaitvIdle _ _ _ => s

/-- The FENCE a gang waits at ends once its predecessors are performed: its earlier reads act as acquires, and later reads are not
served by older lines of its L1 (R196, R209). -/
def endFence (s : State) (key : Nat) (g : Gang) (b : Block) : State :=
  match g.fence with
  | none => s
  | some w =>
    if (fenceReason s key b w).isSome then s
    else
      let s := putGang s key { g with fence := none }
      let s := if w.pred.getLsbD 0 then absorb s key else s
      if w.succ.getLsbD 0 && decide (2 ≤ w.scope) then discardL1 s b.core b.world else s

/-- The waits of a gang that is not stopped end at its turn when they can. -/
def endWaits (s : State) (key : Nat) (g : Gang) (b : Block) : State :=
  if stopped s b g then s
  else
    let s := g.frags.foldl (fun s e => endWait s key b e) s
    match tabFind s.gangs key with
    | some g => endFence s key g b
    | none => s

/-- A breakpoint of a core's debug unit matches the instruction that a gang is about to issue (R103, R108). -/
def breakMatch (s : State) (b : Block) (f : Frag) (n : Nat) : Bool :=
  let ctl := reg s (.debug b.core (0x048 + 16 * n))
  (wbits ctl 1 0 == 1 || wbits ctl 1 0 == 2) && (reg s (.debug b.core (0x040 + 16 * n))).toNat / 4 == f.pc.toNat / 4 &&
  (!ctl.getLsbD 2 || wbits ctl 63 32 == b.launch)

/-- The breakpoint that stops the next instruction of a gang, if one does (R98, R101, R103). -/
def breakHit (s : State) (b : Block) (g : Gang) (f : Frag) : Option Nat :=
  if debugServes s b && !g.skipBp then (List.range 8).find? (breakMatch s b f) else none

/-- What a match does: a record, and the halt or the hold, unless the world permits no debug (R98, R103, R107). -/
def breakEffect (s : State) (key : Nat) (g : Gang) (b : Block) (f : Frag) (n : Nat) : State :=
  let s := traceRecord s b 1 g.gid n f.pc
  if !debugPermitted s b.ctx b.world then denyDebug s b.core
  else if wbits (reg s (.debug b.core (0x048 + 16 * n))) 1 0 = 1 then requestHalt s g.block
  else gatherCheck (putGang s key { g with held := some n }) g.block

/-- The instruction of a fragment's words in a state that names it as the one being issued; words that decode to none trap (R59). -/
def issueWords (s : State) (c : Cur) (g : Gang) (b : Block) (f : Frag) : Plan :=
  let s := { s with cur := some c }
  match decodeWords (c.words.getD 0 0) (c.words.getD 1 0) (c.words.getD 2 0) with
  | .instr i => .run i s
  | .illegal step => .done (takeTrap s { cur := c, g := g, b := b, f := f } causeIllegal step 0 (trapWords c.words))

/-- A debug step ends because the gang waits for a gang of a halted block (R101). -/
def stepStuck (s : State) (key : Nat) (g : Gang) (b : Block) : Bool :=
  stepping g && !g.frags.any (fun e => (fragReason s key g b e.2).isNone) &&
  (match tabFind g.frags g.cur with
    | some f =>
      let needs (ps : List (Nat × Gang)) (w : Gang → Bool) : Bool := ps.any fun p => p.1 != key && !w p.2 &&
        (match tabFind s.blocks p.2.block with
          | some q => q.halted
          | none => false)
      match f.wait with
      | .bsync => needs (barrierGangs s g.block b false) fun p => reached p .bsync
      | .tsync => needs (barrierGangs s g.block b true) fun p => reached p .tsync
      | .regroup w => needs (regroupGangs s g w) fun p => (regroupWord p).isSome
      | _ => false
    | none => false)

/-- A gang's turn when it may issue: the slot's holder issues its instruction, or a breakpoint matches, or the turn is empty. -/
def slotTurn (s : State) (key : Nat) (g : Gang) (b : Block) : Plan :=
  let g := searchSlot s key g b
  let empty (s : State) : Plan := .run .emptyTurn { s with cur := some { gang := key, entry := g.cur, words := [], stuffed := none } }
  match tabFind g.frags g.cur with
  | none => empty s
  | some f =>
    if (fragReason s key g b f).isNone && fetched f then
      let c : Cur := { gang := key, entry := g.cur, words := f.words.take (wordsNeeded f.words), stuffed := none }
      match breakHit s b g f with
      | some n =>
        let s := breakEffect (putGang s key g) key g b f n
        if debugPermitted s b.ctx b.world then empty s else issueWords s c g b f
      | none => issueWords (putGang s key g) c g b f
    else empty (if stepStuck s key g b then endStep s key b.core true else s)

/-- Instructions that stop the program buffer with cause REFUSED (R105). -/
def refusedInBuffer (i : Instr) : Bool :=
  match i with
  | .exit | .bra _ | .jal _ _ | .jalr _ _ _ | .beq _ _ _ | .bne _ _ _ | .blt _ _ _ | .bge _ _ _ | .bltn _ _ _ | .bgen _ _ _
  | .bany _ _ | .ball _ _ | .bnone _ _ | .join | .yield | .pause _ | .wide | .endw | .regroup _ _ _ _ | .bsync | .tsync | .retc
  | .barwait _ _ | .mwait _ | .swait _ _ | .cwait _ _ | .mwaitv _ _
  | .launch _ | .solicit _ _ _ | .respond _ _ | .genrol _ _ _ | .gleave _ | .trap _ | .eret => true
  | _ => false

/-- An instruction issues from the program buffer: the gang has been written by stuffing since a trap halted it (R248). -/
def markMended (s : State) (key : Nat) : State := { s with gangs := tabUpd s.gangs key fun g => { g with mended := true } }

/-- The words of a program-buffer entry (R105, R108). -/
def bufferWords (s : State) (core e : Nat) : List W32 :=
  let ws := (List.range 3).map fun k => (reg s (.debug core (0x100 + 16 * e + 4 * k))).setWidth 32
  ws.take (wordsNeeded ws)

/-- A turn of a gang whose program buffer runs: the next entry issues once nothing holds it; the buffer is done once its own
accesses are. An entry whose words decode to no instruction stops the buffer with TRAP, in class 0x0 as well (R105; log 22); one whose
fragment no longer exists stops with REFUSED, of which the spec says nothing (DESIGN CHOICE, log 22). -/
def bufferTurn (s : State) (key : Nat) (g : Gang) (b : Block) (st : Stuffing) : Plan :=
  let c (ws : List W32) (m : Option Mask) : Cur := { gang := key, entry := st.entry, words := ws, stuffed := m }
  let empty (s : State) : Plan := .run .emptyTurn { s with cur := some (c [] none) }
  match tabFind g.frags st.entry with
  | none => empty (stopBuffer s b.core st.next 1 0)
  | some f =>
    if st.next = st.count then
      if s.accs.any fun e => e.2.gang == key && decide (st.first ≤ e.1) && e.2.stuffed then empty s
      else empty (stopBuffer s b.core 0 0 0)
    else
      let ws := bufferWords s b.core st.next
      let go (s : State) : Plan :=
        let s := { s with stuffing := tabPut s.stuffing b.core { st with next := st.next + 1 } }
        issueWords (markMended s key) (c ws (some (if st.all then g.live else f.mask))) g b f
      match decodeWords (ws.getD 0 0) (ws.getD 1 0) (ws.getD 2 0) with
      | .illegal _ => go s
      | .instr i =>
        if refusedInBuffer i then empty (stopBuffer s b.core st.next 1 0)
        else if g.turn < g.issueAt ∨ g.fence.isSome then empty s
        else if (instrReason s key g b i).isSome then
          .run .emptyTurn { s with cur := some (c [ws.getD 0 0, ws.getD 1 0, ws.getD 2 0] (some f.mask)) }
        else go s

/-- A FENCE issued from a program buffer ends as another does. -/
def bufferFence (s : State) (key : Nat) (g : Gang) (b : Block) : State := endFence s key g b

/-- A gang may issue a matrix instruction at this turn: a fragment's next one is, or its program buffer runs. -/
def matrixNext (s : State) (g : Gang) (b : Block) : Bool :=
  (tabFind s.stuffing b.core).isSome || g.frags.any fun e => fetched e.2 && (match fragInstr e.2 with
    | .instr i => isMatrix i
    | .illegal _ => false)

/-- A gang of a lower pipe of the same core has its turn in this cycle still to come. -/
def lowerPipe (s : State) (g : Gang) (b : Block) (rest : List Nat) : Bool :=
  rest.any fun k => match tabFind s.gangs k with
    | some h => decide (h.pipe < g.pipe) && !h.retired && (match tabFind s.blocks h.block with
      | some c => c.core == b.core
      | none => false)
    | none => false

/-- The turn of a gang, with the turns of the cycle that come after it. A program buffer runs only while its block is halted and its
context is not switched: after a RESUME it stands until the block is halted again. Matrix instructions of one cycle enter the queue by
pipe number (R21, R24, R29, R101, R105, R293; log 22). -/
def gangTurn (s : State) (key : Nat) (rest : List Nat) : Plan :=
  match tabFind s.gangs key with
  | none => .done { s with turns := rest }
  | some g =>
    match tabFind s.blocks g.block with
    | none => .done { s with turns := rest }
    | some b =>
      if g.retired then .done { s with turns := rest }
      else if matrixNext s g b && lowerPipe s g b rest then .done { s with turns := rest ++ [key] }
      else if g.pausing && g.pauseLeft == 0 && !stopped s b g then .run (.pauseExpiry key) { s with turns := key :: rest }
      else
        let g := { g with turn := g.turn + 1 }
        let s := putGang { s with turns := rest } key g
        let st := match tabFind s.stuffing b.core with
          | some st => if st.gang = key ∧ b.halted ∧ !ctxMoving s b.ctx ∧ !coreDead s b.core then some st else none
          | none => none
        match st with
        | some st =>
          let s := bufferFence s key g b
          (match tabFind s.gangs key with
            | some g => bufferTurn s key g b st
            | none => .done s)
        | none =>
          let s := endWaits s key g b
          match tabFind s.gangs key with
          | none => .done s
          | some g =>
            if searches s g b then slotTurn s key g b
            else .run .emptyTurn { s with cur := some { gang := key, entry := g.cur, words := [], stuffed := none } }

/-- The next message of the management mailbox, while a reply has room: the step of its request, a RESYNC with SEQ 1 of a side that has
restarted among them, or a message that names none (R390, R391). -/
def mgmtNext (s : State) : Option (Instr ⊕ Mail) :=
  match if s.mgmt.booted then mailRings s none else none, mailRequest s none with
  | some (_, _, n), some x =>
    let m := mailBytes x
    let seq : W32 := BitVec.ofNat 32 (leAt m 0 4)
    let ack : W32 := BitVec.ofNat 32 (leAt m 4 4)
    if !replyRoom { s.mgmt.mailbox with acked := ack } n && !(x == .odd m && leAt m 8 2 = 4 && seq = 1) then none
    else match x, leAt m 8 2 with
      | .odd _, 4 => if seq = 1 then some (.inl (.resync ⟨false, seq⟩ ack)) else some (.inr x)
      | .odd _, _ => some (.inr x)
      | .next _, 1 => some (.inl (.identity ⟨false, seq⟩ ack))
      | .next _, 2 => (match leAt m 16 1 with
        | 0 => some (.inl (.power ⟨false, seq⟩ ack .d0))
        | 1 => some (.inl (.power ⟨false, seq⟩ ack .dIdle))
        | 2 => some (.inl (.power ⟨false, seq⟩ ack .dRetain))
        | 3 => some (.inl (.power ⟨false, seq⟩ ack .dOff))
        | _ => some (.inr x))
      | .next _, 3 => some (.inl (.errcount ⟨false, seq⟩ ack (BitVec.ofNat 8 (leAt m 16 1)) (BitVec.ofNat 32 (leAt m 20 4))))
      | .next _, 4 => some (.inl (.resync ⟨false, seq⟩ ack))
      | .next _, _ => some (.inr x)
  | _, _ => none

/-- Steps of the gangs and their memory requests that may come next. -/
def gangEvents (s : State) : List Instr :=
  ((tabKeys s.gangs).flatMap fun k => [.barrierRelease k, .regroupProceed k, .monitorWake k, .mwaitvReread k]) ++
  ((tabKeys s.reqs).flatMap fun r =>
    [.instructionFetch r, .translationWalk r, .memRequestAtHome r, .portReplay r, .lowerTierService r .intact]) ++
  ((tabKeys s.accs).flatMap fun a => [.accessComplete a, .lateCompletionDelivery a])

/-- Steps of the memory system. -/
def memoryEvents (s : State) : List Instr :=
  ((s.reqs.filter fun e => e.2.stage == .ctrl).map fun e => .controllerService (reqStack s e.2) (reqQueue s e.2)) ++
  ((tabKeys s.caches.misses).map fun k => .basinWindowEnd (k / 8) (k % 8)) ++
  ((s.reqs.filter fun e => e.2.stage == .spill || e.2.stage == .stopped).map fun e => .spillFetch (e.2.slice / 48) (e.2.slice % 48)) ++
  ((s.parks.records.filter fun x => !unitDead s 2 x.die).map fun x => .parkRecordWrite x.die x.ring) ++
  [.invalidationDone, .migrationDone true] ++
  (s.caches.firstRel.map fun x => .firstTouchRelease x.1 x.2) ++
  ((s.tiers.extents.filter fun e => !e.2.2).map fun e => .dcReleaseAck e.1) ++
  (s.tiers.resealing.map .tierReseal) ++
  ((tabKeys s.links).map fun k => .linkRetryExhausted (BitVec.ofNat 5 k))

/-- Steps of the engines and the matrix arrays. -/
def engineEvents (s : State) : List Instr :=
  (((tabKeys s.mq).filter fun c => !coreDead s c).map .matrixExecute) ++
  ((s.cmds.filter fun e => e.2.node.isSome || !coreDead s e.2.core).flatMap fun e =>
    [.copyComplete e.1, .groupFillComplete e.1] ++ (e.2.waiting.map (.gputDelivery e.1)) ++ (e.2.acks.map (.gputAck e.1))) ++
  ((tabKeys s.groups).map fun k => .groupTimerExpiry (k / 64) (k % 64))

/-- Steps of the col network. -/
def censusEvents (s : State) : List Instr :=
  if unitDead s 9 0 then [] else
  [.solicitAtRoot] ++
  ((tabKeys s.handoffs).flatMap fun h => [.dirDeparture h, .dirInstall h, .departureAtSource h, .handoffFailure h]) ++
  (s.censuses.flatMap fun e => (e.2.toReach.map (.coreReport e.1)) ++
    ((List.range e.2.pending.length).map (.responseCombine e.1)) ++ [.censusComplete e.1, .censusTimeout e.1]) ++
  ((tabKeys s.solicits).map .responderStart)

/-- Steps of the dispatcher and the domain units. -/
def dispatcherEvents (s : State) : List Instr :=
  (if unitDead s 1 0 then [] else
    ((List.range 64).map .launchRecordTake) ++ [.placeUnit, .yieldDeadline, .parkthCheck, .launchEnqueue] ++
    ((tabKeys s.ctxs).flatMap fun c => [.saveImageWrite c, .contextRestore c]) ++
    ((tabKeys s.blocks).map .blockRetire) ++ ((tabKeys s.disp.launches).map .launchRetire) ++
    (s.disp.graphs.flatMap fun g => (List.range g.2.nn).flatMap fun n => [.graphNodeStart g.1 n, .graphNodeFinish g.1 n])) ++
  (((List.range 4).filter fun d => !unitDead s 8 d).flatMap fun d => [.slwb d, .dsplit d, .dsplitComplete d])

/-- The heartbeat is due: every 10 ms, in D-retain too, where the management core still answers (R389, R399). -/
def beatEvents (s : State) : List Instr := if s.mgmt.beats + 1 ≤ s.cycle / (10 * msCycles) then [.heartbeat] else []

/-- Steps of the debug units, the ports and the management core. -/
def portEvents (s : State) : List Instr :=
  (s.blocks.map fun e => .haltComplete e.1) ++
  ((List.range 288).filter (sampleDue s)).map .debugSample ++
  (((List.range 2).filter fun p => !unitDead s 10 p).flatMap fun p => (List.range 64).map (.txDescriptor p)) ++
  ((([2, 3] : List Nat).filter fun p => !unitDead s 11 p).flatMap fun p => (List.range 64).map (.storageRequest p)) ++
  (match s.island.preparing with
    | some h => [.sleepPrep h]
    | none => []) ++
  beatEvents s ++ [.dIdleEntry]

/-- A step can come next: it would change the state. -/
def moves (s : State) (i : Instr) : Bool :=
  match exec i s with
  | .next t => t != s
  | _ => false

/-- The device runs: it has booted, and it is in D0 or D-idle (R377, R389). -/
def running (s : State) : Bool := s.mgmt.booted && (s.mgmt.power == .d0 || s.mgmt.power == .dIdle)

/-- Steps that units could take now. -/
def candidates (s : State) : List Instr :=
  (match mgmtNext s with
    | some (.inl i) => [i]
    | _ => []) ++
  (if running s then gangEvents s ++ memoryEvents s ++ engineEvents s ++ censusEvents s ++ dispatcherEvents s ++ portEvents s
   else if s.mgmt.booted && s.mgmt.power == .dRetain then beatEvents s else [])

/-- One number put at a place of a list. -/
def insertAt (l : List Nat) (n x : Nat) : List Nat := l.take n ++ x :: l.drop n

/-- A list in an order that no rule states (log 1). -/
def shuffled (l : List Nat) (free : Nat) : List Nat :=
  l.zipIdx.foldl (fun t e => insertAt t (Config.pick (free + e.2) % (t.length + 1)) e.1) []

/-- The gangs whose slot has its turn in a cycle (R21). -/
def slotGangs (s : State) (cycle : Nat) : List Nat :=
  (s.gangs.filter fun e => e.2.slot == cycle % 8 && !e.2.retired).map (·.1)

/-- A round's timer counts down, but not while the fill request of its opener is parked (R278). -/
def countRound (s : State) (g : Group) : Group :=
  { g with round := g.round.map fun r =>
      let held := s.reqs.any fun e => e.2.kind == .fill && isParked e.2 && e.2.cmd.isSome && e.2.cmd == r.asks.head?
      if held then r else { r with timer := r.timer.map (· - 1) } }

/-- What an input that has waited does now. -/
def lateInput (s : State) (i : LateIn) : State :=
  match (match i with
    | .frame p f => execRxFrame p f s
    | .drive tag status cdw0 data => execDriveCompletion tag status cdw0 data s) with
  | .next t => t
  | _ => s

/-- Inputs that wait for lines of memory are tried again, in order. -/
def lateInputs (s : State) : State := s.mgmt.late.foldl lateInput { s with mgmt := { s.mgmt with late := [] } }

/-- The next cycle: the turns of its slots, fetches, timers, contexts with nothing left, posted writes, records and replies whose lines are
open, inputs that wait, and a cancel in progress (R21, R43, R229, R237, R278, R389, R391, R393). -/
def nextCycle (s : State) : State :=
  let s := { s with cycle := s.cycle + 1, groups := tabMap s.groups (countRound s), cur := none }
  let s := flushEvents (flushPosts (idleContexts (noteAcks s)))
  let s := cancelOn (serveMails (lateInputs s))
  let s := if anyReadyHead s then { s with disp := { s.disp with idleSince := s.cycle } } else s
  let s := if running s then startFetches s else s
  let gs := if running s then slotGangs s s.cycle else []
  { s with turns := shuffled gs s.tick, tick := s.tick + gs.length }

/-- A timer that has run out acts before any unit does: a group's, and a yield request's (R278, R332). -/
def timerDue (s : State) : Option Instr :=
  if !running s then none
  else match s.groups.find? fun e => (match e.2.round with
      | some r => r.timer == some 0 && !r.triggered
      | none => false) with
  | some e => some (.groupTimerExpiry (e.1 / 64) (e.1 % 64))
  | none => if yieldDue s && !unitDead s 1 0 then some .yieldDeadline else none

/-- What a step does: the first input or started step; else the turn of a gang; else a step that some unit can take, or the next
cycle, as no rule orders them further (R21, R200, R204; log 1). -/
def plan (s : State) : Plan :=
  match s.agenda with
  | i :: r => .run i { s with agenda := r }
  | [] =>
    match s.turns with
    | k :: r => gangTurn s k r
    | [] =>
      match timerDue s, mgmtNext s with
      | some i, _ => .run i s
      | none, some (.inr x) => .done (oddMail s none x mgBadreq)
      | none, _ =>
        let due := (candidates s).filter (moves s)
        let hosts := if running s then hostDue s else []
        let s := { s with tick := s.tick + 1 }
        let n := Config.pick s.tick % (due.length + hosts.length + 1)
        match due[n]?, hosts[n - due.length]? with
        | some i, _ => .run i s
        | none, some h => .done (hostStep s h.1 h.2)
        | none, none => .done (nextCycle s)

end Sys2Proof.Machine
end

