-- ==== Sys2Proof/Machine/Step.lean ====
section
/-! DEFINITION. One step of the device, and a state whose next step runs a given instruction. -/

namespace Sys2Proof.Machine

/-- One step: what `plan` says comes next (R21; log 1). -/
def step (s : State) : Host.Outcome State Fault Refusal :=
  match plan s with
  | .run i t => exec i t
  | .done t => .next t

/-- The state with one gang on core 0 that has all its turns before it and holds the words of an instruction as fetched: a booted
device on which the dispatcher has placed a block of context 0, and whose fetch of these words is complete (log 30). -/
def State.withFetchWord (s : State) (nbits w : Nat) : State :=
  let ws := wordsOfNat (w % 2 ^ nbits)
  let g := newGang 0 0 0 0 32 0x10000 []
  let f : Frag := { pc := 0x10000, mask := BitVec.allOnes 32, link := none, wait := .running, words := ws.take (wordsNeeded ws) }
  { s with
    agenda := []
    turns := [0]
    blocks := tabPut s.blocks 0 (newBlock 0 0 1 0 0 0 { gangs := 1, regs := 512, pad := 0, acc := 16, copyq := 1 })
    gangs := tabPut s.gangs 0 { g with created := BitVec.allOnes 32, helper := 0, live := BitVec.allOnes 32, frags := [(0, f)] }
    ctxs := tabPut s.ctxs 0 { root := 0, asid := 0, world := 0, trapv := 0x20000, parkth := 0, evr := 0, save := 0, saveSz := 0,
                              poolBase := 0, poolSize := 0, st := .resident, past := false, needsReplay := false, saved := [] }
    mgmt := { s.mgmt with booted := true } }

end Sys2Proof.Machine
end

