-- ==== Sys2Proof/Safety.lean ====
section
/-! DEFINITION. What counts as a safe step, and the terms the claims use: what an instruction that completes leaves of the state
and of the gang that issued it. -/

namespace Sys2Proof

/-- A step from a state is safe: it answers a next state. -/
def SafeStep (s : Machine.State) : Prop := ∃ t, Machine.step s = .next t

/-- The memory of a state is in its canonical form. -/
def memoryOk (s : Machine.State) : Bool := Machine.Memory.wf s.mem

namespace Machine

/-- Every L2 slice has room for some more lines. -/
def RoomFor (s : State) (k : Nat) : Prop :=
  ∀ n, (s.caches.l2.filter fun e => e.1 / 2 ^ 50 == n).length + k ≤ sliceLines s n

/-- Every byte of memory below the caches is as before, where no slice had to replace a line for the few that a unit wrote: what a
unit writes goes to its home slice, and reaches memory only when the line is replaced (R171, R351, R408). -/
def MemKept (s t : State) : Prop := RoomFor s 4096 → t.mem = s.mem

/-- Every basin has room for some more lines. -/
def BasinRoom (s : State) (k : Nat) : Prop :=
  ∀ st, (s.caches.basin.filter fun e => stackOf (e.1 * 64) == st).length + k ≤ 4194304

/-- Every byte of memory below the caches is as before, where neither a slice nor a basin had to replace a line for the lines that a
unit of the hub reads and writes: each comes into its home slice, and may come into its basin (R171, R351, R408). -/
def HubKept (n : Nat) (s t : State) : Prop := RoomFor s n → BasinRoom s n → t.mem = s.mem

/-- Every part of the state but one gang is as before: all memory, every cache, every block and every other gang. -/
def OnlyGang (s t : State) (key : Nat) : Prop :=
  { t with gangs := s.gangs } = s ∧ ∀ k, k ≠ key → tabFind t.gangs k = tabFind s.gangs k

/-- A gang with what every issue may change taken from another: its split table, its place in the issue order, its pacing and
handover, breakpoint suppression, the count of a debug step, and results that have fallen due (R22, R23, R29, R101). -/
def Gang.sameIssue (g h : Gang) : Gang :=
  { g with frags := h.frags, seq := h.seq, issueAt := h.issueAt, handover := h.handover, skipBp := h.skipBp,
           issued := h.issued, stepLeft := h.stepLeft, pend := h.pend }

/-- The executing fragment goes on at a PC, and every other entry of the split table is as before; an instruction from the program
buffer leaves the PC (R41, R105). -/
def GoesTo (i : Issue) (g : Gang) (pc : W64) : Prop :=
  ∀ e, tabFind g.frags e =
    if e = i.cur.entry then some (if i.cur.stuffed.isSome then i.f else { i.f with pc := pc, words := [] })
    else tabFind i.g.frags e

/-- The scalar registers after a write of one; s0 keeps reading zero (R18, R52). -/
def ScalarsAfter (i : Issue) (g : Gang) (sd : BitVec 6) (x : W64) : Prop :=
  ∀ n, sreg g n = if n = sd ∧ n ≠ 0 then x else sreg i.g n

/-- A scalar instruction completes: a next state that differs in the issuing gang only, where sd holds a value, the fragment has
gone on by four bytes, and nothing else has changed. -/
def ScalarDone (s : State) (i : Issue) (sd : BitVec 6) (x : W64) (o : Answer) : Prop :=
  ∃ t g, o = .next t ∧ OnlyGang s t i.cur.gang ∧ tabFind t.gangs i.cur.gang = some g ∧
    ScalarsAfter i g sd x ∧ GoesTo i g (i.f.pc + 4) ∧ g.seq = i.g.seq + 1 ∧
    { g.sameIssue i.g with s := i.g.s } = i.g

/-- A branch completes: the fragment goes on at a PC, the link register holds the address behind the branch, and a taken branch
to or below its own PC loses the latches (R29, R54, R80). -/
def JumpDone (s : State) (i : Issue) (link : BitVec 6) (pc : W64) (taken : Bool) (o : Answer) : Prop :=
  ∃ t g, o = .next t ∧ OnlyGang s t i.cur.gang ∧ tabFind t.gangs i.cur.gang = some g ∧
    ScalarsAfter i g link (i.f.pc + 4) ∧ GoesTo i g pc ∧ g.seq = i.g.seq + 1 ∧
    (∀ k, tabFind g.latch k = if taken = true ∧ pc.toNat ≤ i.f.pc.toNat then none else tabFind i.g.latch k) ∧
    { g.sameIssue i.g with s := i.g.s, latch := i.g.latch, latchDue := i.g.latchDue } = i.g

/-- An instruction completes and, beside what every issue changes, leaves the gang as given: the fragment has gone on behind it. -/
def GangDone (s : State) (i : Issue) (left : Gang) (len : W64) (o : Answer) : Prop :=
  ∃ t g, o = .next t ∧ OnlyGang s t i.cur.gang ∧ tabFind t.gangs i.cur.gang = some g ∧
    GoesTo i g (i.f.pc + len) ∧ g.seq = i.g.seq + 1 ∧ g.sameIssue i.g = left

/-- An instruction that is a switch point completes: it goes on behind itself, and the gang's latches are lost (R29, R54). -/
def PassDone (s : State) (i : Issue) (left : Gang) (o : Answer) : Prop :=
  GangDone s i { left with latch := [], latchDue := [0, 0, 0, 0] } 4 o

/-- A blocking wait issues and waits: its fragment stands at the instruction with a wait, and the gang's latches are lost (R29,
R54). -/
def WaitsAt (s : State) (i : Issue) (w : Wait) (left : Gang) (o : Answer) : Prop :=
  ∃ t g, o = .next t ∧ OnlyGang s t i.cur.gang ∧ tabFind t.gangs i.cur.gang = some g ∧
    (∀ e, tabFind g.frags e = if e = i.cur.entry then some { i.f with wait := w } else tabFind i.g.frags e) ∧
    g.seq = i.g.seq + 1 ∧ g.sameIssue i.g = { left with latch := [], latchDue := [0, 0, 0, 0] }

/-- A trap is taken: the saved registers describe it, TM is set, the fragment stands at TRAPV, and nothing else has changed: no
latch, flag, predicate or register, and no other fragment (R246). -/
def TrapDone (s : State) (i : Issue) (cause step field : Nat) (value : W64) (o : Answer) : Prop :=
  ∃ t g, o = .next t ∧ OnlyGang s t i.cur.gang ∧ tabFind t.gangs i.cur.gang = some g ∧
    g.tpc = (if cause = 3 ∨ cause = 4 then i.f.pc + 4 else i.f.pc) ∧
    g.tstat = BitVec.ofNat 64 (cause + 256 * step + 4096 * field + 65536 * i.cur.entry) ∧ g.tval = value ∧
    g.gstat = i.g.gstat ||| 0x100 ∧ GoesTo i g (trapVector s i) ∧ g.seq = i.g.seq ∧ g.pend = i.g.pend ∧
    { g.sameIssue i.g with tpc := i.g.tpc, tstat := i.g.tstat, tval := i.g.tval, gstat := i.g.gstat } = i.g

/-- A trap halts the gang: TPC, TSTAT and TVAL keep their values, every register and fragment is as before, and the core's source
reports one event more (R246, R248). -/
def HaltDone (s : State) (i : Issue) (o : Answer) : Prop :=
  ∃ t g, o = .next t ∧ tabFind t.gangs i.cur.gang = some g ∧ g.halted = true ∧
    { g with halted := i.g.halted, issued := i.g.issued, woken := i.g.woken } = i.g ∧
    tabGet t.events.seqs (sourceId 3 i.b.core).toNat 0 = tabGet s.events.seqs (sourceId 3 i.b.core).toNat 0 + 1 ∧
    t.blocks = s.blocks ∧ t.accs = s.accs ∧ t.reqs = s.reqs

/-- The trap is taken, when the mask is clear and the context has a vector, or it halts the gang; both outside the program buffer
(R105, R246). -/
def Traps (s : State) (i : Issue) (cause step field : Nat) (value : W64) (o : Answer) : Prop :=
  i.cur.stuffed = none →
    (gstatTm i.g = false ∧ trapVector s i ≠ 0 → TrapDone s i cause step field value o) ∧
    (gstatTm i.g = true ∨ trapVector s i = 0 → HaltDone s i o)

/-- What lane l of lane register n holds after a result was written to `words` registers from the destination on in the lanes of
a mask (R47, R58). -/
def laneRegAfter (i : Issue) (f : Lane) (words : Nat) (value : Nat → W64) (n l : Nat) : W32 :=
  if f.nwb = false ∧ (activeMask i f.guard f.neg).getLsbD l = true ∧ f.dst.toNat ≤ n ∧ n < f.dst.toNat + words
  then (value l >>> (32 * (n - f.dst.toNat))).setWidth 32
  else vreg i.g n l

/-- The destination of a lane as a latch holds it (R53). -/
def laneOld (i : Issue) (f : Lane) (words l : Nat) : W64 :=
  if words = 1 then (vreg i.g f.dst.toNat l).setWidth 64 else vpair i.g f.dst.toNat l

/-- The latches after an instruction pushed one entry in each lane of its fragment (R53). -/
def LatchesAfter (i : Issue) (g : Gang) (top : Nat → Option W64) : Prop :=
  ∀ l, l < 32 →
    if (lanesMask i).getLsbD l then
      tabFind g.latch (4 * l) = top l ∧ tabFind g.latch (4 * l + 1) = tabFind i.g.latch (4 * l) ∧
      tabFind g.latch (4 * l + 2) = tabFind i.g.latch (4 * l + 1) ∧ tabFind g.latch (4 * l + 3) = tabFind i.g.latch (4 * l + 2)
    else ∀ k, k < 4 → tabFind g.latch (4 * l + k) = tabFind i.g.latch (4 * l + k)

/-- A lane instruction that writes lane registers completes: every active lane's destination holds its result unless NWB is set,
every other register is as before, each lane of the fragment pushes a latch, and GSTAT gains the flags of the lanes that are no
helpers (R47, R48, R53, R54, R55, R126). -/
def LaneDone (s : State) (i : Issue) (f : Lane) (words : Nat) (value : Nat → W64) (flags : Nat → FFlags) (lost : Bool)
    (o : Answer) : Prop :=
  ∃ t g, o = .next t ∧ OnlyGang s t i.cur.gang ∧ tabFind t.gangs i.cur.gang = some g ∧
    (∀ n l, l < 32 → vreg g n l = laneRegAfter i f words value n l) ∧
    LatchesAfter i g (fun l => some
      (if (activeMask i f.guard f.neg).getLsbD l then value l else if f.nwb then 0 else laneOld i f words l)) ∧
    g.gstat = i.g.gstat ||| (if lost then gstatLatch else 0) |||
      flagBits (sumFlags ((lanesOf (workMask i f.guard f.neg)).map flags)) ∧
    GoesTo i g (i.f.pc + 12) ∧ g.seq = i.g.seq + 1 ∧
    { g.sameIssue i.g with v := i.g.v, latch := i.g.latch, latchDue := i.g.latchDue, gstat := i.g.gstat,
                           flagsDue := i.g.flagsDue } = i.g

/-- A lane instruction that writes a predicate completes: kd holds the results in the active lanes, k0 stays true, every other
register is as before, and each lane of the fragment pushes a lost latch (R18, R48, R53, R138). -/
def PredDone (s : State) (i : Issue) (f : Lane) (value : Nat → Bool) (flags : Nat → FFlags) (lost : Bool) (o : Answer) : Prop :=
  ∃ t g, o = .next t ∧ OnlyGang s t i.cur.gang ∧ tabFind t.gangs i.cur.gang = some g ∧
    (∀ n l, l < 32 → pred g n l =
      if n = f.kd ∧ n ≠ 0 ∧ (activeMask i f.guard f.neg).getLsbD l = true then value l else pred i.g n l) ∧
    LatchesAfter i g (fun _ => none) ∧
    g.gstat = i.g.gstat ||| (if lost then gstatLatch else 0) |||
      flagBits (sumFlags ((lanesOf (workMask i f.guard f.neg)).map flags)) ∧
    GoesTo i g (i.f.pc + 12) ∧ g.seq = i.g.seq + 1 ∧
    { g.sameIssue i.g with k := i.g.k, latch := i.g.latch, latchDue := i.g.latchDue, gstat := i.g.gstat,
                           flagsDue := i.g.flagsDue } = i.g

/-- A lane instruction's registers pass the checks of R52. -/
def RegsOk (i : Issue) (cls op : Nat) (f : Lane) : Prop := laneBreach (laneRowD cls op) f i.b.regs i.b.acc = 0

/-- A source of a lane instruction names a latch that is lost in an active lane (R54). -/
def lostRead (i : Issue) (cls op : Nat) (f : Lane) : Bool :=
  lostSource i (laneUse (laneRowD cls op) f.ty.toNat f.mod.toNat) f (activeMask i f.guard f.neg)

/-- An instruction's access stands in the state with one request per line, and nothing else outside the gangs and the counts of the
debug unit has changed: no byte of memory, of a cache, of a pad or of the chip plain (R193, R230). -/
def Opened (s t : State) (i : Issue) (w : Want) (ls : List (W64 × List Part)) : Prop :=
  tabFind t.accs s.nextId = some (mkAccess i w) ∧ (∀ k, k ≠ s.nextId → tabFind t.accs k = tabFind s.accs k) ∧
  (∀ n (h : n < ls.length), tabFind t.reqs (s.nextId + 1 + n) = some (mkReq i (some s.nextId) w (ls[n]).1 (ls[n]).2)) ∧
  (∀ k, k < s.nextId + 1 ∨ s.nextId + 1 + ls.length ≤ k → tabFind t.reqs k = tabFind s.reqs k) ∧
  t.nextId = s.nextId + 1 + ls.length ∧
  { t with gangs := s.gangs, accs := s.accs, reqs := s.reqs, nextId := s.nextId, sys := s.sys } = s

/-- A memory instruction completes: its access and requests are on their way, its path counter has risen, its destination is
pending, GSTAT has gained PADR when some byte is outside what its space provides and LATCH when a lost latch was read, and every
register is as before (R29, R53, R54, R76, R166, R188, R193). -/
def MemDone (s : State) (i : Issue) (w : Want) (ls : List (W64 × List Part)) (out lost push switch : Bool) (len : W64)
    (o : Answer) : Prop :=
  ∃ t g, o = .next t ∧ tabFind t.gangs i.cur.gang = some g ∧
    (∀ k, k ≠ i.cur.gang → tabFind t.gangs k = tabFind s.gangs k) ∧ Opened s t i w ls ∧ (out = false → t.sys = s.sys) ∧
    (∀ p, pathCount g p = if w.path = some p then pathCount i.g p + 1 else pathCount i.g p) ∧
    (∀ r ∈ destRegs w.dest, { reg := r, due := .access s.nextId } ∈ g.pend) ∧
    g.gstat = i.g.gstat ||| (if lost then gstatLatch else 0) ||| (if out then gstatPadr else 0) ∧
    (if switch then ∀ k, tabFind g.latch k = none
      else if push then LatchesAfter i g (fun _ => none) else g.latch = i.g.latch) ∧
    GoesTo i g (i.f.pc + len) ∧ g.seq = i.g.seq + 1 ∧
    { g.sameIssue i.g with paths := i.g.paths, gstat := i.g.gstat, latch := i.g.latch, latchDue := i.g.latchDue } = i.g

/-- An instruction whose status or completion comes by an access completes: the access numbered next stands for it, its
destination is pending on that access, its path counter has risen, and every register, block and byte of memory is as before (R29,
R193, R261, R276, R309). -/
def AwaitDone (s : State) (i : Issue) (path : Option Nat) (dest : Dest) (status : List (Nat × W64)) (cmd : Option Nat)
    (out : Bool) (o : Answer) : Prop :=
  ∃ t g a, o = .next t ∧ tabFind t.gangs i.cur.gang = some g ∧ (∀ k, k ≠ i.cur.gang → tabFind t.gangs k = tabFind s.gangs k) ∧
    tabFind t.accs s.nextId = some a ∧ a.gang = i.cur.gang ∧ a.path = path ∧ a.dest = dest ∧ a.status = status ∧ a.cmd = cmd ∧
    (∀ k, k ≠ s.nextId → tabFind t.accs k = tabFind s.accs k) ∧
    (∀ p, pathCount g p = if path = some p then pathCount i.g p + 1 else pathCount i.g p) ∧
    (∀ r ∈ destRegs dest, { reg := r, due := .access s.nextId } ∈ g.pend) ∧
    g.gstat = i.g.gstat ||| (if out then gstatPadr else 0) ∧ GoesTo i g (i.f.pc + 4) ∧ g.seq = i.g.seq + 1 ∧
    { g.sameIssue i.g with paths := i.g.paths, gstat := i.g.gstat } = i.g ∧ t.mem = s.mem ∧ t.blocks = s.blocks

/-- Lanes that a lane memory form performs for: the active ones, without the helpers unless the form reads for them (R15, R48). -/
def formLanes (i : Issue) (f : Lane) (m : MemForm) : Mask :=
  if m.helpers then activeMask i f.guard f.neg else activeMask i f.guard f.neg &&& ~~~i.g.helper

/-- The access of a lane memory form (R64, R185, R188, R193). -/
def formWant (s : State) (i : Issue) (f : Lane) (m : MemForm) (dest : Dest) : Want :=
  { path := some m.path, sets := m.sets, order := orderOf f.mod.toNat, scope := scopeOf (spaceOf f.mod.toNat) f.mod.toNat,
    space := spaceOf f.mod.toNat, kind := m.kind, dest := dest, mask := formLanes i f m,
    urgent := m.urgent && translated (spaceOf f.mod.toNat) && urgentNow s i.cur.gang i.g i.b.core }

/-- The requests of a lane memory form: the bytes of every lane at its address, by line (R164, R186, R230). -/
def formLines (s : State) (i : Issue) (f : Lane) (m : MemForm) (data cmp : Nat → List Byte) : List (W64 × List Part) :=
  byLine ((lanesOf (formLanes i f m)).flatMap fun l =>
    laneParts s i (spaceOf f.mod.toNat) l (formAddr i f m l) (accessWidth f.ty.toNat f.mod.toNat) (data l) (cmp l))

/-- Some lane of a lane memory form reaches outside what its space provides (R166 to R169). -/
def formOutside (s : State) (i : Issue) (f : Lane) (m : MemForm) : Bool :=
  (lanesOf (formLanes i f m)).any fun l =>
    laneOutside s i (spaceOf f.mod.toNat) l (formAddr i f m l) (accessWidth f.ty.toNat f.mod.toNat)

/-- A reply has been written to its slot of a mailbox's ring, the doorbell register names it, and with IEN = 1 the host core is signalled
(R391, R392). -/
def ReplyWritten (s t : State) (host : BitVec 5) (slot : Nat) (seq : W32) (msg : List Byte) : Prop :=
  (isRemote s slot = false → physRead t slot 64 = msg) ∧ regField t (.ibdb host.toNat) 63 32 = seq.toNat ∧
  (regField s (.ibctl host.toNat) 1 1 = 1 → ∃ o, t.out = o ++ [.signal host.toNat])

/-- An island command is answered, with the sequence taken acknowledged: its reply stands in the next slot of the ring; or it waits, since
an older one does or its slot's home does not take it now; or the rings do not lie in frames of the command's world, and ERR says so
(R370, R390 to R392; log 36). -/
def Replied (s t : State) (host : BitVec 5) (m : Mailbox) (code st : Nat) (payload : List Byte) : Prop :=
  ∃ q r n, mailRings s (some host) = some (q, r, n) ∧
    let msg := mailMessage m.next m.got code st payload
    let slot := mailSlot r n m.next.toNat
    let sent : Mailbox := { m with next := m.next + 1 }
    (m.replies = [] ∧ mailbox t (some host) = sent ∧ ReplyWritten s t host slot m.next msg) ∨
    (mailbox t (some host) = { sent with replies := m.replies ++ [(m.world, msg)] } ∧
      (m.replies = [] → physSent t ringUnit slot msg = false)) ∨
    (m.replies = [] ∧ mailbox t (some host) = sent ∧ mailReachable t (some host) m.world = false ∧
      regField t (.ibctl host.toNat) 7 7 = 1)

end Machine
end Sys2Proof
end

