-- ==== Sys2Proof/Certificates/Slice0/Obligations.lean ====
section
/-! DEFINITION. The statements for the provers. -/

open Sys2Proof Sys2Proof.Machine

/-- Words written out from the encoding tables decode to the instructions they stand for (R44 to R49, R60, R61, R73, R74, R243 to
R247). -/
def Obligations.WordsDecode : Prop :=
  decodeWords 0x00000000 0 0 = .instr .nop ∧ decodeWords 0x2143007B 0 0 = .illegal 4 ∧
  decodeWords 0x08030850 0 0 = .instr (.sadd 3 2 5) ∧ decodeWords 0x104307FF 0 0 = .instr (.sandi 3 1 0x3FF) ∧
  decodeWords 0x18040808 0 0 = .instr (.sldw 4 2 8) ∧ decodeWords 0x20050000 0 0 = .instr (.srd 5 0) ∧
  decodeWords 0x2100007B 0 0 = .instr (.trap 0x7B) ∧ decodeWords 0x21400000 0 0 = .instr .eret ∧
  decodeWords 0x80004000 0x05008030 0 =
    .instr (.iadd { guard := 1, neg := false, nwb := false, keep := 0, ty := 0, mod := 0, dst := 10, a := 4, b := 6, kd := 0, c := 0, imm := 0 }) ∧
  decodeWords 0x78000000 0 0 = .illegal 2

/-- The bytes of every well-formed instruction with words decode to it, whatever its operands: no bit of an encoding is dropped
(R42 to R49, R59). -/
def Obligations.BytesDecode : Prop :=
  ∀ i : Instr, hasWords i = true → wellFormed i = true →
    decodeBytes ((encode i).flatMap bytesOfWord) = .instr i

/-- Every word pattern that decodes to an instruction gives a well-formed instruction whose words are the ones read: two different
words never name one instruction, and nothing the checks of R59 refuse gets through (R59). -/
def Obligations.DecodeSound : Prop :=
  ∀ (w0 w1 w2 : W32) (i : Instr), decodeWords w0 w1 w2 = .instr i →
    wellFormed i = true ∧ encode i = [w0, w1, w2].take (encode i).length

/-- What reset leaves of the registers whose reset values the register tables give (R108, R180, R255, R282, R329, R347, R364,
R391). -/
def Obligations.ResetRegisters : Prop :=
  reg State.reset .pkctl = 0x40000 ∧ (∀ i, i < 512 → reg State.reset (.pksteer i) = BitVec.ofNat 64 (i % 32)) ∧
  (∀ n, reg State.reset (.grptim n) = 0x1000) ∧ reg State.reset .ydead = 0x10000 ∧
  (∀ d, regField State.reset (.dcqstat d) 31 0 = 1) ∧ (∀ n, regField State.reset (.basctl n) 23 0 = 0x10000) ∧
  (∀ d, regField State.reset (.repctl d) 0 0 = 1) ∧ (∀ c, reg State.reset (.debug c 0x018) = 0x10000) ∧
  reg State.reset .ctxbase = 0 ∧ reg State.reset .mbdb = 0

/-- Right after reset no gang, block, access or request is on the device, nothing is due, the first launch number is 1, and
memory is in its canonical form; the contents of memory at reset are the model's choice (log 2; R21, R325). -/
def Obligations.ResetState : Prop :=
  State.reset.gangs = [] ∧ State.reset.blocks = [] ∧ State.reset.accs = [] ∧ State.reset.reqs = [] ∧
  State.reset.agenda = [] ∧ State.reset.cycle = 0 ∧ State.reset.disp.nextLaunch = 1 ∧ memoryOk State.reset = true

/-- When the words at a fragment's PC decode to an instruction, the step that reaches that gang's turn runs exactly that instruction,
in the state that names the gang as the one issuing; when they decode to none, it takes the illegal-instruction trap (R21, R43,
R59). -/
def Obligations.StepRunsDecoded : Prop :=
  ∀ (s : State) (key : Nat) (r : List Nat) (g g' : Gang) (b : Block) (f : Frag),
    s.agenda = [] → s.turns = key :: r → tabFind s.gangs key = some g → tabFind s.blocks g.block = some b →
    g.retired = false → (g.pausing && g.pauseLeft == 0 && !stopped s b g) = false → tabFind s.stuffing b.core = none →
    (matrixNext s g b && lowerPipe s g b r) = false →
    let s1 := endWaits (putGang { s with turns := r } key { g with turn := g.turn + 1 }) key { g with turn := g.turn + 1 } b
    tabFind s1.gangs key = some g' → searches s1 g' b = true →
    let g2 := searchSlot s1 key g' b
    tabFind g2.frags g2.cur = some f → (fragReason s1 key g2 b f).isNone = true → fetched f = true → breakHit s1 b g2 f = none →
    let c : Cur := { gang := key, entry := g2.cur, words := f.words.take (wordsNeeded f.words), stuffed := none }
    let s2 := { putGang s1 key g2 with cur := some c }
    (∀ i, decodeWords (c.words.getD 0 0) (c.words.getD 1 0) (c.words.getD 2 0) = .instr i → step s = exec i s2) ∧
    (∀ n, decodeWords (c.words.getD 0 0) (c.words.getD 1 0) (c.words.getD 2 0) = .illegal n →
      step s = .next (takeTrap s2 { cur := c, g := g2, b := b, f := f } causeIllegal n 0 (trapWords c.words)))

/-- A program's first instruction: in the state with an instruction's words placed and fetched, the next step runs that
instruction, for every instruction that has words and is well formed (R21, R42, R43; how a program comes to run is log 30). -/
def Obligations.PlacedWordRuns : Prop :=
  ∀ i : Instr, hasWords i = true → wellFormed i = true →
    let w := ((encode i).getD 0 0).toNat + ((encode i).getD 1 0).toNat * 2 ^ 32 + ((encode i).getD 2 0).toNat * 2 ^ 64
    ∃ s', step (State.reset.withFetchWord 96 w) = exec i s' ∧ (∃ k, issuing s' = some k ∧ k.f.pc = 0x10000) ∧
      s'.mem = State.reset.mem

/-- Scalar register and immediate instructions: what each leaves in sd, with everything else as before; SMULH and SMULHN take the high
half of the exact product, SCLZ and SPOPC count leading zeros and one bits (R71, R73, R74). -/
def Obligations.ScalarResults : Prop :=
  ∀ (s : State) (i : Issue) (d a b n : BitVec 6) (imm : BitVec 10) (u : BitVec 16), issuing s = some i →
    let x := sreg i.g a
    let y := sreg i.g b
    ScalarDone s i d (x + y) (exec (.sadd d a b) s) ∧
    ScalarDone s i d (x - y) (exec (.ssub d a b) s) ∧
    ScalarDone s i d (x * y) (exec (.smul d a b) s) ∧
    ScalarDone s i d ((x.signExtend 128 * y.signExtend 128).extractLsb' 64 64) (exec (.smulh d a b) s) ∧
    ScalarDone s i d ((x.setWidth 128 * y.setWidth 128).extractLsb' 64 64) (exec (.smulhn d a b) s) ∧
    ScalarDone s i d (x &&& y) (exec (.sand d a b) s) ∧
    ScalarDone s i d (x ||| y) (exec (.sor d a b) s) ∧
    ScalarDone s i d (x ^^^ y) (exec (.sxor d a b) s) ∧
    ScalarDone s i d (x <<< (y &&& 63)) (exec (.sshl d a b) s) ∧
    ScalarDone s i d (x >>> (y &&& 63)) (exec (.sshr d a b) s) ∧
    ScalarDone s i d (x.sshiftRight (y.extractLsb' 0 6).toNat) (exec (.ssra d a b) s) ∧
    ScalarDone s i d (if x.toInt < y.toInt then x else y) (exec (.smin d a b) s) ∧
    ScalarDone s i d (if x.toInt < y.toInt then y else x) (exec (.smax d a b) s) ∧
    ScalarDone s i d (if x.toNat < y.toNat then x else y) (exec (.sminn d a b) s) ∧
    ScalarDone s i d (if x.toNat < y.toNat then y else x) (exec (.smaxn d a b) s) ∧
    ScalarDone s i d (if x.toInt < y.toInt then 1 else 0) (exec (.sslt d a b) s) ∧
    ScalarDone s i d (if x.toNat < y.toNat then 1 else 0) (exec (.ssltn d a b) s) ∧
    ScalarDone s i d (if x = 0 then 64 else BitVec.ofNat 64 (63 - x.toNat.log2)) (exec (.sclz d a) s) ∧
    ScalarDone s i d (BitVec.ofNat 64 ((List.range 64).countP fun k => x.getLsbD k)) (exec (.spopc d a) s) ∧
    ScalarDone s i d (x + imm.signExtend 64) (exec (.saddi d a imm) s) ∧
    ScalarDone s i d (x &&& imm.signExtend 64) (exec (.sandi d a imm) s) ∧
    ScalarDone s i d (x ||| imm.setWidth 64) (exec (.sori d a imm) s) ∧
    ScalarDone s i d (x ^^^ imm.setWidth 64) (exec (.sxori d a imm) s) ∧
    ScalarDone s i d (if x.toInt < (imm.signExtend 64).toInt then 1 else 0) (exec (.sslti d a imm) s) ∧
    ScalarDone s i d (x <<< n) (exec (.sshli d a n) s) ∧
    ScalarDone s i d (x >>> n) (exec (.sshri d a n) s) ∧
    ScalarDone s i d (x.sshiftRight n.toNat) (exec (.ssrai d a n) s) ∧
    ScalarDone s i d (BitVec.ofInt 64 (u.toInt * 65536)) (exec (.slui d u) s) ∧
    ScalarDone s i d (i.f.pc + BitVec.ofInt 64 (4 * u.toInt)) (exec (.saddpc d u) s) ∧
    ScalarDone s i d (BitVec.ofInt 64 u.toInt) (exec (.smovi d u) s) ∧
    ScalarDone s i d ((sreg i.g d).extractLsb' 0 48 ++ u) (exec (.sins16 d u) s)

/-- Jumps and conditional branches: the target, the link, and what a taken backward branch does to the latches; a conditional branch
goes to PC + 4 off10 when its condition holds, else to PC + 4 (R29, R46, R80, R81). -/
def Obligations.BranchResults : Prop :=
  ∀ (s : State) (i : Issue) (d a b : BitVec 6) (u : BitVec 16) (imm off : BitVec 10) (p : BitVec 3), issuing s = some i →
    let x := sreg i.g a
    let y := sreg i.g b
    let goes (c : Bool) : Answer → Prop :=
      JumpDone s i 0 (if c then i.f.pc + BitVec.ofInt 64 (4 * off.toInt) else i.f.pc + 4) c
    let lane (l : Nat) : Bool := (lanesMask i).getLsbD l && !i.g.helper.getLsbD l
    JumpDone s i 0 (i.f.pc + BitVec.ofInt 64 (4 * u.toInt)) true (exec (.bra u) s) ∧
    JumpDone s i d (i.f.pc + BitVec.ofInt 64 (4 * u.toInt)) true (exec (.jal d u) s) ∧
    JumpDone s i d ((x + BitVec.ofInt 64 imm.toInt) &&& 0xFFFFFFFFFFFFFFFC) true (exec (.jalr d a imm) s) ∧
    goes (decide (x = y)) (exec (.beq a b off) s) ∧ goes (decide (x ≠ y)) (exec (.bne a b off) s) ∧
    goes (decide (x.toInt < y.toInt)) (exec (.blt a b off) s) ∧ goes (decide (y.toInt ≤ x.toInt)) (exec (.bge a b off) s) ∧
    goes (decide (x.toNat < y.toNat)) (exec (.bltn a b off) s) ∧ goes (decide (y.toNat ≤ x.toNat)) (exec (.bgen a b off) s) ∧
    goes ((List.range 32).any fun l => lane l && pred i.g p l) (exec (.bany p off) s) ∧
    goes ((List.range 32).all fun l => !lane l || pred i.g p l) (exec (.ball p off) s) ∧
    goes (!(List.range 32).any fun l => lane l && pred i.g p l) (exec (.bnone p off) s)

/-- Scalar integer and immediate instructions take one turn: the gang may issue at its next turn, no result of theirs stays pending,
and a destination s0 discards the result (R71). -/
def Obligations.ScalarOneTurn : Prop :=
  ∀ (s : State) (k : Issue) (i : Instr) (cls : BitVec 4) (op : BitVec 5) (low : BitVec 22), issuing s = some k →
    scalarParts? i = some (cls, op, low) → cls = 1 ∨ cls = 2 →
    ∃ t g, exec i s = .next t ∧ tabFind t.gangs k.cur.gang = some g ∧ g.issueAt = k.g.turn + 1 ∧
      (∀ p ∈ g.pend, p ∈ k.g.pend) ∧ (low.extractLsb' 16 6 = 0 → ∀ n, sreg g n = sreg k.g n)

/-- NOP, FENCE, PAUSE, MBATCH and MONW complete: what each leaves in the gang (R24, R90, R96, R195, R196, R197, R297). -/
def Obligations.PlainControlResults : Prop :=
  ∀ (s : State) (i : Issue) (d a : BitVec 6) (p q : BitVec 6) (sc : BitVec 3) (n : BitVec 16) (imm : BitVec 10),
    issuing s = some i →
    GangDone s i i.g 4 (exec .nop s) ∧
    (p = 0 ∨ q = 0 → GangDone s i i.g 4 (exec (.fence p q sc) s)) ∧
    (p ≠ 0 ∧ q ≠ 0 → GangDone s i { i.g with fence := some { pred := p, succ := q, scope := sc.toNat } } 4 (exec (.fence p q sc) s)) ∧
    GangDone s i { i.g with pausing := true, pauseLeft := n.toNat } 4 (exec (.pause n) s) ∧
    GangDone s i (setSreg { i.g with bn := i.g.bn + 1 } d ((i.g.bn + 1).setWidth 64)) 4 (exec (.mbatch d) s) ∧
    GangDone s i { i.g with monitor := some ((sreg i.g a + imm.signExtend 64) &&& ~~~7), monPa := none, woken := false } 4
      (exec (.monw a imm) s)

/-- Switch points that may wait. YIELD passes, and acknowledges a request to yield that its context answers to before its deadline,
in a halted block none;
BSYNC and TSYNC wait, TSYNC as BSYNC in a block launched without a team; SWAIT, MWAIT, CWAIT and BARWAIT wait while their condition does not hold, and else pass; CWAIT brings the count of a complete census,
or all ones for a census that is not the block's (R29, R37, R54, R89, R91, R102, R194, R212, R274, R298, R318, R332). -/
def Obligations.WaitConditions : Prop :=
  ∀ (s : State) (i : Issue) (d a b : BitVec 6) (p : BitVec 2), issuing s = some i →
    (let asked := !i.b.halted && s.disp.yields.any (fun y => y.victim == i.b.ctx && decide (s.cycle ≤ y.since + y.limit)) && imageFits s i.b.ctx
     PassDone s i { i.g with yieldAck := i.g.yieldAck || asked, yieldStop := i.g.yieldStop || asked } (exec .yield s)) ∧
    WaitsAt s i .bsync i.g (exec .bsync s) ∧ WaitsAt s i (if i.b.teamed then .tsync else .bsync) i.g (exec .tsync s) ∧
    (pathCount i.g p.toNat ≤ (sreg i.g a).toNat → PassDone s i i.g (exec (.swait a p) s)) ∧
    ((sreg i.g a).toNat < pathCount i.g p.toNat → WaitsAt s i (.swait p.toNat (sreg i.g a)) i.g (exec (.swait a p) s)) ∧
    (mwaitHolds s i.cur.gang i.b.core i.g.bn ((sreg i.g a).setWidth 32) = false → PassDone s i i.g (exec (.mwait a) s)) ∧
    (mwaitHolds s i.cur.gang i.b.core i.g.bn ((sreg i.g a).setWidth 32) = true →
      WaitsAt s i (.mwait ((sreg i.g a).setWidth 32)) i.g (exec (.mwait a) s)) ∧
    (blockCensus s i.g.block (sreg i.g a) = none → PassDone s i (setSreg i.g d (BitVec.allOnes 64)) (exec (.cwait d a) s)) ∧
    (∀ n c, blockCensus s i.g.block (sreg i.g a) = some (n, c) → c.complete = false →
      WaitsAt s i (.cwait d n c.order) i.g (exec (.cwait d a) s)) ∧
    (∀ n c, blockCensus s i.g.block (sreg i.g a) = some (n, c) → c.complete = true →
      ∃ t g, exec (.cwait d a) s = .next t ∧ tabFind t.gangs i.cur.gang = some g ∧ ScalarsAfter i g d (BitVec.ofNat 64 c.counted) ∧
        GoesTo i g (i.f.pc + 4) ∧ g.latch = []) ∧
    (let o := (sreg i.g a).toNat % 2 ^ 32 / 16 * 16
     padInside i.b o 16 = true → (readBarrier i.b o).phase = (sreg i.g b).getLsbD 0 →
      WaitsAt s i (.barwait o ((sreg i.g b).getLsbD 0)) i.g (exec (.barwait a b) s)) ∧
    (let o := (sreg i.g a).toNat % 2 ^ 32 / 16 * 16
     padInside i.b o 16 = true → (readBarrier i.b o).phase ≠ (sreg i.g b).getLsbD 0 →
      padOpen s i.cur.gang i.g.block i.b s.nextId o 16 = false →
      ∃ t g, exec (.barwait a b) s = .next t ∧ tabFind t.gangs i.cur.gang = some g ∧ GoesTo i g (i.f.pc + 4) ∧ g.latch = [] ∧
        g.s = i.g.s ∧ g.v = i.g.v ∧ g.k = i.g.k ∧ t.mem = s.mem ∧ t.blocks = s.blocks)

/-- REGROUP arrives and waits with its word when its range lies in the block's registers and the gang has one fragment and no open
bracket; RETC goes to CPC and sets CONT; ERET goes to TPC and clears TM, or traps where TM is clear (R33, R34, R95, R247). -/
def Obligations.ReturnsAndRegroup : Prop :=
  ∀ (s : State) (i : Issue) (v w : BitVec 9) (k : BitVec 3) (blk : Bool), issuing s = some i →
    (w.toNat < i.b.regs → i.g.frags.length ≤ 1 → gstatWide i.g = false →
      WaitsAt s i (.regroup (0x04C00000#32 ||| (v.setWidth 32 <<< 13) ||| (w.setWidth 32 <<< 4) ||| (k.setWidth 32 <<< 1) |||
        (if blk then 1 else 0))) i.g (exec (.regroup v w k blk) s)) ∧
    (gstatCont i.g = false →
      ∃ t g, exec .retc s = .next t ∧ OnlyGang s t i.cur.gang ∧ tabFind t.gangs i.cur.gang = some g ∧
        g.gstat = i.g.gstat ||| 0x200 ∧ GoesTo i g i.g.cpc ∧ { g.sameIssue i.g with gstat := i.g.gstat } = i.g) ∧
    (gstatTm i.g = true →
      ∃ t g, exec .eret s = .next t ∧ OnlyGang s t i.cur.gang ∧ tabFind t.gangs i.cur.gang = some g ∧
        (∀ n, g.gstat.getLsbD n = (i.g.gstat.getLsbD n && decide (n ≠ 8))) ∧ GoesTo i g i.g.tpc ∧
        { g.sameIssue i.g with gstat := i.g.gstat } = i.g) ∧
    (gstatTm i.g = false → Traps s i 1 9 0 (trapWords i.cur.words) (exec .eret s)) ∧
    decodeWords 0x21400000 0 0 = .instr .eret

/-- A trap acts on the fragment that issued the trapping instruction: it saves the PC (behind it for TRAP and DBGB), the cause and the
value, sets TM and goes to TRAPV with nothing else changed; while TM is set, or without a vector, it halts the gang and writes none
of TPC, TSTAT and TVAL, which a GANGHALT record carries. TRAP is a trap with its code (R245, R246, R248). -/
def Obligations.TrapEntry : Prop :=
  ∀ (s : State) (i : Issue) (code : BitVec 16) (cause step field : Nat) (value : W64), issuing s = some i →
    Traps s i cause step field value (.next (takeTrap s i cause step field value)) ∧
    (i.cur.stuffed = none → gstatTm i.g = true ∨ trapVector s i = 0 → eventRoom s (contextRing s i.b.ctx) = none →
      (s.events.kept.filter fun e => e.source == sourceId 3 i.b.core).length < 64 →
      ∃ e ∈ (takeTrap s i cause step field value).events.kept, e.source = sourceId 3 i.b.core ∧ e.kind = 0x0011 ∧
        e.payload = haltPayload i (BitVec.ofNat 64 (cause + 256 * step + 4096 * field + 65536 * i.cur.entry)) value i.f.pc) ∧
    Traps s i 3 0 0 (code.setWidth 64) (exec (.trap code) s)

/-- The other instructions that trap on the gang's state or on its operands, each with its cause, step and field, with TPC at the
instruction itself. DBGB traps where the core's unit does not serve it: else the gang stands behind it, the block's halt for the
debugger is requested, and no trap is taken (R34, R52, R59, R87, R88, R95, R99, R104, R197, R242, R245). -/
def Obligations.StateTraps : Prop :=
  ∀ (s : State) (i : Issue) (d a : BitVec 6) (v w : BitVec 9) (k : BitVec 3) (blk : Bool) (code : BitVec 16), issuing s = some i →
    let illegal := Traps s i 1 9 0 (trapWords i.cur.words)
    (gstatWide i.g = false → illegal (exec .endw s)) ∧
    (gstatWide i.g = true → Traps s i 5 9 0 (trapWords i.cur.words) (exec .wide s)) ∧
    (gstatCont i.g = true → illegal (exec .retc s)) ∧
    (i.g.monitor = none → illegal (exec (.mwaitv d a) s)) ∧
    (i.b.responder = none → illegal (exec (.respond d a) s)) ∧
    (i.b.responder.isSome = true → Traps s i 6 9 0 (trapWords i.cur.words) (exec (.solicit d a a) s)) ∧
    (i.b.regs ≤ w.toNat → Traps s i 2 8 6 (trapWords i.cur.words) (exec (.regroup v w k blk) s)) ∧
    (w.toNat < i.b.regs → 1 < i.g.frags.length ∨ gstatWide i.g = true → illegal (exec (.regroup v w k blk) s)) ∧
    (unitOn s i.b 1 = false ∨ debugPermitted s i.b.ctx i.b.world = false →
      Traps s i 4 0 0 (code.setWidth 64) (exec (.dbgb code) s)) ∧
    (readDesc i.b (sreg i.g a) = none → illegal (exec (.tcopy a) s) ∧ illegal (exec (.tcopym a) s)) ∧
    (unitOn s i.b 1 = true → debugPermitted s i.b.ctx i.b.world = true →
      ∃ t g b, exec (.dbgb code) s = .next t ∧ tabFind t.gangs i.cur.gang = some g ∧ tabFind t.blocks i.g.block = some b ∧
        (b.haltReq = true ∨ b.halted = true) ∧ GoesTo i g (i.f.pc + 4) ∧ g.gstat = i.g.gstat ∧ g.tpc = i.g.tpc ∧
        g.s = i.g.s ∧ g.v = i.g.v ∧ g.k = i.g.k)

/-- Every lane instruction, of every row of the lane opcode map, whose register fields break R52 takes the illegal-register trap with
the code of the first breach, and has no other effect (R52, R59, R242). -/
def Obligations.RegisterTraps : Prop :=
  ∀ (s : State) (i : Issue) (x : Instr) (cls op : Nat) (f : Lane), issuing s = some i → laneParts? x = some (cls, op, f) →
    ¬RegsOk i cls op f → Traps s i 2 8 (laneBreach (laneRowD cls op) f i.b.regs i.b.acc) (trapWords i.cur.words) (exec x s)

/-- SRD brings each system register of R240 to sd, and SRDX the register numbered by a sum without wrap, or 0 when that number is
unassigned (R105, R240, R243, R244). -/
def Obligations.SystemReads : Prop :=
  ∀ (s : State) (i : Issue) (d a : BitVec 6) (n : BitVec 10), issuing s = some i →
    let reads (m : BitVec 10) (x : W64) : Prop := ScalarDone s i d x (exec (.srd d m) s)
    reads 0x000 i.g.gstat ∧ reads 0x001 i.g.gctl ∧ reads 0x002 i.g.tstat ∧ reads 0x003 i.g.tval ∧ reads 0x004 i.g.tpc ∧
    reads 0x005 (trapVector s i) ∧ reads 0x006 i.g.contv ∧ reads 0x007 i.g.cpc ∧ reads 0x008 i.g.fpctl ∧
    reads 0x009 (BitVec.ofNat 64 s.cycle) ∧ reads 0x00A (BitVec.ofNat 64 (parkThreshold s i.b.ctx)) ∧
    (i.cur.stuffed = none → reads 0x00C 0 ∧ reads 0x00D 0) ∧
    (i.cur.stuffed.isSome = true → reads 0x00C (reg s (.debug i.b.core 0x210)) ∧ reads 0x00D (reg s (.debug i.b.core 0x218))) ∧
    (∀ k : Nat, k < 16 → reads (BitVec.ofNat 10 (0x010 + k)) ((tabGet i.g.stalls k 0).setWidth 64)) ∧
    (∀ m : BitVec 10, (sreg i.g a).toNat + n.toNat = m.toNat → sysNumberAssigned m.toNat = true →
      exec (.srdx d a n) s = exec (.srd d m) s) ∧
    (1024 ≤ (sreg i.g a).toNat + n.toNat ∨ sysNumberAssigned ((sreg i.g a).toNat + n.toNat) = false →
      ScalarDone s i d 0 (exec (.srdx d a n) s))

/-- SWR, SSETB and SCLRB write the writable fields of each gang register: the bits of S(sd), the register with those bits set, or
the register with them cleared; read-only fields and registers keep, and an invalid rounding code in FPCTL becomes 1 (R124, R240,
R241, R242, R243). -/
def Obligations.SystemWrites : Prop :=
  ∀ (s : State) (i : Issue) (d : BitVec 6), issuing s = some i →
    let x := sreg i.g d
    let put (old new mask : W64) : W64 := (old &&& ~~~mask) ||| (new &&& mask)
    let round (y : W64) : W64 := if y &&& 7 = 0 ∨ 6 ≤ (y &&& 7).toNat then (y &&& 0x38) ||| 1 else y &&& 0x3F
    let writes (n : BitVec 10) (old : W64) (left : W64 → Gang) : Prop :=
      GangDone s i (left x) 4 (exec (.swr d n) s) ∧ GangDone s i (left (old ||| x)) 4 (exec (.ssetb d n) s) ∧
      GangDone s i (left (old &&& ~~~x)) 4 (exec (.sclrb d n) s)
    writes 0x000 i.g.gstat (fun y => { i.g with gstat := put i.g.gstat y 0x37F }) ∧
    writes 0x001 i.g.gctl (fun y => { i.g with gctl := put i.g.gctl y 0x3 }) ∧
    writes 0x002 i.g.tstat (fun y => { i.g with tstat := put i.g.tstat y 0x1FFFFF }) ∧
    writes 0x003 i.g.tval (fun y => { i.g with tval := y }) ∧
    writes 0x004 i.g.tpc (fun y => { i.g with tpc := put i.g.tpc y 0xFFFFFFFFFFFFFFFC }) ∧
    writes 0x006 i.g.contv (fun y => { i.g with contv := put i.g.contv y 0xFFFFFFFFFFFFFFFC }) ∧
    writes 0x007 i.g.cpc (fun y => { i.g with cpc := put i.g.cpc y 0xFFFFFFFFFFFFFFFC }) ∧
    writes 0x008 i.g.fpctl (fun y => { i.g with fpctl := round y }) ∧
    (∀ n : BitVec 10, n = 0x005 ∨ n = 0x009 ∨ n = 0x00A ∨ (0x010 ≤ n.toNat ∧ n.toNat ≤ 0x01F) →
      GangDone s i i.g 4 (exec (.swr d n) s) ∧ GangDone s i i.g 4 (exec (.ssetb d n) s) ∧ GangDone s i i.g 4 (exec (.sclrb d n) s)) ∧
    (∀ n : BitVec 10, n = 0x00C ∨ n = 0x00D → i.cur.stuffed = none → GangDone s i i.g 4 (exec (.swr d n) s)) ∧
    (i.cur.stuffed.isSome = true → ∃ t, exec (.swr d 0x00C) s = .next t ∧ reg t (.debug i.b.core 0x210) = x ∧
      (∀ r, r ≠ .debug i.b.core 0x210 → reg t r = reg s r) ∧ { t with sys := s.sys, gangs := s.gangs } = s)

/-- JOIN does nothing for a fragment with no join link, or whose record names another PC; else its lanes arrive, and the fragment
waits until the expected lanes that still live have arrived. The last arrival fuses the fragments that wait in the record: the fused
fragment stands behind the JOIN with their lanes and the record's enclosing link, and the record is free (R27, R54). -/
def Obligations.JoinMeets : Prop :=
  ∀ (s : State) (i : Issue), issuing s = some i →
    (i.f.link = none → GangDone s i i.g 4 (exec .join s)) ∧
    (∀ j r, i.f.link = some j → tabFind i.g.joins j = some r →
      (r.target ≠ i.f.pc → GangDone s i i.g 4 (exec .join s)) ∧
      (r.target = i.f.pc → i.g.joins = [(j, r)] → gstatWide i.g = false → r.expected &&& i.g.live &&& ~~~(r.arrived ||| i.f.mask) ≠ 0 →
        WaitsAt s i (.join j) { i.g with joins := [(j, { r with arrived := r.arrived ||| i.f.mask })] } (exec .join s))) ∧
    (∀ j r e f, i.f.link = some j → i.g.joins = [(j, r)] → r.target = i.f.pc → gstatWide i.g = false →
      r.expected &&& i.g.live &&& ~~~(r.arrived ||| i.f.mask) = 0 →
      e < i.cur.entry → i.g.frags = [(e, f), (i.cur.entry, i.f)] → f.wait = .join j →
      ∃ t g, exec .join s = .next t ∧ OnlyGang s t i.cur.gang ∧ tabFind t.gangs i.cur.gang = some g ∧
        g.frags = [(e, { pc := i.f.pc + 4, mask := f.mask ||| i.f.mask, link := r.encl, wait := .running, words := [] })] ∧
        g.joins = [] ∧ g.latch = [] ∧ g.s = i.g.s ∧ g.v = i.g.v ∧ g.k = i.g.k ∧ g.gstat = i.g.gstat)

/-- WIDE waits while other fragments have not reached it; with the last of them the bracket opens: the fragments are saved, and one
fragment with every live lane that is no helper goes on behind it. ENDW of that fragment closes the bracket: GSTAT.WIDE clears and
the saved fragments come back behind it with their masks and links. That the bracket's fragment stands in entry 0 is the model's
choice (log 16) (R31, R32). -/
def Obligations.WideBracket : Prop :=
  ∀ (s : State) (i : Issue) (e : Nat) (f : Frag), issuing s = some i →
    (gstatWide i.g = false → i.g.joins = [] → (e, f) ∈ i.g.frags → e ≠ i.cur.entry → f.wait = .running →
      WaitsAt s i .wide i.g (exec .wide s)) ∧
    (gstatWide i.g = false → i.g.joins = [] → i.g.frags = [(i.cur.entry, i.f)] →
      ∃ t g, exec .wide s = .next t ∧ OnlyGang s t i.cur.gang ∧ tabFind t.gangs i.cur.gang = some g ∧ gstatWide g = true ∧
        g.frags = [(0, { pc := i.f.pc + 4, mask := i.g.live &&& ~~~i.g.helper, link := none, wait := .running, words := [] })] ∧
        (∃ q, g.saved = [(i.cur.entry, q)] ∧ q.mask = i.f.mask ∧ q.link = i.f.link) ∧ g.latch = [] ∧
        g.s = i.g.s ∧ g.v = i.g.v ∧ g.k = i.g.k) ∧
    (gstatWide i.g = true → i.g.joins = [] → i.g.frags = [(i.cur.entry, i.f)] → i.g.saved = [(e, f)] →
      f.mask &&& i.g.live ≠ 0 →
      ∃ t g, exec .endw s = .next t ∧ OnlyGang s t i.cur.gang ∧ tabFind t.gangs i.cur.gang = some g ∧ gstatWide g = false ∧
        g.frags = [(e, { pc := i.f.pc + 4, mask := f.mask &&& i.g.live, link := f.link, wait := .running, words := [] })] ∧
        g.saved = [] ∧ g.latch = [] ∧ g.s = i.g.s ∧ g.v = i.g.v ∧ g.k = i.g.k)

/-- EXIT retires every lane of its fragment: no fragment keeps one of them, and the gang retires with its last live lane that is no
helper, with every register as it was (R12, R28, R94). -/
def Obligations.ExitRetires : Prop :=
  ∀ (s : State) (i : Issue), issuing s = some i →
    ∃ t g, exec .exit s = .next t ∧ tabFind t.gangs i.cur.gang = some g ∧ (∀ k, k ≠ i.cur.gang → tabFind t.gangs k = tabFind s.gangs k) ∧
      (g.retired = true ∨ g.live = i.g.live &&& ~~~i.f.mask) ∧
      (i.g.live &&& ~~~i.f.mask &&& ~~~i.g.helper = 0 → g.retired = true ∧ g.frags = [] ∧ g.live = 0) ∧
      (i.g.live &&& ~~~i.f.mask &&& ~~~i.g.helper ≠ 0 → g.retired = i.g.retired ∧ g.live = i.g.live &&& ~~~i.f.mask) ∧
      (∀ e q, tabFind g.frags e = some q → q.mask &&& i.f.mask = 0) ∧
      g.latch = [] ∧ g.s = i.g.s ∧ g.v = i.g.v ∧ g.k = i.g.k ∧ t.mem = s.mem

/-- BRL: its active lanes go to PC + 4 times the target offset, the others to PC + 12. When all agree, the fragment goes there; else
it splits: the part with the lowest lane keeps the entry, the other takes the lowest free one, and the lowest free join record names
the join target, the fragment's lanes and its old link; with no free record both keep the fragment's link. BRXL: its active lanes go to
their own 64-bit targets with bits [1:0] cleared; when all lanes of the fragment agree, the fragment goes there, and no join record is
taken; else there is one part per target, the part with the lowest lane in the old entry and the others, by their lowest lane, in the free
entries from the lowest on, all with one join record, or with the old link when none is free (R26, R83, R84). -/
def Obligations.LaneBranchSplits : Prop :=
  ∀ (s : State) (i : Issue) (f : Lane), issuing s = some i → i.cur.stuffed = none → i.f.mask ≠ 0 →
    let act := activeMask i f.guard f.neg
    let taken := i.f.pc + BitVec.ofInt 64 (4 * (f.dst ++ f.a ++ f.b.extractLsb' 7 3 : BitVec 22).toInt)
    (act = i.f.mask →
      ∃ t g, exec (.brl f) s = .next t ∧ OnlyGang s t i.cur.gang ∧ tabFind t.gangs i.cur.gang = some g ∧ GoesTo i g taken ∧
        g.joins = i.g.joins) ∧
    (act = 0 →
      ∃ t g, exec (.brl f) s = .next t ∧ OnlyGang s t i.cur.gang ∧ tabFind t.gangs i.cur.gang = some g ∧
        GoesTo i g (i.f.pc + 12) ∧ g.joins = i.g.joins) ∧
    (∀ l j e, act ≠ 0 → act ≠ i.f.mask → taken ≠ i.f.pc + 12 → lowLane i.f.mask = some l → tabFree i.g.joins 32 = some j →
      tabFree i.g.frags 32 = some e →
      let low := if act.getLsbD l then (taken, act) else (i.f.pc + 12, i.f.mask &&& ~~~act)
      let high := if act.getLsbD l then (i.f.pc + 12, i.f.mask &&& ~~~act) else (taken, act)
      ∃ t g, exec (.brl f) s = .next t ∧ OnlyGang s t i.cur.gang ∧ tabFind t.gangs i.cur.gang = some g ∧
        tabFind g.frags i.cur.entry = some { pc := low.1, mask := low.2, link := some j, wait := .running, words := [] } ∧
        tabFind g.frags e = some { pc := high.1, mask := high.2, link := some j, wait := .running, words := [] } ∧
        (∀ k, k ≠ i.cur.entry → k ≠ e → tabFind g.frags k = tabFind i.g.frags k) ∧
        tabFind g.joins j = some { target := i.f.pc + BitVec.ofInt 64 (4 * f.imm.toInt), expected := i.f.mask, arrived := 0,
                                   encl := i.f.link } ∧
        g.latch = [] ∧ g.s = i.g.s ∧ g.v = i.g.v ∧ g.k = i.g.k ∧ g.gstat = i.g.gstat) ∧
    (∀ l e, act ≠ 0 → act ≠ i.f.mask → taken ≠ i.f.pc + 12 → lowLane i.f.mask = some l → tabFree i.g.joins 32 = none →
      tabFree i.g.frags 32 = some e →
      let low := if act.getLsbD l then (taken, act) else (i.f.pc + 12, i.f.mask &&& ~~~act)
      let high := if act.getLsbD l then (i.f.pc + 12, i.f.mask &&& ~~~act) else (taken, act)
      ∃ t g, exec (.brl f) s = .next t ∧ OnlyGang s t i.cur.gang ∧ tabFind t.gangs i.cur.gang = some g ∧
        tabFind g.frags i.cur.entry = some { pc := low.1, mask := low.2, link := i.f.link, wait := .running, words := [] } ∧
        tabFind g.frags e = some { pc := high.1, mask := high.2, link := i.f.link, wait := .running, words := [] } ∧
        (∀ k, k ≠ i.cur.entry → k ≠ e → tabFind g.frags k = tabFind i.g.frags k) ∧ g.joins = i.g.joins ∧
        g.latch = [] ∧ g.s = i.g.s ∧ g.v = i.g.v ∧ g.k = i.g.k ∧ g.gstat = i.g.gstat) ∧
    (RegsOk i 6 1 f →
      let next (l : Nat) : W64 := if act.getLsbD l then addrVal i f.a.toNat l &&& 0xFFFFFFFFFFFFFFFC else i.f.pc + 12
      let mates (l : Nat) : Mask := maskOf fun k => i.f.mask.getLsbD k && next k == next l
      let leads := (List.range 32).filter fun l =>
        i.f.mask.getLsbD l && (List.range l).all fun k => !(i.f.mask.getLsbD k && next k == next l)
      let free := (List.range 32).filter fun e => (tabFind i.g.frags e).isNone
      let place (n : Nat) : Nat := if n = 0 then i.cur.entry else free.getD (n - 1) 0
      2 ≤ leads.length → leads.length ≤ free.length + 1 →
      ∃ t g, exec (.brxl f) s = .next t ∧ OnlyGang s t i.cur.gang ∧ tabFind t.gangs i.cur.gang = some g ∧
        (∀ n l, leads[n]? = some l → tabFind g.frags (place n) =
          some { pc := next l, mask := mates l, link := (tabFree i.g.joins 32).or i.f.link, wait := .running, words := [] }) ∧
        (∀ k, (∀ n, n < leads.length → k ≠ place n) → tabFind g.frags k = tabFind i.g.frags k) ∧
        (tabFree i.g.joins 32 = none → g.joins = i.g.joins) ∧
        (∀ j, tabFree i.g.joins 32 = some j → ∀ k, tabFind g.joins k = if k = j
          then some { target := i.f.pc + BitVec.ofInt 64 (4 * f.imm.toInt), expected := i.f.mask, arrived := 0, encl := i.f.link }
          else tabFind i.g.joins k) ∧
        g.latch = [] ∧ g.s = i.g.s ∧ g.v = i.g.v ∧ g.k = i.g.k ∧
        g.gstat = i.g.gstat ||| (if lostRead i 6 1 f then gstatLatch else 0)) ∧
    (∀ pc, RegsOk i 6 1 f →
      (∀ l, i.f.mask.getLsbD l = true →
        pc = if act.getLsbD l then addrVal i f.a.toNat l &&& 0xFFFFFFFFFFFFFFFC else i.f.pc + 12) →
      ∃ t g, exec (.brxl f) s = .next t ∧ OnlyGang s t i.cur.gang ∧ tabFind t.gangs i.cur.gang = some g ∧ GoesTo i g pc ∧
        g.joins = i.g.joins ∧ g.s = i.g.s ∧ g.v = i.g.v ∧ g.k = i.g.k)

/-- Integer addition, multiplication, minimum and logic of lanes: what each active lane's destination receives under the type, with
SAT where the op has it. That an instruction without an active lane does not set GSTAT.LATCH is the model's choice (log 43) (R53,
R57, R126, R135). -/
def Obligations.LaneIntegerResults : Prop :=
  ∀ (s : State) (i : Issue) (f : Lane), issuing s = some i →
    let done (op : Nat) (value : Nat → W64) (o : Answer) : Prop := RegsOk i 0 op f →
      LaneDone s i f (if is64 f.ty.toNat then 2 else 1) value (fun _ => noFlags) (lostRead i 0 op f) o
    let a (l : Nat) : Int := asInt f (srcA i f l)
    let b (l : Nat) : Int := asInt f (srcB i f l)
    let c (l : Nat) : Int := asInt f (srcC i f l)
    done 0 (fun l => wsat f (a l + b l)) (exec (.iadd f) s) ∧
    done 1 (fun l => wsat f (a l - b l)) (exec (.isub f) s) ∧
    done 2 (fun l => wrapTo f (a l * b l)) (exec (.imul f) s) ∧
    done 3 (fun l => BitVec.ofNat 64 (wrapInt 32 (a l * b l / 2 ^ 32))) (exec (.imulh f) s) ∧
    done 4 (fun l => wrapTo f (a l * b l + c l)) (exec (.imad f) s) ∧
    done 5 (fun l => wsat f (a l + b l + c l)) (exec (.iadd3 f) s) ∧
    done 6 (fun l => wsat f (if a l < 0 then -(a l) else a l)) (exec (.iabs f) s) ∧
    done 7 (fun l => wsat f (-(a l))) (exec (.ineg f) s) ∧
    done 8 (fun l => if a l ≤ b l then srcA i f l else srcB i f l) (exec (.imin f) s) ∧
    done 9 (fun l => if a l ≤ b l then srcB i f l else srcA i f l) (exec (.imax f) s) ∧
    done 10 (fun l => srcA i f l &&& srcB i f l) (exec (.iand f) s) ∧
    done 11 (fun l => srcA i f l ||| srcB i f l) (exec (.ior f) s) ∧
    done 12 (fun l => srcA i f l ^^^ srcB i f l) (exec (.ixor f) s) ∧
    done 13 (fun l => if is64 f.ty.toNat then ~~~(srcA i f l) else (~~~((srcA i f l).setWidth 32)).setWidth 64) (exec (.inot f) s)

/-- Shifts, truth tables, bit fields, moves and selections of lanes: what each active lane's destination receives. That an
instruction without an active lane does not set GSTAT.LATCH is the model's choice (log 43) (R53, R135, R136, R137, R139, R140). -/
def Obligations.LaneBitResults : Prop :=
  ∀ (s : State) (i : Issue) (f : Lane), issuing s = some i →
    let done (op : Nat) (value : Nat → W64) (o : Answer) : Prop := RegsOk i 0 op f →
      LaneDone s i f (if is64 f.ty.toNat then 2 else 1) value (fun _ => noFlags) (lostRead i 0 op f) o
    let moves (op w : Nat) (value : Nat → W64) (o : Answer) : Prop := RegsOk i 1 op f →
      LaneDone s i f w value (fun _ => noFlags) (lostRead i 1 op f) o
    let wd := if is64 f.ty.toNat then 2 else 1
    let w := if is64 f.ty.toNat then 64 else 32
    let n (l : Nat) : Nat := (srcB i f l).toNat % 2 ^ 32
    done 14 (fun l => ternWord (f.mod.toNat % 256) (srcA i f l) (srcB i f l) (srcC i f l)) (exec (.tern f) s) ∧
    done 15 (fun l => if w ≤ n l then 0 else wrapTo f ((srcA i f l).toNat * 2 ^ n l)) (exec (.ishl f) s) ∧
    done 16 (fun l => srcA i f l >>> n l) (exec (.ishr f) s) ∧
    done 17 (fun l => shiftRightArith w (n l) (srcA i f l)) (exec (.isra f) s) ∧
    done 18 (fun l => funnel f.mod (srcA i f l) (srcB i f l) (srcC i f l)) (exec (.shf f) s) ∧
    done 19 (fun l => BitVec.ofNat 64 ((List.range 32).countP fun k => (srcA i f l).getLsbD k)) (exec (.popc f) s) ∧
    done 20 (fun l => BitVec.ofNat 64 (leadingZeros ((srcA i f l).toNat % 2 ^ 32) 32)) (exec (.clz f) s) ∧
    done 21 (fun l => ((srcA i f l).setWidth 32).reverse.setWidth 64) (exec (.brev f) s) ∧
    done 22 (fun l => extractField (f.ty == 1) (srcA i f l) (srcB i f l)) (exec (.bfe f) s) ∧
    done 23 (fun l => insertField (srcA i f l) (srcB i f l) (srcC i f l)) (exec (.bfi f) s) ∧
    done 24 (fun l => permute (srcA i f l) (srcB i f l) (srcC i f l)) (exec (.prmt f) s) ∧
    moves 4 1 (fun l => BitVec.ofNat 64 (((List.range 8).map fun n => (pred i.g (BitVec.ofNat 3 n) l).toNat * 2 ^ n).sum)) (exec (.ktov f) s) ∧
    moves 5 wd (fun l => if pred i.g (f.mod.extractLsb' 0 3) l = f.mod.getLsbD 3 then srcB i f l else srcA i f l) (exec (.sel f) s) ∧
    moves 6 wd (fun l => srcA i f l) (exec (.mov f) s) ∧
    moves 7 1 (fun _ => (f.c ++ f.imm : BitVec 32).setWidth 64) (exec (.movi f) s)

/-- Comparisons and predicate operations write kd in the active lanes only; k0 stays true and inactive lanes keep. That an
instruction without an active lane does not set GSTAT.LATCH is the model's choice (log 43) (R48, R53, R138, R139). -/
def Obligations.PredicateResults : Prop :=
  ∀ (s : State) (i : Issue) (f : Lane), issuing s = some i →
    let a (l : Nat) : Int := asInt f (srcA i f l)
    let b (l : Nat) : Int := asInt f (srcB i f l)
    let t := elemFmt f.ty.toNat
    let x (l : Nat) : Nat := flushIn t (elemFlush i.g f.ty.toNat) ((elemsOf f.ty.toNat (srcA i f l)).getD 0 0)
    let y (l : Nat) : Nat := flushIn t (elemFlush i.g f.ty.toNat) ((elemsOf f.ty.toNat (srcB i f l)).getD 0 0)
    (RegsOk i 1 0 f → PredDone s i f (fun l => condHolds (f.mod.toNat % 8) (decide (a l = b l)) (decide (a l < b l))) (fun _ => noFlags)
      (lostRead i 1 0 f) (exec (.icmp f) s)) ∧
    (RegsOk i 1 1 f → PredDone s i f (fun l => (fcmpBits t (f.mod.toNat % 8) (f.mod.getLsbD 3) (x l) (y l)).1)
      (fun l => (fcmpBits t (f.mod.toNat % 8) (f.mod.getLsbD 3) (x l) (y l)).2) (lostRead i 1 1 f) (exec (.fcmp f) s)) ∧
    (RegsOk i 1 2 f → PredDone s i f (fun l => f.mod.getLsbD
        (6 + 2 * (pred i.g (f.mod.extractLsb' 0 3) l).toNat + (pred i.g (f.mod.extractLsb' 3 3) l).toNat)) (fun _ => noFlags)
      (lostRead i 1 2 f) (exec (.klop f) s)) ∧
    (RegsOk i 1 3 f → PredDone s i f (fun l => decide (srcA i f l ≠ 0)) (fun _ => noFlags) (lostRead i 1 3 f) (exec (.kmov f) s))

/-- Floating-point arithmetic of lanes: element by element on flushed operands, the result flushed, with the flags of each op. That
an instruction without an active lane does not set GSTAT.LATCH is the model's choice (log 43) (R53, R123, R125, R126, R141 to R144).
-/
def Obligations.LaneFloatResults : Prop :=
  ∀ (s : State) (i : Issue) (f : Lane), issuing s = some i →
    let ty := f.ty.toNat
    let t := elemFmt ty
    let fz := elemFlush i.g ty
    let mode := roundMode i.g (f.mod.toNat % 8)
    let ins (x : W64) : List Nat := (elemsOf ty x).map (flushIn t fz)
    let done (op : Nat) (r : Nat → List (Nat × FFlags)) (o : Answer) : Prop := RegsOk i 2 op f →
      LaneDone s i f (if is64 ty then 2 else 1) (fun l => (joinElems ((r l).map (flushOut t fz))).1)
        (fun l => (joinElems ((r l).map (flushOut t fz))).2) (lostRead i 2 op f) o
    let r1 (k : Nat → Nat × FFlags) (l : Nat) := (ins (srcA i f l)).map k
    let r2 (k : Nat → Nat → Nat × FFlags) (l : Nat) := List.zipWith k (ins (srcA i f l)) (ins (srcB i f l))
    done 0 (r2 fun a b => faddBits t mode (fval t a) (fval t b)) (exec (.fadd f) s) ∧
    done 1 (r2 fun a b => faddBits t mode (fval t a) (negVal (fval t b))) (exec (.fsub f) s) ∧
    done 2 (r2 fun a b => fmulBits t mode (fval t a) (fval t b)) (exec (.fmul f) s) ∧
    done 3 (fun l => List.zipWith (fun p c => ffmaBits t mode (fval t p.1) (fval t p.2) (fval t c))
      (List.zip (ins (srcA i f l)) (ins (srcB i f l))) (ins (srcC i f l))) (exec (.ffma f) s) ∧
    done 4 (r2 (fminmaxBits t false)) (exec (.fmin f) s) ∧
    done 5 (r2 (fminmaxBits t true)) (exec (.fmax f) s) ∧
    done 6 (r1 (signOp t fun _ => false)) (exec (.fabs f) s) ∧
    done 7 (r1 (signOp t fun n => !n)) (exec (.fneg f) s) ∧
    done 10 (r1 fun a => fsqrtBits t mode (fval t a)) (exec (.fsqrt f) s) ∧
    done 16 (r2 fun a b => fdivBits t mode (fval t a) (fval t b)) (exec (.fdiv f) s) ∧
    done 17 (r1 (frndBits t mode)) (exec (.frnd f) s) ∧
    (RegsOk i 2 18 f → LaneDone s i f 1
      (fun l => BitVec.ofNat 64 (fclassBits t (if ty = 5 then (srcA i f l).toNat else (srcA i f l).toNat % 2 ^ 32)))
      (fun _ => noFlags) (lostRead i 2 18 f) (exec (.fclass f) s))

/-- The values of the finite patterns of a format round to themselves in every mode, without a flag, whatever the format's
subnormals: a value the format holds is never changed by rounding (R112, R119). -/
def Obligations.RoundingKeepsRepresentable : Prop :=
  ∀ (t : Fmt) (mode x : Nat), t ∈ [f64, f32, bf16, f16, e5m2, e4m3] → x < 2 ^ (fmtBits t + 1) →
    (∀ sn, fval t x ≠ .nan sn) → roundVal t mode (fval t x) = (x, noFlags)

/-- Transcendentals of lanes run for every operand, with the result and flags of their op's function on the flushed operand; the
special cases of the table have exactly their results and flags, whether a power of two is normal or subnormal; every other input sets NX,
OF when the result is an infinity, and UF when it is subnormal or zero. Other results are the model's free values of log 8. That an
instruction without an active lane does not set GSTAT.LATCH is the model's choice (log 43) (R123, R127, R128, R143). -/
def Obligations.TranscendentalResults : Prop :=
  (∀ (s : State) (i : Issue) (f : Lane), issuing s = some i → f.ty = 4 →
    let done (op : Nat) (k : Nat → Nat × FFlags) (o : Answer) : Prop := RegsOk i 2 op f →
      LaneDone s i f 1 (fun l => BitVec.ofNat 64 (flushOut f32 (fz32 i.g) (k (flushIn f32 (fz32 i.g) ((srcA i f l).toNat % 2 ^ 32)))).1)
        (fun l => (flushOut f32 (fz32 i.g) (k (flushIn f32 (fz32 i.g) ((srcA i f l).toNat % 2 ^ 32)))).2) (lostRead i 2 op f) o
    done 8 frcpBits (exec (.frcp f) s) ∧ done 9 frsqBits (exec (.frsq f) s) ∧ done 11 fexp2Bits (exec (.fexp2 f) s) ∧
    done 12 flog2Bits (exec (.flog2 f) s) ∧ done 13 (fun a => fsincosBits 4 a (signBit f32)) (exec (.fsin f) s) ∧
    done 14 (fun a => fsincosBits 5 a fun _ => 0x3F800000) (exec (.fcos f) s) ∧ done 15 ftanhBits (exec (.ftanh f) s)) ∧
  (∀ x : Nat, x < 2 ^ 32 → 0x7F800000 < x % 2 ^ 31 →
    let nan := (0x7FC00000, if x / 2 ^ 22 % 2 = 0 then flagNv else noFlags)
    frcpBits x = nan ∧ frsqBits x = nan ∧ fexp2Bits x = nan ∧ flog2Bits x = nan ∧ fsincosBits 4 x (signBit f32) = nan ∧
    fsincosBits 5 x (fun _ => 0x3F800000) = nan ∧ ftanhBits x = nan) ∧
  (∀ n : Bool,
    let sg := if n then 2 ^ 31 else 0
    frcpBits sg = (sg + 0x7F800000, flagDz) ∧ frcpBits (sg + 0x7F800000) = (sg, noFlags) ∧ frsqBits sg = (sg + 0x7F800000, flagDz) ∧
    fexp2Bits sg = (0x3F800000, noFlags) ∧ flog2Bits sg = (0xFF800000, flagDz) ∧ fsincosBits 4 sg (signBit f32) = (sg, noFlags) ∧
    fsincosBits 5 sg (fun _ => 0x3F800000) = (0x3F800000, noFlags) ∧ ftanhBits sg = (sg, noFlags) ∧
    ftanhBits (sg + 0x7F800000) = (sg + 0x3F800000, noFlags) ∧
    fsincosBits 4 (sg + 0x7F800000) (signBit f32) = (0x7FC00000, flagNv) ∧
    fsincosBits 5 (sg + 0x7F800000) (fun _ => 0x3F800000) = (0x7FC00000, flagNv) ∧
    frsqBits (sg + 0x7F800000) = (if n then (0x7FC00000, flagNv) else (0, noFlags)) ∧
    fexp2Bits (sg + 0x7F800000) = (if n then 0 else 0x7F800000, noFlags) ∧
    flog2Bits (sg + 0x7F800000) = (if n then (0x7FC00000, flagNv) else (0x7F800000, noFlags))) ∧
  (∀ x : Nat, 2 ^ 31 < x → x < 0xFF800000 → frsqBits x = (0x7FC00000, flagNv) ∧ flog2Bits x = (0x7FC00000, flagNv)) ∧
  (∀ n : Nat, 1 ≤ n → n ≤ 253 → ∀ neg : Bool,
    let sg := if neg then 2 ^ 31 else 0
    frcpBits (sg + n * 2 ^ 23) = (sg + (254 - n) * 2 ^ 23, noFlags)) ∧
  (∀ neg : Bool, let sg := if neg then 2 ^ 31 else 0
    frcpBits (sg + 254 * 2 ^ 23) = (sg + 2 ^ 22, noFlags) ∧ frcpBits (sg + 2 ^ 22) = (sg + 254 * 2 ^ 23, noFlags)) ∧
  (∀ n : Nat, 1 ≤ n → n ≤ 253 → n % 2 = 1 → frsqBits (n * 2 ^ 23) = ((381 - n) / 2 * 2 ^ 23, noFlags)) ∧
  (∀ k : Nat, k < 23 → k % 2 = 1 → frsqBits (2 ^ k) = (((149 - k) / 2 + 127) * 2 ^ 23, noFlags)) ∧
  (∀ x : Nat, 0x43000000 ≤ x → x < 0x7F800000 → fexp2Bits x = (0x7F800000, ⟨false, false, true, false, false⟩)) ∧
  (∀ x : Nat, 0xC3160000 ≤ x → x < 0xFF800000 → fexp2Bits x = (0, ⟨false, true, false, false, false⟩)) ∧
  (∀ n : Nat, n < 128 → fexp2Bits (roundVal f32 1 (valOfInt n 0 false)).1 = ((127 + n) * 2 ^ 23, noFlags)) ∧
  (∀ n : Nat, 1 ≤ n → n ≤ 149 → fexp2Bits (roundVal f32 1 (valOfInt (-(n : Int)) 0 false)).1 =
    (if n ≤ 126 then (127 - n) * 2 ^ 23 else 2 ^ (149 - n), noFlags)) ∧
  (∀ k : Nat, k < 23 → flog2Bits (2 ^ k) = ((roundVal f32 1 (valOfInt ((k : Int) - 149) 0 false)).1, noFlags)) ∧
  (∀ n : Nat, 1 ≤ n → n ≤ 254 → flog2Bits (n * 2 ^ 23) = ((roundVal f32 1 (valOfInt ((n : Int) - 127) 0 false)).1, noFlags)) ∧
  (∀ x : Nat, 0x4111999A ≤ x → x < 0x7F800000 → ftanhBits x = (0x3F800000, noFlags) ∧ ftanhBits (2 ^ 31 + x) = (0xBF800000, noFlags)) ∧
  (∀ x : Nat, x < 2 ^ 32 → 0 < x % 2 ^ 31 → x % 2 ^ 31 < 0x7F800000 →
    let inexact (o : Nat × FFlags) : Prop :=
      o.2 = ⟨true, decide (o.1 % 2 ^ 31 < 2 ^ 23), decide (o.1 % 2 ^ 31 = 0x7F800000), false, false⟩
    let power : Prop := x % 2 ^ 23 = 0 ∨ ∃ k, k < 23 ∧ x = 2 ^ k
    (x % 2 ^ 23 ≠ 0 → x % 2 ^ 31 ≠ 2 ^ 22 → inexact (frcpBits x)) ∧
    (x < 2 ^ 31 → (∀ n, n % 2 = 1 → x ≠ n * 2 ^ 23) → (∀ k, k % 2 = 1 → k < 23 → x ≠ 2 ^ k) → inexact (frsqBits x)) ∧
    (x < 0x43000000 ∨ 2 ^ 31 < x ∧ x < 0xC3160000 → (∀ n : Int, x ≠ (roundVal f32 1 (valOfInt n 0 false)).1) →
      inexact (fexp2Bits x)) ∧
    (x < 2 ^ 31 → ¬power → inexact (flog2Bits x)) ∧
    inexact (fsincosBits 4 x (signBit f32)) ∧ inexact (fsincosBits 5 x fun _ => 0x3F800000) ∧
    (x % 2 ^ 31 < 0x4111999A → inexact (ftanhBits x)))

/-- Conversions of lanes: CVT, CVTP, CVTU, QDEC, QENC and SCLE. That an instruction without an active lane does not set GSTAT.LATCH
is the model's choice (log 43) (R53, R57, R118, R123, R145 to R148). -/
def Obligations.ConversionResults : Prop :=
  ∀ (s : State) (i : Issue) (f : Lane), issuing s = some i →
    let m := f.mod.toNat
    let ty := f.ty.toNat
    let st := m % 16
    let mode := roundMode i.g (m / 16 % 8)
    let nib := m / 4 % 8
    let a (l : Nat) : Nat := (srcA i f l).toNat % 2 ^ 32
    let done (op w : Nat) (r : Nat → W64 × FFlags) (o : Answer) : Prop := RegsOk i 3 op f →
      LaneDone s i f w (fun l => (r l).1) (fun l => (r l).2) (lostRead i 3 op f) o
    done 0 (if is64 ty then 2 else 1) (fun l => cvtVal i.g st ty mode (f.mod.getLsbD 7) (srcVal i f.a.toNat st f.imm l)) (exec (.cvt f) s) ∧
    (ty = 6 ∨ ty = 7 → done 1 1 (fun l =>
      joinElems [cvtpElem i.g st ty mode (f.mod.getLsbD 7) (srcVal i f.a.toNat st f.imm l),
                 cvtpElem i.g st ty mode (f.mod.getLsbD 7) (srcVal i f.b.toNat st f.imm l)]) (exec (.cvtp f) s)) ∧
    (ty ≠ 6 → ty ≠ 7 → done 1 1 (fun l =>
      let e (j : Nat) := cvtpElem i.g st ty mode (f.mod.getLsbD 7) ((vreg i.g (f.a.toNat + j) l).setWidth 64)
      (BitVec.ofNat 64 ((e 0).1 % 256 + (e 1).1 % 256 * 2 ^ 8 + (e 2).1 % 256 * 2 ^ 16 + (e 3).1 % 256 * 2 ^ 24),
       sumFlags [(e 0).2, (e 1).2, (e 2).2, (e 3).2])) (exec (.cvtp f) s)) ∧
    done 2 1 (fun l =>
      let w := if ty = 6 ∨ ty = 7 then 16 else 8
      let r := cvtuElem i.g ty st (a l / 2 ^ (w * (m / 2 ^ 8)) % 2 ^ w)
      (BitVec.ofNat 64 r.1, r.2)) (exec (.cvtu f) s) ∧
    done 3 1 (fun l => (BitVec.ofNat 64 (roundVal f32 1 (nibbleVal (m % 4) ((srcA i f l).toNat / 2 ^ (4 * nib) % 16))).1, noFlags)) (exec (.qdec f) s) ∧
    done 4 1 (fun l =>
      let r := nibbleEnc (m % 4) (fval f32 (flushIn f32 (fz32 i.g) (a l)))
      let b := (srcB i f l).toNat % 2 ^ 32
      (BitVec.ofNat 64 (b % 2 ^ (4 * nib) + r.1 % 16 * 2 ^ (4 * nib) + b / 2 ^ (4 * nib + 4) * 2 ^ (4 * nib + 4)), r.2)) (exec (.qenc f) s) ∧
    done 5 1 (fun l => if m % 2 = 1 then (BitVec.ofNat 64 (scaleEnc (fval f32 (a l))).1, (scaleEnc (fval f32 (a l))).2)
      else (BitVec.ofNat 64 (roundVal f32 1 (scaleVal (a l % 512))).1, noFlags)) (exec (.scle f) s)

/-- Exchanges and gang-wide operations: SHFL and QXCH bring the source of another lane as it stands at issue; VOTE, MATCH, REDUX and
SCAN take the active lanes that are no helpers. That an instruction without an active lane does not set GSTAT.LATCH is the model's
choice (log 43), and that a latch of a lane never created counts as lost, and that REDUX and SCAN flush at each combination, are its choices too (log 46,
log 20) (R54, R114, R149 to R156). -/
def Obligations.ExchangeResults : Prop :=
  ∀ (s : State) (i : Issue) (f : Lane), issuing s = some i →
    let m := f.mod.toNat
    let act := activeMask i f.guard f.neg
    let set : List Nat := (List.range 32).filter fun c => act.getLsbD c && !i.g.helper.getLsbD c
    let kp (c : Nat) : Bool := pred i.g (f.mod.extractLsb' 2 3) c
    let words := if is64 f.ty.toNat then 2 else 1
    let moved (op : Nat) (b : Bool) (src : Nat → Nat) (o : Answer) : Prop := RegsOk i 4 op f →
      LaneDone s i f words (fun l => if i.g.created.getLsbD (src l) then srcA i f (src l) else 0) (fun _ => noFlags)
        (readsLost i (maskOf fun j => (List.range 32).any fun l => act.getLsbD l && src l == j) f.a.toNat ||
          (b && readsLost i act f.b.toNat)) o
    let bits (x : Nat → Bool) : W64 := (maskOf x).setWidth 64
    let leaf (x : Nat) : Nat × FFlags := if f.ty = 4 then (match fval f32 x with
      | .nan sn => (0x7FC00000, if sn then flagNv else noFlags)
      | _ => (x, noFlags)) else (x, noFlags)
    let tree := treeOf i.g (m % 8) f.ty.toNat 5
      ((List.range 32).map fun l => if set.contains l then some (leaf ((srcA i f l).toNat % 2 ^ 32)) else none)
    let prefixOf (l : Nat) : Nat × FFlags := (set.filter fun c => decide (c < l) || (c == l && !f.mod.getLsbD 3)).foldl
      (fun a c => let x := comb i.g (m % 8) f.ty.toNat a.1 ((srcA i f c).toNat % 2 ^ 32); (x.1, orFlags a.2 x.2))
      (combIdentity (m % 8) f.ty.toNat, noFlags)
    moved 0 true (fun l => shflLane (m % 4) (32 / 2 ^ (m / 4 % 8)) ((srcVal i f.b.toNat 12 f.imm l).toNat % 2 ^ 32) l) (exec (.shfl f) s) ∧
    moved 1 false (fun l => l ^^^ (m % 4 + 1)) (exec (.qxch f) s) ∧
    (m % 4 ≠ 2 → RegsOk i 4 2 f →
      PredDone s i f (fun _ => if m % 4 = 0 then set.all kp else if m % 4 = 1 then set.any kp else set.all kp || !set.any kp)
        (fun _ => noFlags) (lostRead i 4 2 f) (exec (.vote f) s)) ∧
    (m % 4 = 2 → RegsOk i 4 2 f →
      LaneDone s i f 1 (fun _ => bits fun c => set.contains c && kp c) (fun _ => noFlags) (lostRead i 4 2 f) (exec (.vote f) s)) ∧
    (RegsOk i 4 3 f → LaneDone s i f 1 (fun l =>
      if f.mod.getLsbD 0 then (if set.all fun j => set.all fun k => srcA i f j == srcA i f k then bits fun c => set.contains c else 0)
      else bits fun c => set.contains c && srcA i f c == srcA i f l) (fun _ => noFlags) (lostRead i 4 3 f) (exec (.matchLanes f) s)) ∧
    (RegsOk i 4 4 f → LaneDone s i f 1 (fun _ => BitVec.ofNat 64 (tree.getD (combIdentity (m % 8) f.ty.toNat, noFlags)).1)
      (fun _ => (tree.getD (combIdentity (m % 8) f.ty.toNat, noFlags)).2) (lostRead i 4 4 f) (exec (.redux f) s)) ∧
    (RegsOk i 4 5 f → LaneDone s i f 1 (fun l => BitVec.ofNat 64 (prefixOf l).1) (fun l => (prefixOf l).2) (lostRead i 4 5 f)
      (exec (.scan f) s))

/-- LTOS writes sd once with the source of the lane it names, or of the lowest active lane that is no helper, else of the lowest
active lane; with none, sd keeps. Nothing but sd, a lost latch entry and GSTAT.LATCH changes. That an instruction without an active
lane does not set GSTAT.LATCH is the model's choice (log 43) (R54, R150, R157). -/
def Obligations.LaneToScalar : Prop :=
  ∀ (s : State) (i : Issue) (f : Lane), issuing s = some i → RegsOk i 4 6 f →
    let act := activeMask i f.guard f.neg
    let pick : Option Nat := if f.mod.getLsbD 5 then some (f.mod.toNat % 32)
      else match (List.range 32).find? fun l => act.getLsbD l && !i.g.helper.getLsbD l with
        | some l => some l
        | none => (List.range 32).find? fun l => act.getLsbD l
    ∃ t g, exec (.ltos f) s = .next t ∧ OnlyGang s t i.cur.gang ∧ tabFind t.gangs i.cur.gang = some g ∧
      (match pick with
        | some l => ScalarsAfter i g (f.dst.setWidth 6) (if i.g.created.getLsbD l then
            (if f.ty = 2 then srcA i f l else ((srcA i f l).setWidth 32).setWidth 64) else 0)
        | none => g.s = i.g.s) ∧
      g.gstat = i.g.gstat ||| (if pick.any fun l => readsLost i (laneBit l) f.a.toNat then gstatLatch else 0) ∧
      LatchesAfter i g (fun _ => none) ∧ GoesTo i g (i.f.pc + 12) ∧ g.seq = i.g.seq + 1 ∧
      { g.sameIssue i.g with s := i.g.s, gstat := i.g.gstat, latch := i.g.latch, latchDue := i.g.latchDue } = i.g

/-- Scalar memory instructions issue one access: SLDW, SLDD, SSTW, SSTD and SLDK to the global space at S(sa) + imm10 aligned down
to their size, SLDP and SSTP to the pad; what each access reads or stores, and where its value goes.
BARINIT writes 16 bytes at the barrier, BARARR counts bytes and one arrival at it as a release at block scope: each is one access of
path 2 at S(sa) with bits [3:0] cleared (R75 to R77, R193, R272, R273). -/
def Obligations.ScalarMemoryIssues : Prop :=
  ∀ (s : State) (i : Issue) (d a b : BitVec 6) (k : BitVec 3) (imm : BitVec 10) (arr : Bool), issuing s = some i →
    let issues (sp : Space) (kind : ReqKind) (dest : Dest) (n : Nat) (data : List Byte) (o : Answer) : Prop :=
      let ps := scalarPart sp ((sreg i.g a + imm.signExtend 64) &&& ~~~(BitVec.ofNat 64 (n - 1))) n data
      MemDone s i (scalarWant s i sp kind dest) (byLine ps) (sp == .p && anyOutside s i.g.block i.b sp (ps.map (·.2)))
        false false false 4 o
    let counts (kind : ReqKind) (order : Order) (data : List Byte) (o : Answer) : Prop :=
      let p := innerPart 0 (BitVec.ofNat 64 ((sreg i.g a).toNat % 2 ^ 32 / 16 * 16)) 16 data []
      MemDone s i { path := some 2, sets := setsW, order := order, scope := 1, space := .p, kind := kind, dest := .none, mask := 0,
                    urgent := false } [(0, [p])] (anyOutside s i.g.block i.b .p [p]) false false false 4 o
    issues .g .read (.scalar d.toNat) 4 [] (exec (.sldw d a imm) s) ∧
    issues .g .read (.scalar d.toNat) 8 [] (exec (.sldd d a imm) s) ∧
    issues .g .write .none 4 (leBytes 4 (sreg i.g d).toNat) (exec (.sstw d a imm) s) ∧
    issues .g .write .none 8 (leBytes 8 (sreg i.g d).toNat) (exec (.sstd d a imm) s) ∧
    issues .g .read (.pred k.toNat) 4 [] (exec (.sldk k a imm) s) ∧
    issues .p .read (.scalar d.toNat) 8 [] (exec (.sldp d a imm) s) ∧
    issues .p .write .none 8 (leBytes 8 (sreg i.g d).toNat) (exec (.sstp d a imm) s) ∧
    counts .write .rlx (leBytes 4 (sreg i.g b).toNat ++ leBytes 4 0 ++ leBytes 4 ((sreg i.g b).toNat / 2 ^ 32) ++ leBytes 4 0)
      (exec (.barinit a b) s) ∧
    counts (.barrier ((sreg i.g b).toNat % 2 ^ 32) (if arr then 1 else 0)) .rel [] (exec (.bararr a b arr) s)

/-- Lane memory instructions issue one access with the bytes of every performing lane: a load for helper lanes too, the others
without them; ATOM, RED and CAS at aligned addresses, ATOM and CAS as switch points (R15, R29, R64, R184 to R191, R193). -/
def Obligations.LaneMemoryIssues : Prop :=
  ∀ (s : State) (i : Issue) (f : Lane), issuing s = some i →
    let n := accessWidth f.ty.toNat f.mod.toNat
    let outer := translated (spaceOf f.mod.toNat)
    let issues (op : Nat) (m : MemForm) (dest : Dest) (data cmp : Nat → List Byte) (o : Answer) : Prop := RegsOk i 5 op f →
      MemDone s i (formWant s i f m dest) (formLines s i f m data cmp) (formOutside s i f m) (lostRead i 5 op f) true m.switch 12 o
    let b (l : Nat) : List Byte := operandBytes i f f.b.toNat n l
    let rd : Nat := if outer then 0 else 2
    let wr : Nat := if outer then 1 else 2
    issues 0 { kind := .read, helpers := true, aligned := false, switch := false, path := rd, sets := setsR, urgent := true }
      (.lane f.dst.toNat n (f.ty == 1)) (fun _ => []) (fun _ => []) (exec (.ld f) s) ∧
    issues 1 { kind := .write, helpers := false, aligned := false, switch := false, path := wr, sets := setsW, urgent := false }
      .none b (fun _ => []) (exec (.st f) s) ∧
    issues 2 { kind := .rmw (rmwOf f.c.toNat) f.ty.toNat, helpers := false, aligned := true, switch := true, path := rd,
               sets := setsRW, urgent := false }
      (.lane f.dst.toNat n false) b (fun _ => []) (exec (.atom f) s) ∧
    issues 3 { kind := .rmw (rmwOf f.c.toNat) f.ty.toNat, helpers := false, aligned := true, switch := false, path := wr,
               sets := setsW, urgent := false }
      .none b (fun _ => []) (exec (.red f) s) ∧
    issues 4 { kind := .cas, helpers := false, aligned := true, switch := true, path := rd, sets := setsRW, urgent := false }
      (.lane f.dst.toNat n false) (operandBytes i f f.c.toNat n) b (exec (.cas f) s)

/-- PREF starts reads of lines and waits for nothing: no path counter rises, no register, access or byte of memory changes, and the
lanes push a lost latch entry; that a PREF at or above Z sets no PADR is the model's choice (log 46). MWAITV reads the monitored word
with acquire at sys and waits; CMO issues one access with a request for every line of its range on path 1 (R53, R192, R197, R198). -/
def Obligations.PrefetchAndCacheOps : Prop :=
  ∀ (s : State) (i : Issue) (d a b : BitVec 6) (kind : BitVec 2) (f : Lane), issuing s = some i →
    (∀ m, i.g.monitor = some m →
      let w : Want := { path := none, sets := setsR, order := .acq, scope := 5, space := .g, kind := .read,
                        dest := .monitor i.cur.entry, mask := i.f.mask, urgent := false }
      ∃ t g, exec (.mwaitv d a) s = .next t ∧ tabFind t.gangs i.cur.gang = some g ∧
        Opened s t i w (byLine (globalParts 0 m 8 [] [])) ∧
        (∀ e, tabFind g.frags e = if e = i.cur.entry then some { i.f with wait := .mwaitvRead d (sreg i.g a) s.nextId }
          else tabFind i.g.frags e) ∧ g.s = i.g.s ∧ g.v = i.g.v ∧ g.k = i.g.k ∧ t.mem = s.mem) ∧
    MemDone s i { path := some 1, sets := setsW, order := .rlx, scope := 3, space := .g, kind := .cmo kind.toNat, dest := .none,
                  mask := 0, urgent := false }
      ((cmoLines (sreg i.g a) (sreg i.g b)).map fun l =>
        (l, [{ lane := 0, off := 0, pos := 0, len := 64, data := [], cmp := [], res := [] }])) false false false false 4
      (exec (.cmo a b kind) s) ∧
    (RegsOk i 5 5 f →
      ∃ t g, exec (.pref f) s = .next t ∧ tabFind t.gangs i.cur.gang = some g ∧
        { t with gangs := s.gangs, reqs := s.reqs, nextId := s.nextId } = s ∧
        (∀ k, k ≠ i.cur.gang → tabFind t.gangs k = tabFind s.gangs k) ∧
        (∀ k, k < s.nextId → tabFind t.reqs k = tabFind s.reqs k) ∧
        (∀ k r, s.nextId ≤ k → tabFind t.reqs k = some r → k < t.nextId ∧ r.kind = .pref ∧ r.access = none) ∧
        (translated (spaceOf f.mod.toNat) = false → t.reqs = s.reqs) ∧
        g.gstat = i.g.gstat ||| (if lostRead i 5 5 f then gstatLatch else 0) ∧ LatchesAfter i g (fun _ => none) ∧
        GoesTo i g (i.f.pc + 12) ∧ g.seq = i.g.seq + 1 ∧
        { g.sameIssue i.g with gstat := i.g.gstat, latch := i.g.latch, latchDue := i.g.latchDue } = i.g)

/-- Lines of a CMO range: every 64-byte line that holds one of its bytes, and no other; an empty range has none. A range of 2^32
bytes or more counts as 2^32 (R198). -/
def Obligations.CacheOpLines : Prop :=
  ∀ (a len : W64) (l : W64), a.toNat + min len.toNat (2 ^ 32) ≤ 2 ^ 64 →
    (l ∈ cmoLines a len ↔ l.toNat % 64 = 0 ∧
      ∃ k : Nat, k < min len.toNat (2 ^ 32) ∧ l.toNat ≤ a.toNat + k ∧ a.toNat + k < l.toNat + 64)

/-- Matrix instructions enter their core's queue in order, in the gang's open batch, with the scalars and bitmap they read; the
gang goes on with a lost latch entry, and no register, tile or pad byte changes yet (R284, R289 to R297). -/
def Obligations.MatrixIssues : Prop :=
  ∀ (s : State) (i : Issue) (f : Lane), issuing s = some i →
    let entry (op : Nat) (x y z : W64) : MatEntry :=
      { id := s.nextId, gang := i.cur.gang, before := [i.cur.gang], block := i.g.block, batch := i.g.bn + 1, op := op, f := f,
        x := x, y := y, z := z }
    let enters (op : Nat) (x y z : W64) (o : Answer) : Prop := RegsOk i 7 op f →
      ∃ t g, o = .next t ∧ tabFind t.gangs i.cur.gang = some g ∧
        matQueue t i.b.core = matQueue s i.b.core ++ [entry op x y z] ∧
        (∀ c, c ≠ i.b.core → matQueue t c = matQueue s c) ∧
        (∀ k, k ≠ i.cur.gang → tabFind t.gangs k = tabFind s.gangs k) ∧
        { t with gangs := s.gangs, mq := s.mq, nextId := s.nextId } = s ∧
        LatchesAfter i g (fun _ => none) ∧ GoesTo i g (i.f.pc + 12) ∧ g.seq = i.g.seq + 1 ∧
        { g.sameIssue i.g with latch := i.g.latch, latchDue := i.g.latchDue } = i.g
    let x (c : BitVec 10) : W64 := srcVal i c.toNat 12 f.imm 0
    let bitmap : W64 := if f.c.toNat < 512 then (if i.g.created.getLsbD 0 then vpair i.g f.c.toNat 0 else 0) else addrVal i f.c.toNat 0
    enters 0 0 0 0 (exec (.mma f) s) ∧ enters 1 (x f.a) (x f.b) (x f.c) (exec (.mmat f) s) ∧
    enters 2 0 0 bitmap (exec (.mmaz f) s) ∧ enters 3 0 0 0 (exec (.mzero f) s) ∧ enters 4 (x f.a) 0 0 (exec (.mld f) s) ∧
    enters 5 (x f.a) 0 0 (exec (.mst f) s) ∧
    enters 6 (x f.a) (if f.mod.getLsbD 4 then x f.b else 0) 0 (exec (.mout f) s)

/-- Copies and group instructions complete at issue. TCOPY and TCOPYM with a legal descriptor raise path 3 and start a command with
the descriptor's sides, extents, barrier and stamp, TCOPYM's with its follow-on; a group TCOPY asks in its group's round, or is
refused. GENROL returns the status of its table, and on 0 its block is a member of the group it names. GLOAD and GPUT return the status of
their checks, a bad record, no membership, an unserved ask of the open round or an incomplete group, and raise path 3; on 0 they start a fill that asks in the group's round, or a push to every other member. GLEAVE ends the membership
of a member. That a refused group TCOPY leaves its stamp too is the model's choice (log 19), and so is that
GENROL takes the lowest free table entry (log 19) (R261, R264 to R266, R276 to R280). -/
def Obligations.CopyAndGroupIssues : Prop :=
  ∀ (s : State) (i : Issue) (d a b : BitVec 6), issuing s = some i →
    let u := i.g.block
    let xa := sreg i.g a
    let xb := sreg i.g b
    let o1 (n o : Nat) : Bool := !padInside i.b (xa.toNat % 2 ^ 32 / 64 * 64) n ||
      (match readDesc i.b xa with
        | some x => cmdOutside s i (descCmd s i x o)
        | none => false)
    let ours (c : Cmd) : Prop := c.gang = i.cur.gang ∧ c.block = u ∧ c.core = i.b.core ∧ c.access = s.nextId ∧ c.landed = 0 ∧
      c.barDone = false ∧ c.stampDone = false ∧ c.done = false
    let copies (x : Desc) (c : Cmd) : Prop := ours c ∧ c.ssp = x.ssp ∧ c.dsp = x.dsp ∧ c.src = x.src ∧ c.dst = x.dst ∧ c.esz = x.esz ∧
      c.ext = x.ext ∧ c.str = x.str ∧ c.side = x.side ∧ c.total = 2 ^ x.esz * x.ext.foldl (· * ·) 1 ∧ c.bar = x.bar ∧
      c.arr = x.arr ∧ c.stamp = x.stamp
    let starts (c : Cmd) (t : State) : Prop := tabFind t.cmds (s.nextId + 1) = some c ∧ t.groups = s.groups ∧
      ∀ k, k ≠ s.nextId + 1 → tabFind t.cmds k = tabFind s.cmds k
    let asks (key : Nat) (t : State) : Prop := ∃ g, tabFind t.groups key = some g ∧
      ((∃ r, g.round = some r ∧ s.nextId + 1 ∈ r.asks) ∨ s.nextId + 1 ∈ g.held)
    let member : Option (Nat × Group) :=
      if xa.toNat < 2 ^ 16 then (groupOf s i.b.ctx (xa.setWidth 16)).filter fun k => k.2.members.contains u else none
    let pending (g : Group) : Bool := match g.round with
      | some r => (r.asks.any fun k => (tabFind s.cmds k).any fun c => c.block == u) && !r.served.contains u
      | none => false
    let at' (o n : Nat) : Nat := leAt (padBytes i.b (xb.toNat % 2 ^ 32 / 32 * 32) 32) o n
    let lenOk : Prop := 16 ≤ at' 8 4 ∧ at' 8 4 ≤ 65536 ∧ at' 8 4 % 16 = 0
    let loads : Nat :=
      if ¬(at' 0 8 % 16 = 0 ∧ lenOk ∧ at' 12 4 % 16 = 0 ∧ at' 16 4 % 16 = 0 ∧ at' 20 12 = 0) then 8
      else match member with
        | none => 6
        | some k => if pending k.2 then 7 else 0
    let puts : Nat :=
      if ¬(at' 0 4 % 16 = 0 ∧ at' 4 4 = 0 ∧ lenOk ∧ at' 12 4 % 16 = 0 ∧ at' 16 4 % 16 = 0 ∧ at' 20 4 % 16 = 0 ∧ at' 24 8 = 0) then 8
      else match member with
        | none => 6
        | some k => if k.2.members.length < k.2.count ∨ 0 < k.2.left then 9 else 0
    (∀ x, readDesc i.b xa = some x → x.mc = false →
      AwaitDone s i (some 3) .none [] (some (s.nextId + 1)) (o1 64 s.nextId) (exec (.tcopy a) s) ∧
      ∀ t, exec (.tcopy a) s = .next t → ∃ c, starts c t ∧ copies x c ∧ c.kind = .copy ∧ c.follow = none ∧ c.started = true) ∧
    (∀ x w, readDesc i.b xa = some x → x.mc = false → x.dsp = .p → readFollow i.b xa = some w →
      AwaitDone s i (some 3) .none [] (some (s.nextId + 1)) (o1 96 s.nextId) (exec (.tcopym a) s) ∧
      ∀ t, exec (.tcopym a) s = .next t → ∃ c, starts c t ∧ copies x c ∧ c.kind = .copy ∧
        c.follow = some (w.1, w.2, i.g.bn + 1) ∧ c.started = true) ∧
    (∀ x key g, readDesc i.b xa = some x → x.mc = true → memberGroup s u i.b (x.group.setWidth 64) = some (key, g) →
      tabFind s.groups key = some g → askPending s g u = false →
      AwaitDone s i (some 3) .none [] (some (s.nextId + 1)) (o1 64 s.nextId) (exec (.tcopy a) s) ∧
      ∀ t, exec (.tcopy a) s = .next t → asks key t ∧
        ∃ c, tabFind t.cmds (s.nextId + 1) = some c ∧ copies x c ∧ c.kind = .groupFill ∧ c.group = key) ∧
    (∀ x, readDesc i.b xa = some x → x.mc = true →
      (∀ key g, memberGroup s u i.b (x.group.setWidth 64) = some (key, g) → askPending s g u = true) →
      AwaitDone s i (some 3) .none [] none (!padInside i.b (xa.toNat % 2 ^ 32 / 64 * 64) 64) (exec (.tcopy a) s) ∧
      ∀ t, exec (.tcopy a) s = .next t → t.cmds = s.cmds ∧ t.groups = s.groups) ∧
    (let id : BitVec 16 := xa.setWidth 16
     let n := xb.toNat
     let sector := sectorOf i.b.core
     let free := (List.range 64).find? fun k => (tabFind s.groups (64 * sector + k)).isNone
     let st : Nat :=
       if n = 0 ∨ 24 < n ∨ 2 ^ 16 ≤ xa.toNat then 2
       else if (memberGroup s u i.b xa).isSome then 5
       else if 16 ≤ (s.groups.filter fun e => e.2.members.contains u).length then 3
       else if s.claims.any fun c => c.1 == i.b.ctx && c.2.1 == id && c.2.2 != sector then 1
       else match groupOf s i.b.ctx id with
         | some (_, g) => if g.count ≠ n then 2 else if g.members.length + g.left = g.count then 4 else 0
         | none => if free.isNone then 3 else 0
     AwaitDone s i none (.scalar d.toNat) [(0, BitVec.ofNat 64 st)] none false (exec (.genrol d a b) s) ∧
     ∀ t, exec (.genrol d a b) s = .next t →
       (st ≠ 0 → t.groups = s.groups ∧ t.claims = s.claims) ∧
       (∀ key g, st = 0 → groupOf s i.b.ctx id = some (key, g) → tabFind s.groups key = some g →
         t.claims = s.claims ∧ ∀ k, tabFind t.groups k =
           if k = key then some { g with members := g.members ++ [u] } else tabFind s.groups k) ∧
       (∀ k0, st = 0 → groupOf s i.b.ctx id = none → free = some k0 →
         t.claims = s.claims ++ [(i.b.ctx, id, sector)] ∧ ∀ k, tabFind t.groups k =
           if k = 64 * sector + k0
           then some { ctx := i.b.ctx, id := id, count := n, members := [u], left := 0, round := none, held := [] }
           else tabFind s.groups k)) ∧
    (∃ t g, exec (.gleave a) s = .next t ∧ tabFind t.gangs i.cur.gang = some g ∧ GoesTo i g (i.f.pc + 4) ∧
      g.seq = i.g.seq + 1 ∧ g.sameIssue i.g = i.g ∧ t.blocks = s.blocks ∧ t.mem = s.mem ∧
      (memberGroup s u i.b xa = none → OnlyGang s t i.cur.gang) ∧
      (∀ key m, memberGroup s u i.b xa = some (key, m) → tabFind s.groups key = some m →
        (∀ k, k ≠ key → tabFind t.groups k = tabFind s.groups k) ∧
        (m.members.erase u = [] → tabFind t.groups key = none) ∧
        (m.members.erase u ≠ [] → ∃ h, tabFind t.groups key = some h ∧ h.members = m.members.erase u ∧ h.left = m.left + 1 ∧
          h.ctx = m.ctx ∧ h.id = m.id ∧ h.count = m.count))) ∧
    (∀ key g, loads = 0 → member = some (key, g) → tabFind s.groups key = some g → ∃ out,
      (padInside i.b (xb.toNat % 2 ^ 32 / 32 * 32) 32 = false → out = true) ∧
      AwaitDone s i (some 3) (.scalar d.toNat) [(0, 0)] (some (s.nextId + 1)) out (exec (.gload d a b) s) ∧
      ∀ t, exec (.gload d a b) s = .next t → asks key t ∧
        ∃ c, tabFind t.cmds (s.nextId + 1) = some c ∧ ours c ∧ c.kind = .groupFill ∧ c.ssp = .g ∧ c.dsp = .p ∧
          c.src = BitVec.ofNat 64 (at' 0 8) ∧ c.dst = BitVec.ofNat 64 (at' 12 4) ∧ c.esz = 4 ∧ c.ext = [at' 8 4 / 16, 1, 1, 1, 1] ∧
          c.total = at' 8 4 ∧ c.bar = some (at' 16 4) ∧ c.group = key) ∧
    (loads ≠ 0 →
      AwaitDone s i (some 3) (.scalar d.toNat) [(0, BitVec.ofNat 64 loads)] none
        (!padInside i.b (xb.toNat % 2 ^ 32 / 32 * 32) 32) (exec (.gload d a b) s) ∧
      ∀ t, exec (.gload d a b) s = .next t → t.cmds = s.cmds ∧ t.groups = s.groups) ∧
    (∀ key g, puts = 0 → member = some (key, g) → ∃ out,
      (padInside i.b (xb.toNat % 2 ^ 32 / 32 * 32) 32 = false → out = true) ∧
      AwaitDone s i (some 3) (.scalar d.toNat) [(0, 0)] (some (s.nextId + 1)) out (exec (.gput d a b) s) ∧
      ∀ t, exec (.gput d a b) s = .next t → ∃ c, starts c t ∧ ours c ∧ c.kind = .gput ∧ c.ssp = .p ∧
        c.src = BitVec.ofNat 64 (at' 0 4) ∧ c.dst = BitVec.ofNat 64 (at' 12 4) ∧ c.total = at' 8 4 ∧ c.bar = some (at' 20 4) ∧
        c.rbar = at' 16 4 ∧
        c.group = key ∧ c.waiting = g.members.erase u ∧ c.acks = [] ∧ c.started = true) ∧
    (puts ≠ 0 →
      AwaitDone s i (some 3) (.scalar d.toNat) [(0, BitVec.ofNat 64 puts)] none
        (!padInside i.b (xb.toNat % 2 ^ 32 / 32 * 32) 32) (exec (.gput d a b) s) ∧
      ∀ t, exec (.gput d a b) s = .next t → t.cmds = s.cmds ∧ t.groups = s.groups)

/-- Directory instructions: DIRADD, DIRDEL and DIRMOV issue, each with its status still to come in sd and its access ordered as a
write. Performed on its core, DIRADD makes the lowest free entry from its 16-byte record, DIRDEL frees the lowest HOME entry of the
key, and DIRMOV makes it LEAVING and starts a handoff; the status says so, or why not. That the new entry is the lowest free one, and
that DIRADD's own access reads its record, are the model's choices (log 21) (R301, R305 to R309). -/
def Obligations.DirectoryIssues : Prop :=
  (∀ (s : State) (i : Issue) (d a b : BitVec 6), issuing s = some i →
    let off := (sreg i.g b).toNat % 2 ^ 32 / 16 * 16
    let awaits (op : DirOp) (ps : List Part) (out : Bool) (o : Answer) : Prop :=
      AwaitDone s i none (.scalar d.toNat) [] (some 0) out o ∧ ∀ t, o = .next t →
        (∃ x, tabFind t.accs s.nextId = some x ∧ x.dir = some op ∧ x.sets = setsW) ∧
        ∃ r, tabFind t.reqs (s.nextId + 1) = some r ∧ r.access = some s.nextId ∧ r.space = .p ∧ r.parts = ps ∧ r.stage = .home
    let rec16 : Part := innerPart 0 (BitVec.ofNat 64 off) 16 [] []
    awaits (.add (sreg i.g a)) [rec16] (anyOutside s i.g.block i.b .p [rec16]) (exec (.diradd d a b) s) ∧
    awaits (.del (sreg i.g a)) [] false (exec (.dirdel d a) s) ∧
    awaits (.mov (sreg i.g a) (sreg i.g b)) [] false (exec (.dirmov d a b) s)) ∧
  (∀ (s : State) (req access : Nat) (r : Req) (x : Access) (b : Block) (op : DirOp),
    tabFind s.reqs req = some r → homeReady s req r = true → r.space = .p → r.kind = .read → r.order = .rlx → r.cmd = none →
    r.access = some access → tabFind s.accs access = some x → x.dir = some op → r.agent = .gang x.gang →
    tabFind s.blocks (x.gang / 32) = some b →
    let answers (st : W64) (t : State) : Prop :=
      tabFind t.accs access = some { x with dir := none, status := [(0, st)] } ∧ t.mem = s.mem
    let keeps (st : W64) (o : Answer) : Prop := ∃ t, o = .next t ∧ answers st t ∧ t.dirs = s.dirs
    (∀ key off, op = .add key → r.parts = [innerPart 0 (BitVec.ofNat 64 off) 16 [] []] → off % 16 = 0 → off < 2 ^ 32 →
      b.padSize ≤ 2 ^ 26 →
      let entry : W64 := BitVec.ofNat 64 (leAt (padBytes b off 16) 8 8)
      (responderEntryOk entry = false → keeps 4 (exec (.memRequestAtHome req) s)) ∧
      (responderEntryOk entry = true → freeDirEntry s b.core = none → keeps 1 (exec (.memRequestAtHome req) s)) ∧
      (∀ k, responderEntryOk entry = true → freeDirEntry s b.core = some k →
        ∃ t, exec (.memRequestAtHome req) s = .next t ∧ answers 0 t ∧
          ∀ j, tabFind t.dirs j =
            if j = 256 * b.core + k then
              some { key := key, handle := BitVec.ofNat 64 (leAt (padBytes b off 16) 0 8), entry := entry, ctx := b.ctx, st := .home }
            else tabFind s.dirs j)) ∧
    (∀ key, op = .del key → r.parts = [] →
      (homeEntry s b.core b.ctx key = none → keeps 2 (exec (.memRequestAtHome req) s)) ∧
      (∀ k, homeEntry s b.core b.ctx key = some k →
        ∃ t, exec (.memRequestAtHome req) s = .next t ∧ answers 0 t ∧
          ∀ j, tabFind t.dirs j = if j = 256 * b.core + k then none else tabFind s.dirs j)) ∧
    (∀ key core, op = .mov key core → r.parts = [] →
      (287 < core.toNat → keeps 3 (exec (.memRequestAtHome req) s)) ∧
      (core.toNat ≤ 287 → homeEntry s b.core b.ctx key = none → keeps 2 (exec (.memRequestAtHome req) s)) ∧
      (∀ k, core.toNat ≤ 287 → homeEntry s b.core b.ctx key = some k → core.toNat = b.core →
        keeps 0 (exec (.memRequestAtHome req) s)) ∧
      (∀ k e, core.toNat ≤ 287 → homeEntry s b.core b.ctx key = some k → core.toNat ≠ b.core →
        tabFind s.dirs (256 * b.core + k) = some e →
        ∃ t h, exec (.memRequestAtHome req) s = .next t ∧ tabFind t.accs access = some { x with dir := none } ∧ t.mem = s.mem ∧
          tabFind t.dirs (256 * b.core + k) = some { e with st := .leaving s.nextId } ∧
          tabFind t.handoffs s.nextId = some h ∧ h.src = b.core ∧ h.srcIx = k ∧ h.dst = core.toNat ∧ h.access = access ∧
          h.departed = false ∧ h.attached = [])))

/-- SOLICIT with a legal descriptor asks for a census of the key, CTRL, query and timeout it names; RESPOND sends its four fields into
its census once. LAUNCH reads, for each active lane that is no helper, the 64 pad bytes at the offset its source names, and sends them as
that lane's record to the hub; dst is pending in every active lane, and a helper lane, of which no request brings anything, receives 0
(R15, R166, R310, R311, R315, R336, R337). -/
def Obligations.SolicitAndLaunchIssues : Prop :=
  ∀ (s : State) (i : Issue) (d a b : BitVec 6) (f : Lane), issuing s = some i →
    let off := (sreg i.g b).toNat % 2 ^ 32 / 32 * 32
    let w (k : Nat) : W64 := BitVec.ofNat 64 (leAt (padBytes i.b off 32) (8 * k) 8)
    (i.b.responder = none → solicitOk (w 0) (w 2) = true →
      AwaitDone s i none (.scalar d.toNat) [] (some 0) (!padInside i.b off 32) (exec (.solicit d a b) s) ∧
      ∀ t, exec (.solicit d a b) s = .next t → ∃ k, t.asks = s.asks ++ [k] ∧ k.gang = i.cur.gang ∧ k.access = s.nextId ∧
        k.census.key = sreg i.g a ∧ k.census.ctrl = w 0 ∧ k.census.query = w 1 ∧ k.census.result = w 2 ∧ k.census.timeout = w 3) ∧
    (∀ r c, i.b.responder = some r → r.responded = false → tabFind s.censuses r.census = some c →
      ∃ t g e, exec (.respond a b) s = .next t ∧ tabFind t.gangs i.cur.gang = some g ∧ GoesTo i g (i.f.pc + 4) ∧
        g.sameIssue i.g = i.g ∧ tabFind t.blocks i.g.block = some { i.b with responder := some { r with responded := true } } ∧
        tabFind t.censuses r.census = some { c with pending := c.pending ++ [e], responded := c.responded + 1 } ∧
        e.fields = [(sreg i.g a).setWidth 32, (sreg i.g a >>> 32).setWidth 32, (sreg i.g b).setWidth 32,
                    (sreg i.g b >>> 32).setWidth 32] ∧ e.empty = false ∧ t.mem = s.mem) ∧
    (RegsOk i 6 2 f →
      let act := activeMask i f.guard f.neg
      let lanes := (List.range 32).filter fun l => (act &&& ~~~i.g.helper).getLsbD l
      let at' (l : Nat) : Nat := (srcVal i f.a.toNat 12 f.imm l).toNat % 2 ^ 32 / 64 * 64
      let rec64 (l : Nat) : Part := { lane := l, off := at' l, pos := 0, len := 64, data := [], cmp := [], res := [] }
      let w : Want := { path := none, sets := setsNone, order := .rlx, scope := 1, space := .p, kind := .read,
                        dest := .lane f.dst.toNat 4 false, mask := act, urgent := false }
      ∃ t g, exec (.launch f) s = .next t ∧ tabFind t.gangs i.cur.gang = some g ∧ GoesTo i g (i.f.pc + 12) ∧ g.seq = i.g.seq + 1 ∧
        t.disp = { s.disp with incoming := s.disp.incoming ++
          (lanes.map fun l => (i.cur.gang, s.nextId, l, f.mod.toNat % 64, [])) } ∧
        tabFind t.accs s.nextId = some { mkAccess i w with cmd := if lanes = [] then none else some 0 } ∧
        (∀ k, k ≠ s.nextId → tabFind t.accs k = tabFind s.accs k) ∧
        (∀ n l, lanes[n]? = some l → tabFind t.reqs (s.nextId + 1 + n) = some (mkReq i (some s.nextId) w 0 [rec64 l])) ∧
        (∀ k, k < s.nextId + 1 ∨ s.nextId + 1 + lanes.length ≤ k → tabFind t.reqs k = tabFind s.reqs k) ∧
        { reg := .v f.dst.toNat, due := .access s.nextId } ∈ g.pend ∧
        g.gstat = i.g.gstat ||| (if lostRead i 6 2 f then gstatLatch else 0) |||
          (if lanes.any fun l => !padInside i.b (at' l) 64 then gstatPadr else 0) ∧
        (∀ k, k ≠ i.cur.gang → tabFind t.gangs k = tabFind s.gangs k) ∧ LatchesAfter i g (fun _ => none) ∧
        { g.sameIssue i.g with gstat := i.g.gstat, latch := i.g.latch, latchDue := i.g.latchDue } = i.g ∧ t.mem = s.mem ∧
        t.blocks = s.blocks) ∧
    (∀ (l : Nat) (rs : List (Nat × Req)), (∀ e ∈ rs, ∀ p ∈ e.2.parts, p.lane ≠ l) → leNat (valueBytes rs l 4) = 0)

/-- Steps of a gang beside its instructions: an empty turn counts under one stall counter; PAUSE_EXPIRY ends a pause that has run
out; BARRIER_RELEASE sends every participant on behind its barrier. REGROUP_PROCEED compacts the selected lanes, with their registers
of the range and k1 to k7, into the first gangs, each then one fragment of its live lanes behind the REGROUP, and retires the others,
whose sticky flags go to the gang of their first moved lane; in a pair with more than 32 selected lanes both gangs go on unchanged;
where the words differ every participant takes the illegal-instruction trap, or halts where it cannot. Fetched words reach their
fragment; a woken monitor, or one idle for 4,096 cycles, reads again in whichever fragment waits. That differing words report step 9
is the model's reading (log 14) (R24, R34 to R36, R43, R92, R106, R197, R246). -/
def Obligations.GangSteps : Prop :=
  ∀ (s : State) (key : Nat) (g : Gang), tabFind s.gangs key = some g →
    (∀ c b, s.cur = some c → c.gang = key → tabFind s.blocks g.block = some b →
      ∃ t h r, exec .emptyTurn s = .next t ∧ tabFind t.gangs key = some h ∧
        (∀ k, tabGet h.stalls k 0 = if k = r then (if tabGet g.stalls r 0 = BitVec.allOnes 32 then BitVec.allOnes 32 else
          tabGet g.stalls r 0 + 1) else tabGet g.stalls k 0) ∧
        h.s = g.s ∧ h.v = g.v ∧ h.k = g.k ∧ h.latch = g.latch ∧ h.tpc = g.tpc ∧ t.mem = s.mem ∧
        (∀ k, k ≠ key → tabFind t.gangs k = tabFind s.gangs k)) ∧
    (g.pausing = true → g.pauseLeft = 0 →
      ∃ t, exec (.pauseExpiry key) s = .next t ∧ OnlyGang s t key ∧ tabFind t.gangs key = some { g with pausing := false }) ∧
    (∀ team keys, barrierReady s key = some (team, keys) → keys.Nodup →
      ∃ t, exec (.barrierRelease key) s = .next t ∧ t.mem = s.mem ∧
        ∀ k h, tabFind s.gangs k = some h → ∃ h', tabFind t.gangs k = some h' ∧ { h' with frags := h.frags } = h ∧
          ∀ e, tabFind h'.frags e = if k ∈ keys
            then (tabFind h.frags e).map fun f => { f with pc := f.pc + 4, wait := .running, words := [] }
            else tabFind h.frags e) ∧
    (∀ w ps, regroupReady s key = some (w, ps) → (ps.map (·.1)).Nodup → (ps.all fun e => regroupWord e.2 == some w) = true →
      (w.getLsbD 0 = true ∨ ps.length ≠ 2 ∨ (regroupSel ps (w.extractLsb' 1 3)).length ≤ 32) →
      let sel := regroupSel ps (w.extractLsb' 1 3)
      ∃ t, exec (.regroupProceed key) s = .next t ∧ t.mem = s.mem ∧
        ∀ n e, ps[n]? = some e → ∃ h, tabFind t.gangs e.1 = some h ∧
          let left := sel.length - 32 * n
          if left = 0 then h.retired = true ∧ h.frags = [] ∧ h.live = 0
          else h.retired = e.2.retired ∧ h.live = maskOf (fun l => decide (l < left)) ∧ h.joins = [] ∧ h.s = e.2.s ∧
            h.fpctl = e.2.fpctl ∧ h.latch = [] ∧
            (∀ at' f, e.2.frags = [(at', f)] →
              h.frags = [(at', { f with pc := f.pc + 4, mask := h.live, link := none, wait := .running, words := [] })]) ∧
            (∀ m p l src, m < 32 → sel[32 * n + m]? = some (p, l) → (ps.map (·.2))[p]? = some src →
              (∀ b r, tabFind s.blocks g.block = some b → r < b.regs → (w.extractLsb' 13 9).toNat ≤ r → r ≤ (w.extractLsb' 4 9).toNat →
                vreg h r m = vreg src r l) ∧
              ∀ j : BitVec 3, j ≠ 0 → pred h j m = pred src j l) ∧
            h.gstat &&& ~~~0x7F = e.2.gstat &&& ~~~0x7F ∧
            (∀ (x : Nat) gone, ps[x]? = some gone → sel.length ≤ 32 * x →
              (match sel.findIdx? fun y => y.1 == x with | some j => j / 32 | none => 0) = n →
              gone.2.gstat &&& 0x7F &&& ~~~h.gstat = 0)) ∧
    (∀ w ps, regroupReady s key = some (w, ps) → (ps.map (·.1)).Nodup → (ps.all fun e => regroupWord e.2 == some w) = true →
      w.getLsbD 0 = false → ps.length = 2 → 32 < (regroupSel ps (w.extractLsb' 1 3)).length →
      ∃ t, exec (.regroupProceed key) s = .next t ∧ { t with gangs := s.gangs } = s ∧
        ∀ e ∈ ps, tabFind t.gangs e.1 =
          some { e.2 with frags := tabMap e.2.frags fun f => { f with pc := f.pc + 4, wait := .running, words := [] } }) ∧
    (∀ w ps b c, regroupReady s key = some (w, ps) → (ps.map (·.1)).Nodup → (ps.all fun e => regroupWord e.2 == some w) = false →
      tabFind s.blocks g.block = some b → tabFind s.ctxs b.ctx = some c → (∀ e ∈ ps, tabFind s.gangs e.1 = some e.2) →
      ∃ t, exec (.regroupProceed key) s = .next t ∧ (c.trapv ≠ 0 → (∀ e ∈ ps, gstatTm e.2 = false) → t.mem = s.mem) ∧
        ∀ e ∈ ps, ∀ at' f v, e.2.frags = [(at', f)] → f.wait = .regroup v →
          ∃ h, tabFind t.gangs e.1 = some h ∧ h.s = e.2.s ∧ h.v = e.2.v ∧ h.k = e.2.k ∧ h.live = e.2.live ∧
            (gstatTm e.2 = false → c.trapv ≠ 0 →
              h.tpc = f.pc ∧ h.tstat = BitVec.ofNat 64 (0x901 + 65536 * at') ∧ h.tval = trapWords [v] ∧
              h.gstat = e.2.gstat ||| 0x100 ∧ h.frags = [(at', { f with pc := c.trapv, wait := .running, words := [] })]) ∧
            (gstatTm e.2 = true ∨ c.trapv = 0 →
              h.halted = true ∧ h.tpc = e.2.tpc ∧ h.tstat = e.2.tstat ∧ h.tval = e.2.tval ∧ h.gstat = e.2.gstat ∧
              h.frags = [(at', { f with wait := .running })])) ∧
    (∀ req r e f, tabFind s.reqs req = some r → fetchReady s r = true → reqGang r = some key → fetchNext g r = some (e, f) →
      ∃ t, exec (.instructionFetch req) s = .next t ∧ OnlyGang { s with reqs := tabDel s.reqs req } t key ∧
        tabFind t.gangs key = some (putFrag g e { f with words := f.words ++ r.parts.map fun p => BitVec.ofNat 32 (leNat p.res) })) ∧
    (∀ b m, tabFind s.blocks g.block = some b → g.monitor = some m → g.woken = true →
      ∃ t h, exec (.monitorWake key) s = .next t ∧ tabFind t.gangs key = some h ∧ h.woken = false ∧ h.s = g.s ∧ h.v = g.v ∧
        t.mem = s.mem ∧ ∀ e f sd x c, tabFind g.frags e = some f → f.wait = .mwaitvIdle sd x c →
          ∃ id, s.nextId ≤ id ∧ tabFind h.frags e = some { f with wait := .mwaitvRead sd x id }) ∧
    (∀ b m, tabFind s.blocks g.block = some b → g.monitor = some m →
      ∃ t h, exec (.mwaitvReread key) s = .next t ∧ tabFind t.gangs key = some h ∧ h.s = g.s ∧ h.v = g.v ∧ t.mem = s.mem ∧
        ((g.frags.map (·.1)).Nodup → ∀ e f sd x c, tabFind g.frags e = some f → f.wait = .mwaitvIdle sd x c →
          (c + 4096 ≤ s.cycle → ∃ id, s.nextId ≤ id ∧ tabFind h.frags e = some { f with wait := .mwaitvRead sd x id }) ∧
          (s.cycle < c + 4096 → tabFind h.frags e = some f)) ∧
        ((∀ y ∈ g.frags, ∀ sd x c, y.2.wait = .mwaitvIdle sd x c → s.cycle < c + 4096) → t = s))

/-- TRANSLATION_WALK gives a request the translation of its line and sends it into the path, or parks it under the first failing
cause; a cache operation whose line does not translate is over. A walk reads the entry of each level in the table that the entry before
names, from the root; an entry that is not valid or is malformed parks the request as NOTMAPPED, a leaf of another world as WORLD, a leaf
without a needed permission as PERMISSION, and any other leaf gives its frame with the address's place in the page. ACCESS_COMPLETE writes
the value of an access to its destination, in every width, sign-extended where it is narrow and signed, or its status; it ends the wait
for it, lets an MWAITV go on or wait for a write, and lowers its path counter once its path's order allows (R165, R173, R174, R176, R188,
R193, R197, R198, R206, R230). -/
def Obligations.TranslationAndCompletion : Prop :=
  ∀ (s : State) (req : Nat) (r : Req), tabFind s.reqs req = some r →
    (walkReady s req r = true → chainBehind s req r = none → walkersShut s r = false → r.kind ≠ .pref → walkHeld s req r = none →
      r.ctx ≠ physCtx →
      let enters (pa : Nat) (l : Leaf) : Prop :=
        ∃ t q, exec (.translationWalk req) s = .next t ∧ tabFind t.reqs req = some q ∧ q.pa = pa ∧ q.leaf = l ∧
          q.stage ≠ .walk ∧ q.parts = r.parts ∧ q.entered = s.nextId ∧ (q.stage ≠ .spill → t.mem = s.mem) ∧ t.gangs = s.gangs ∧
          t.accs = s.accs ∧ (∀ k q, k ≠ req → tabFind s.reqs k = some q → q.ctx ≠ physCtx → tabFind t.reqs k = some q)
      let parks (c : Cause) : Prop :=
        ∃ t q sp at', exec (.translationWalk req) s = .next t ∧ tabFind t.reqs req = some q ∧
          q = { r with stage := .parked c s.parks.nextSeq none sp, accepted := false, storeWait := false, spillAt := at' } ∧
          (sp = false → MemKept s t) ∧ t.accs = s.accs
      let misses (c : Cause) : Prop :=
        (isCmo r.kind = false → parkCount s (parkDie r) false < 4096 → parks c) ∧
        (isCmo r.kind = true → r.access.isSome →
          ∃ t, exec (.translationWalk req) s = .next t ∧ tabFind t.reqs req = some { r with stage := .done } ∧ t.mem = s.mem ∧
            t.accs = s.accs)
      (∀ pa l s1, translate s (walkUnit req) r.core r.ctx r.world r.asid r.kind r.va = (.ok pa l, s1) → enters pa l) ∧
      (∀ c s1, translate s (walkUnit req) r.core r.ctx r.world r.asid r.kind r.va = (.fail c, s1) → misses c ∧
        (isCmo r.kind = false → parkTakes (physEnd s1 (walkUnit req)) (parkDie r) = true → parks c)) ∧
      (∀ k : Nat, k < 7 → r.va.getLsbD (57 + k) ≠ r.va.getLsbD 56 → misses .notMapped) ∧
      (∀ (n : Nat) (table : Nat → Nat) (c : Ctx), (∀ k : Nat, k < 7 → r.va.getLsbD (57 + k) = r.va.getLsbD 56) →
        (288 ≤ r.core ∨ tlbLookup s r.core r.world r.asid r.va = none) → tabFind s.ctxs r.ctx = some c →
        let index (k : Nat) : Nat := r.va.toNat / [2 ^ 48, 2 ^ 39, 2 ^ 30, 2 ^ 21, 2 ^ 16].getD k 1 % [512, 512, 512, 512, 32].getD k 1
        let word (k j : Nat) : W64 :=
          BitVec.ofNat 64 (leNat (physReadOf s (walkUnit req) (table k + 16 * index k + 8 * j) 8))
        let kind (k : Nat) : Nat := wbits (word k 0) 5 4
        let frame (k : Nat) : Nat := wbits (word k 1) 55 0
        let pointer (k : Nat) : Prop := kind k = 0 ∧ wbits (word k 0) 15 6 = 0 ∧ wbits (word k 0) 31 16 = 0 ∧
          wbits (word k 1) 63 56 = 0 ∧ k < 4 ∧ frame k % [8192, 8192, 8192, 512].getD k 1 = 0
        let page (k : Nat) : Nat := [2 ^ 30, 2 ^ 21, 2 ^ 16].getD (k - 2) 1
        let frameExists (pa : Nat) : Prop := if inTier pa = true then (word n 0).getLsbD 12 = true
          else (word n 0).getLsbD 12 = false ∧ paDevice pa < 4608 ∧ paLocal pa < 720 * 2 ^ 30
        let leaf (k : Nat) : Prop := (k = 2 ∧ kind k = 3 ∨ k = 3 ∧ kind k = 2 ∨ k = 4 ∧ kind k = 1) ∧ wbits (word k 0) 15 13 = 0 ∧
          wbits (word k 0) 7 6 ≠ 3 ∧ wbits (word k 1) 63 56 = 0 ∧ frame k % page k = 0 ∧ frameExists (frame k)
        let needs : Prop := match r.kind with
          | .read | .pref | .copyRead | .fill => (word n 0).getLsbD 1 = true
          | .write | .copyWrite => (word n 0).getLsbD 2 = true
          | .rmw .. | .cas | .barrier .. => (word n 0).getLsbD 1 = true ∧ (word n 0).getLsbD 2 = true
          | .fetch .. => (word n 0).getLsbD 3 = true
          | .cmo _ => True
        n < 5 → table 0 = c.root → (∀ k < n, (word k 0).getLsbD 0 = true ∧ pointer k ∧ table (k + 1) = frame k) →
        ((word n 0).getLsbD 0 = false → misses .notMapped) ∧
        ((word n 0).getLsbD 0 = true → ¬pointer n → ¬leaf n → misses .notMapped) ∧
        ((word n 0).getLsbD 0 = true → leaf n → wbits (word n 0) 31 16 ≠ r.world.toNat → misses .world) ∧
        ((word n 0).getLsbD 0 = true → leaf n → wbits (word n 0) 31 16 = r.world.toNat → ¬needs → misses .permission) ∧
        ((word n 0).getLsbD 0 = true → leaf n → wbits (word n 0) 31 16 = r.world.toNat → needs →
          enters (frame n + r.va.toNat % page n)
            { basin := wbits (word n 0) 7 6, first := (word n 0).getLsbD 8, dom := wbits (word n 0) 11 9,
              tier := (word n 0).getLsbD 12, w := (word n 0).getLsbD 2, size := page n }))) ∧
    (∀ id a g, tabFind s.accs id = some a → tabFind s.gangs a.gang = some g → routeOf s a = .resident →
      accMoves s id a = true → a.landed = false →
      let bytes (l n : Nat) : Nat := leNat (valueBytes (accReqs s id) l n)
      ∃ t h, exec (.accessComplete id) s = .next t ∧ tabFind t.gangs a.gang = some h ∧ t.mem = s.mem ∧
        (∀ p ∈ h.pend, p.due ≠ .access id) ∧
        (accFree a && pathFirst s id a → tabFind t.accs id = none ∧
          ∀ p, pathCount h p = if a.path = some p then pathCount g p - 1 else pathCount g p) ∧
        (¬(accFree a && pathFirst s id a) → tabFind t.accs id = some { a with landed := true } ∧ h.paths = g.paths) ∧
        (∀ n, a.dest = .scalar n → n < 64 → h.v = g.v ∧ h.k = g.k ∧ ∀ m : BitVec 6, sreg h m =
          if m = BitVec.ofNat 6 n ∧ m ≠ 0 then (match a.status with | e :: _ => e.2 | [] => BitVec.ofNat 64 (bytes 0 8))
          else sreg g m) ∧
        (∀ n w sg, a.dest = .lane n w sg → w ∈ [1, 2, 4, 8, 16] → h.s = g.s ∧ h.k = g.k ∧ ∀ m l, l < 32 →
          let x : Nat := match a.status.find? fun e => e.1 == l with
            | some e => e.2.toNat % 2 ^ (8 * w)
            | none => bytes l w
          vreg h m l = if n ≤ m ∧ m < n + max 1 (w / 4) ∧ a.mask.getLsbD l = true
            then (if w < 4 ∧ sg = true then (BitVec.ofNat (8 * w) x).signExtend 32 else BitVec.ofNat 32 (x / 2 ^ (32 * (m - n))))
            else vreg g m l) ∧
        (∀ k, a.dest = .pred k → k < 8 → h.s = g.s ∧ h.v = g.v ∧ ∀ n l, l < 32 → pred h n l =
          if n = BitVec.ofNat 3 k ∧ n ≠ 0 ∧ a.mask.getLsbD l = true then (bytes 0 4).testBit l else pred g n l) ∧
        (∀ e f sd v x, a.dest = .monitor e → tabFind g.frags e = some f → f.wait = .mwaitvRead sd v x → h.v = g.v ∧ h.k = g.k ∧
          ((BitVec.ofNat 64 (bytes 0 8) - v).toNat < 2 ^ 63 →
            tabFind h.frags e = some { f with wait := .running, pc := f.pc + 4, words := [] } ∧
            ∀ m, sreg h m = if m = sd ∧ m ≠ 0 then BitVec.ofNat 64 (bytes 0 8) else sreg g m) ∧
          (2 ^ 63 ≤ (BitVec.ofNat 64 (bytes 0 8) - v).toNat →
            tabFind h.frags e = some { f with wait := .mwaitvIdle sd v s.cycle } ∧ h.s = g.s)) ∧
        (a.dest = .none → h.s = g.s ∧ h.v = g.v ∧ h.k = g.k))

/-- Accesses performed at their home. A write changes exactly its bytes of the line in its home slice and no other line; a read that
no L1 may serve brings the line's bytes; an atomic brings the old bytes and leaves its operation's result in them, compare and swap
only where they equal the compared ones. A request to a pad does the same with the pad's bytes, and changes no byte outside its own
(R166, R170, R171, R189, R191, R206, R355). -/
def Obligations.HomeAccesses : Prop :=
  let newValue (op : RmwOp) (ty n old v : Nat) : Nat :=
    let x (y : Nat) : Int := if ty = 1 ∨ ty = 3 then (BitVec.ofNat (8 * n) y).toInt else y
    match op with
    | .add => if ty = 4 then (faddBits f32 1 (fval f32 old) (fval f32 v)).1 else (old + v) % 2 ^ (8 * n)
    | .min => if x v < x old then v else old
    | .max => if x old < x v then v else old
    | .and => old &&& v
    | .or => old ||| v
    | .xor => old ^^^ v
    | .exch => v
  (∀ (s : State) (req : Nat) (r : Req) (p : Part) (c : CacheLine), tabFind s.reqs req = some r → homeReady s req r = true →
    translated r.space = true → r.cmd = none → r.parts = [p] → p.unit = 0 → p.off + p.len ≤ 64 → chainBehind s req r = none →
    isRemote s r.pa = false → extentOf s r.pa = none → granuleMoving s r.pa = false → writeHeld s r = false →
    r.leaf.first = false → splitHolds s req r = false → ownerAllows s r = true → homeOf s r.pa r.leaf r.core = r.slice →
    tabFind s.caches.l2 (lineKey r.slice r.pa) = some c → c.poison = false → r.access.isSome →
    (∀ a, r.access = some a → ∃ x, tabFind s.accs a = some x ∧ x.dir = none) →
    let old := (List.range p.len).map fun k => lineByte c.data (p.off + k)
    let leaves (res bs : List Byte) (stored : Prop) : Prop :=
      ∃ t q d, exec (.memRequestAtHome req) s = .next t ∧ tabFind t.reqs req = some q ∧ q.stage = .done ∧
        q.parts = [{ p with res := res }] ∧ tabFind t.caches.l2 (lineKey r.slice r.pa) = some d ∧ t.mem = s.mem ∧
        t.caches.basin = s.caches.basin ∧ (∀ k, k ≠ lineKey r.slice r.pa → tabFind t.caches.l2 k = tabFind s.caches.l2 k) ∧
        (∀ k, k < 64 → lineByte d.data k =
          if p.off ≤ k ∧ k < p.off + p.len then bs.getD (k - p.off) 0 else lineByte c.data k) ∧
        (stored → p.len ≠ 0 → d.dirty = true)
    (r.kind = .write → p.data.length = p.len → leaves p.res p.data True) ∧
    (r.kind = .read → l1May r = false →
      ∃ t q, exec (.memRequestAtHome req) s = .next t ∧ tabFind t.reqs req = some q ∧ q.stage = .done ∧
        q.parts = [{ p with res := old }] ∧ t.mem = s.mem ∧ t.caches.l2 = s.caches.l2 ∧ t.caches.basin = s.caches.basin) ∧
    (∀ op ty, r.kind = .rmw op ty → p.data.length = p.len →
      leaves old (leBytes p.len (newValue op ty p.len (leNat old) (leNat p.data))) True) ∧
    (r.kind = .cas → p.data.length = p.len → leaves old (if old = p.cmp then p.data else old) (old = p.cmp))) ∧
  (∀ (s : State) (req uid k : Nat) (r : Req) (p : Part) (b : Block), tabFind s.reqs req = some r → homeReady s req r = true →
    r.space = .p → r.agent = .gang (32 * uid + k) → k < 32 → r.cmd = none → r.parts = [p] → tabFind s.blocks uid = some b →
    padInside b p.off p.len = true → p.off + p.len ≤ 2 ^ 32 → p.len ≤ b.padSize → b.padSize ≤ 2 ^ 20 → r.access.isSome →
    (∀ a, r.access = some a → ∃ x, tabFind s.accs a = some x ∧ x.dir = none) →
    let old := padBytes b p.off p.len
    let leaves (res bs : List Byte) : Prop :=
      ∃ t q c, exec (.memRequestAtHome req) s = .next t ∧ tabFind t.reqs req = some q ∧ q.stage = .done ∧
        q.parts = [{ p with res := res }] ∧ tabFind t.blocks uid = some c ∧ { c with pad := b.pad } = b ∧ t.mem = s.mem ∧
        (∀ j, j < p.len → padByte c (p.off + j) = bs.getD j 0) ∧
        (∀ o, (∀ j, j < p.len → padByteIx b o ≠ padByteIx b (p.off + j)) → padByte c o = padByte b o) ∧
        (∀ u, u ≠ uid → tabFind t.blocks u = tabFind s.blocks u)
    (r.kind = .write → p.data.length = p.len → leaves p.res p.data) ∧
    (r.kind = .read → leaves old old) ∧
    (∀ op ty, r.kind = .rmw op ty → p.data.length = p.len →
      leaves old (leBytes p.len (newValue op ty p.len (leNat old) (leNat p.data)))) ∧
    (r.kind = .cas → p.data.length = p.len → leaves old (if old = p.cmp then p.data else old)))

/-- Steps of the memory system below the homes and beside them: a controller brings a line to its home slice, a basin window ends, the
lower tier answers, answers with bytes whose seal fails, or fails, spilled requests return, a replayed request goes to its new home, a
park record is written to its ring, and a late completion lands in the saved gang (R233 to R235, R253, R254, R344, R351, R352, R354,
R359, R361, R371). -/
def Obligations.MemorySystemSteps : Prop :=
  ∀ (s : State),
    let room (n : Nat) : Prop := (s.caches.l2.filter fun e => e.1 / 2 ^ 50 == n).length < sliceLines s n
    (∀ st ch id r, ctrlNext s st ch = some (id, r) → windowFull s r = false → unitDead s 14 st = false → room r.slice →
      ∃ t c, exec (.controllerService st ch) s = .next t ∧ tabFind t.caches.l2 (lineKey r.slice r.pa) = some c ∧
        (tabFind s.caches.l2 (lineKey r.slice r.pa) = none → (c.data, c.poison) = backLine s r.pa ∧ c.dirty = false) ∧
        (∀ d, tabFind s.caches.l2 (lineKey r.slice r.pa) = some d → c = d) ∧
        ((tabFind s.caches.basin (backAddr s r.pa / 64)).isSome = true ∨ 1 < r.leaf.basin → t.mem = s.mem) ∧
        (∀ k, k ≠ lineKey r.slice r.pa → tabFind t.caches.l2 k = tabFind s.caches.l2 k) ∧
        (∀ k q, tabFind s.reqs k = some q → tabFind t.reqs k = some (if q.stage = .ctrl ∧ q.pa = r.pa ∧ q.slice = r.slice
          then { q with stage := .home } else q))) ∧
    (∀ st bank, basinWindow s st ≤ bankMisses s st bank →
      ∃ t, exec (.basinWindowEnd st bank) s = .next t ∧ bankMisses t st bank = 0 ∧
        (∀ e ∈ t.caches.filter, e.1 / 16384 ≠ 8 * st + bank) ∧ t.caches.basin = s.caches.basin ∧ t.mem = s.mem) ∧
    (∀ req r, tabFind s.reqs req = some r → r.stage = .tier → granuleMoving s r.pa = false → writeHeld s r = false →
      extentOf s r.pa = none → backAddr s r.pa = r.pa → isCmo r.kind = false →
      (r.accepted = true ∨ homeOf s r.pa r.leaf r.core = r.slice) →
      (room r.slice →
        ∃ t c, exec (.lowerTierService req .intact) s = .next t ∧ tabFind t.reqs req = some { r with stage := .home } ∧
          tabFind t.caches.l2 (lineKey r.slice r.pa) = some c ∧ t.mem = s.mem ∧
          (tabFind s.caches.l2 (lineKey r.slice r.pa) = none → (c.data, c.poison) = backLine s r.pa ∧ c.dirty = false) ∧
          (∀ d, tabFind s.caches.l2 (lineKey r.slice r.pa) = some d → c = d)) ∧
      (∀ bs n, room r.slice → tabFind s.caches.basin (r.pa / 64) = none → tabFind s.caches.l2 (lineKey r.slice r.pa) = none →
        ¬(bs = tierSeal s r.pa ∧ n = tabGet s.tiers.counters (tierByte r.pa / 64) 0) →
        Config.openBytes (worldTierKey s (frameOwner s r.pa)) (tierIv s r.pa n) (tierAad s r.pa) bs = none →
        ∃ t c, exec (.lowerTierService req (.altered bs n)) s = .next t ∧ tabFind t.reqs req = some { r with stage := .home } ∧
          tabFind t.caches.l2 (lineKey r.slice r.pa) = some c ∧ c.poison = true) ∧
      (parkTakes s (parkDie r) = true → chainBehind s req r = none → ∃ t sp, exec (.lowerTierService req .failed) s = .next t ∧
        tabFind t.reqs req = some { r with stage := .parked .tierFail s.parks.nextSeq none sp, accepted := false, storeWait := false,
                                           spillAt := spillFree s (parkDie r) } ∧
        (sp = false → MemKept s t)) ∧
      (∀ q c, parkTakes s (parkDie r) = true → chainBehind s req r = some (q, c) →
        ∃ t sp, exec (.lowerTierService req .failed) s = .next t ∧ t.parks.records = s.parks.records ∧
          tabFind t.reqs req = some { r with stage := .parked c s.parks.nextSeq (some q) sp, accepted := false, storeWait := false,
                                             spillAt := spillFree s (parkDie r) })) ∧
    (∀ die slice id r, (firstIn (sliceReqs s (48 * die + slice) .spill) = some (id, r) ∨
        sliceReqs s (48 * die + slice) .spill = [] ∧ firstIn (sliceReqs s (48 * die + slice) .stopped) = some (id, r)) →
      tabFind s.reqs id = some r →
      ((queueReqs s (48 * die + slice)).length < max 1 Config.sliceQueueSize →
        ∃ t, exec (.spillFetch die slice) s = .next t ∧ { t with reqs := s.reqs } = s ∧
          tabFind t.reqs id = some { r with stage := .home, resent := false } ∧ ∀ k, k ≠ id → tabFind t.reqs k = tabFind s.reqs k) ∧
      (¬(queueReqs s (48 * die + slice)).length < max 1 Config.sliceQueueSize → exec (.spillFetch die slice) s = .next s)) ∧
    (∀ req r, tabFind s.reqs req = some r → r.stage = .replay →
      ∃ t q, exec (.portReplay req) s = .next t ∧ tabFind t.reqs req = some q ∧ q.slice = homeOf s r.pa r.leaf r.core ∧
        q.stage ≠ .replay ∧ q.parts = r.parts ∧ (q.stage ≠ .spill → t.mem = s.mem) ∧ t.gangs = s.gangs) ∧
    (∀ die ring x base size, nextRecord s die ring = some x → parkRoom s ring = some (base, size) →
      let pa := base + regField s (.pkringSeq ring) 31 0 % size * 64
      physSent s ringUnit pa (recordBytes s x (regField s (.pkringSeq ring) 31 0)) = true →
      (∀ k : Nat, k < 64 → isRemote s (pa + k) = false) →
      ∃ t, exec (.parkRecordWrite die ring) s = .next t ∧
        regField t (.pkringSeq ring) 31 0 = (regField s (.pkringSeq ring) 31 0 + 1) % 2 ^ 32 ∧
        physRead t pa 64 = recordBytes s x (regField s (.pkringSeq ring) 31 0)) ∧
    (∀ id a g b, tabFind s.accs id = some a → accMoves s id a = true → routeOf s a = .saved → tabFind s.savedGangs a.gang = some g →
      tabFind s.savedBlocks g.block = some b → lateReady s b g.block = true →
      a.landed = false → a.status = [] →
      ∃ t h, exec (.lateCompletionDelivery id) s = .next t ∧ tabFind t.savedGangs a.gang = some h ∧
        (∀ n, a.dest = .scalar n → sreg h (BitVec.ofNat 6 n) =
          if BitVec.ofNat 6 n = 0 then 0 else BitVec.ofNat 64 (leNat (valueBytes (accReqs s id) 0 8))) ∧
        (a.dest = .none → h.s = g.s ∧ h.v = g.v ∧ h.k = g.k))

/-- MATRIX_EXECUTE takes the head of a core's queue: what each operation leaves in its tile, its kind and the pad, and nothing else
changes but sticky flags of gangs: OF of the issuing gang when an integer sum left its range, PADR of it when a byte lies outside. MST stores
the tile's words and MOUT its converted elements at the offset rounded down to 16. An integer sum of products that stays in its range is
exact (R129, R131, R166, R284, R287, R291 to R296). -/
def Obligations.MatrixEffects : Prop :=
  ∀ (s : State) (core : Nat) (e : MatEntry) (rest : List MatEntry) (b : Block) (g : Gang),
    matQueue s core = e :: rest → tabFind s.blocks e.block = some b → tabFind s.gangs e.gang = some g →
    ∃ t c, exec (.matrixExecute core) s = .next t ∧ matQueue t core = rest ∧ tabFind t.blocks e.block = some c ∧ t.mem = s.mem ∧
      t.caches = s.caches ∧ t.accs = s.accs ∧ (∀ k, k ≠ e.block → tabFind t.blocks k = tabFind s.blocks k) ∧
      { c with tiles := b.tiles, kinds := b.kinds, pad := b.pad } = b ∧
      { t with blocks := s.blocks, gangs := s.gangs, mq := s.mq, sys := s.sys } = s ∧ (∀ k, k ≠ core → matQueue t k = matQueue s k) ∧
      (∀ k h, tabFind s.gangs k = some h → ∃ h', tabFind t.gangs k = some h' ∧ { h' with gstat := h.gstat } = h ∧
        (∃ m : W64, h'.gstat = h.gstat ||| m ∧ m &&& 0x44 = m)) ∧
      (let out := (entryPad e).any fun x => !padInside b x.1 x.2
       let ofl := decide (e.op ≤ 2) && pairingS32 (e.f.mod.toNat % 16) (e.f.mod.toNat / 16 % 16) &&
         (List.range 4096).any fun j => (accumS32 (e.f.mod.toNat % 16) (e.f.mod.toNat / 16 % 16)
           (entryOps g b e) (j / 64) (j % 64) (tileWord b e.f.dst.toNat j)).2
       (e.op ≤ 6 → g.retired = false → ∃ h, tabFind t.gangs e.gang = some h ∧
         h.gstat = g.gstat ||| (if ofl then 0x4 else 0) ||| (if out then gstatPadr else 0)) ∧
       (e.op ≤ 6 → out = false → ofl = false → t.gangs = s.gangs ∧ t.sys = s.sys)) ∧
      (let stores (n : Nat) (bs : Nat → Byte) : Prop :=
         let p := e.x.toNat % 2 ^ 32 / 16 * 16
         (n ≤ padPower b.padSize → ∀ m, m < n → padByteIx b ((p + m) % 2 ^ 32) ≠ none → padByte c ((p + m) % 2 ^ 32) = bs m) ∧
         ∀ o, (∀ m, m < n → padByteIx b o ≠ padByteIx b ((p + m) % 2 ^ 32)) → padByte c o = padByte b o
       let word (j : Nat) : W32 := tileWord b e.f.dst.toNat j
       (e.op = 5 → stores 16384 fun m => BitVec.ofNat 8 ((word (m / 4)).toNat / 2 ^ (8 * (m % 4)))) ∧
       (e.op = 6 → e.f.mod.toNat % 16 ≤ 2 →
         let fmt := e.f.mod.toNat % 16
         let w := if fmt = 2 then 1 else 2
         let x (j : Nat) : FVal := if b.kinds.getLsbD e.f.dst.toNat then valOfInt (word j).toInt 0 false else fval f32 (word j).toNat
         let y (j : Nat) : FVal := if e.f.mod.getLsbD 4 then mulAll (x j) (fval f32 (e.y.toNat % 2 ^ 32)) else x j
         let code (j : Nat) : Nat := if fmt = 0 then (roundVal bf16 1 (y j)).1 else if fmt = 1 then (roundVal f16 1 (y j)).1
           else (roundSat e4m3 1 (y j)).1
         stores (4096 * w) fun m => BitVec.ofNat 8 (code (m / w) / 2 ^ (8 * (m % w))))) ∧
      (e.op = 3 ∨ e.op = 4 → c.kinds = b.kinds) ∧
      (e.op ≤ 2 → pairingS32 (e.f.mod.toNat % 16) (e.f.mod.toNat / 16 % 16) = true → ∀ j, j < 4096 →
        let o := entryOps g b e
        let fa := e.f.mod.toNat % 16
        let fb := e.f.mod.toNat / 16 % 16
        let half := fa == 6 || fb == 6
        let sum (n : Nat) : Int := (tileWord b e.f.dst.toNat j).toInt + ((List.range n).map fun k => if o.zero (j / 64) k then 0
          else elemInt fa (o.a (j / 64) k) half * elemInt fb (o.b (j % 64) k) half).sum
        (∀ n, n ≤ matDepth fa / matChunk fa fb → -(2 ^ 31) ≤ sum (n * matChunk fa fb) ∧ sum (n * matChunk fa fb) ≤ 2 ^ 31 - 1) →
        (tileWord c e.f.dst.toNat j).toInt = sum (matDepth fa)) ∧
      (∀ n j, n ≠ e.f.dst.toNat → j < 4096 → tileWord c n j = tileWord b n j) ∧
      (e.op = 3 → ∀ j, j < 4096 → tileWord c e.f.dst.toNat j = 0) ∧
      (e.op = 4 → ∀ j, j < 4096 → tileWord c e.f.dst.toNat j =
        BitVec.ofNat 32 (leNat (padBytes b ((e.x.toNat % 2 ^ 32 / 16 * 16 + 4 * j) % 2 ^ 32) 4))) ∧
      (e.op = 5 ∨ e.op = 6 → c.tiles = b.tiles ∧ c.kinds = b.kinds) ∧ (e.op ≤ 4 → c.pad = b.pad) ∧
      (e.op ≤ 2 → pairingS32 (e.f.mod.toNat % 16) (e.f.mod.toNat / 16 % 16) = true →
        c.kinds = b.kinds ||| BitVec.ofNat 16 (2 ^ e.f.dst.toNat) ∧
        ∀ j, j < 4096 → tileWord c e.f.dst.toNat j = (accumS32 (e.f.mod.toNat % 16) (e.f.mod.toNat / 16 % 16)
          (entryOps g b e) (j / 64) (j % 64) (tileWord b e.f.dst.toNat j)).1) ∧
      (e.op ≤ 2 → pairingS32 (e.f.mod.toNat % 16) (e.f.mod.toNat / 16 % 16) = false →
        c.kinds = b.kinds &&& ~~~(BitVec.ofNat 16 (2 ^ e.f.dst.toNat)) ∧
        ∀ j, j < 4096 → tileWord c e.f.dst.toNat j = accumF32 (e.f.mod.toNat % 16) (e.f.mod.toNat / 16 % 16)
          (entryOps g b e) (j / 64) (j % 64) (tileWord b e.f.dst.toNat j))

/-- Copies, group loads and pushes after their issue. A copy whose bytes are all performed counts its barrier and, without stamp and
follow-on, completes and leaves the queue; its stamp is an addition of 1 as a release at sys; a follow-on enters the matrix queue. A
round whose timer has run out triggers; a fill lands in its member's pad and is counted, then completes and serves its member; a push
counts its source, is delivered to each receiver, and the last acknowledgement completes it. That a member is served when its own
fill completes is the model's choice (log 19) (R267, R269 to R271, R278 to R280). -/
def Obligations.EngineSteps : Prop :=
  (∀ (s : State) (id : Nat) (c : Cmd), tabFind s.cmds id = some c →
    let still (u : Nat) : Prop := padPlace s u = .core ∨ padPlace s u = .gone
    let counted (n m : Nat) (u : State) : State := match c.bar with
      | some o => countBarrier u c.block o n m
      | none => u
    let freed (t : State) : Prop := tabFind t.cmds id = none ∧
      ∀ a, tabFind s.accs c.access = some a → tabFind t.accs c.access = some { a with cmd := none }
    (payloadDone c = true → c.barDone = false → c.stamp = none → c.done = false → c.follow = none → still c.block →
      barClear s id c = true →
      ∃ t, exec (.copyComplete id) s = .next t ∧ freed t ∧ t.blocks = (counted c.total c.arr.toNat s).blocks ∧ t.mem = s.mem) ∧
    (∀ a, payloadDone c = true → c.barDone = true → c.done = false → c.stampDone = false → c.stamp = some a → stamping s id = false →
      followReady s id c = false → stampTurn s id c = true → (cmdOwner s c).isSome = true →
      ∃ t q, exec (.copyComplete id) s = .next t ∧ tabFind t.reqs s.nextId = some q ∧ q.kind = .rmw .add 2 ∧ q.order = .rel ∧
        q.scope = 5 ∧ q.va = lineAddr a ∧ q.cmd = some id ∧ t.cmds = s.cmds ∧ t.mem = s.mem) ∧
    (payloadDone c = true → c.barDone = true → c.done = false → c.stampDone = true → c.follow = none →
      ∃ t, exec (.copyComplete id) s = .next t ∧ freed t ∧ t.blocks = s.blocks ∧ t.reqs = s.reqs ∧ t.mem = s.mem) ∧
    (∀ ws ops batch f, payloadDone c = true → c.barDone = true → c.done = true → c.follow = some (ws, ops, batch) →
      followReady s id c = true → decodeWords (ws.getD 0 0) (ws.getD 1 0) (ws.getD 2 0) = .instr (.mmat f) →
      ∃ t e, exec (.copyComplete id) s = .next t ∧ tabFind t.cmds id = none ∧ matQueue t c.core = matQueue s c.core ++ [e] ∧
        e.gang = c.gang ∧ e.block = c.block ∧ e.batch = batch ∧ e.op = 1 ∧ e.f = f ∧ t.blocks = s.blocks ∧ t.mem = s.mem) ∧
    (c.kind = .gput → pushRead c = true → c.barDone = false → still c.block → barClear s id c = true → c.follow = none →
      ∃ t, exec (.copyComplete id) s = .next t ∧ t.blocks = (counted c.total 0 s).blocks ∧ t.mem = s.mem ∧
        tabFind t.cmds id = if c.waiting = [] ∧ c.acks = [] then none else some { c with barDone := true }) ∧
    (fillRead c = true → c.barDone = false → still c.block → barClear s id c = true →
      ∃ t, exec (.groupFillComplete id) s = .next t ∧ t.blocks = (counted c.total c.arr.toNat (fillPad s c)).blocks ∧
        tabFind t.cmds id = some { c with barDone := true, stampDone := c.stamp.isNone } ∧ t.mem = s.mem) ∧
    (fillRead c = true → c.barDone = true → c.stamp = none ∨ c.stampDone = true → c.follow = none →
      (tabFind s.groups c.group = none →
        ∃ t, exec (.groupFillComplete id) s = .next t ∧ freed t ∧ t.blocks = s.blocks ∧ t.mem = s.mem) ∧
      (∀ g r, tabFind s.groups c.group = some g → g.round = some r → r.asks.contains id = true → g.members ≠ [] →
        (r.triggered && g.members.all fun m => (r.served ++ [c.block]).contains m) = false →
        ∃ t, exec (.groupFillComplete id) s = .next t ∧ freed t ∧ t.blocks = s.blocks ∧ t.mem = s.mem ∧
          tabFind t.groups c.group = some { g with round := some { r with served := r.served ++ [c.block] } })) ∧
    (∀ u, pushRead c = true → c.waiting.contains u = true → still u →
      ∃ t, exec (.gputDelivery id u) s = .next t ∧ t.blocks = (countBarrier (padWrite s u (c.dst.toNat % 2 ^ 32)
          ((List.range c.total).map fun k => tabGet c.buf k 0)) u c.rbar c.total 0).blocks ∧
        tabFind t.cmds id = some { c with waiting := c.waiting.erase u, acks := c.acks ++ [u] } ∧ t.mem = s.mem) ∧
    (∀ u, c.acks.contains u = true → still c.block → barClear s id c = true → c.follow = none →
      ∃ t, exec (.gputAck id u) s = .next t ∧ t.mem = s.mem ∧ t.blocks = (counted 0 1 s).blocks ∧
        tabFind t.cmds id = if (pushRead c && c.barDone && c.waiting.isEmpty && (c.acks.erase u).isEmpty) = true then none
          else some { c with acks := c.acks.erase u })) ∧
  (∀ (s : State) (sector k : Nat) (g : Group) (r : Round), tabFind s.groups (64 * sector + k) = some g → g.round = some r →
    r.timer = some 0 → r.triggered = false →
    ∃ t h q, exec (.groupTimerExpiry sector k) s = .next t ∧ tabFind t.groups (64 * sector + k) = some h ∧ h.round = some q ∧
      q.triggered = true ∧ q.timer = none ∧ q.asks = r.asks ∧ t.mem = s.mem ∧ t.gangs = s.gangs)

/-- Handoffs of directory entries: the departure makes the destination's entry, the install makes it HOME with its waiting matches
queued, the source frees its entry, and a destination without a free entry makes the source HOME again. That the reservation of the
destination's entry is a first part of DIR_DEPARTURE, and takes the lowest free entry, is the model's choice, and so is what the order of
one handoff behind another on a link asks (log 21) (R307, R312, R314). -/
def Obligations.HandoffSteps : Prop :=
  ∀ (s : State) (n : Nat) (h : Handoff) (e : DirEntry), tabFind s.handoffs n = some h →
    tabFind s.dirs (256 * h.src + h.srcIx) = some e →
    (∀ k, h.dstIx = none → askBehind s n h = false → freeDirEntry s h.dst = some k →
      ∃ t, exec (.dirDeparture n) s = .next t ∧ tabFind t.dirs (256 * h.dst + k) = some { e with st := .arriving n } ∧
        tabFind t.handoffs n = some { h with dstIx := some k } ∧ t.mem = s.mem) ∧
    (∀ k, h.dstIx = some k → h.departed = false → prevOpen s h = false →
      ∃ t b, exec (.dirDeparture n) s = .next t ∧
        tabFind t.handoffs n = some { h with departed := true, behind := b, left := s.nextId } ∧
        t.dirs = s.dirs ∧ t.mem = s.mem) ∧
    (∀ k x, h.dstIx = some k → h.departed = true → h.installed = false → reachFirst s h h.dst = false → downBehind s h h.dst = false →
      tabFind s.dirs (256 * h.dst + k) = some x →
      ∃ t, exec (.dirInstall n) s = .next t ∧ tabFind t.dirs (256 * h.dst + k) = some { x with st := .home } ∧
        (h.freed = false → tabFind t.handoffs n = some { h with installed := true, attached := [], told := some s.nextId }) ∧
        (h.freed = true → tabFind t.handoffs n = none) ∧
        (∀ a, tabFind s.accs h.access = some a → tabFind t.accs h.access = some { a with status := [(0, 0)] }) ∧ t.mem = s.mem) ∧
    (h.departed = true → h.freed = false → reachFirst s h h.src = false → downBehind s h h.src = false →
      ∃ t, exec (.departureAtSource n) s = .next t ∧ tabFind t.dirs (256 * h.src + h.srcIx) = none ∧
        (h.installed = false → tabFind t.handoffs n = some { h with freed := true }) ∧
        (h.installed = true → tabFind t.handoffs n = none) ∧ t.mem = s.mem) ∧
    (h.dstIx = none → askBehind s n h = false → freeDirEntry s h.dst = none →
      ∃ t, exec (.handoffFailure n) s = .next t ∧ tabFind t.dirs (256 * h.src + h.srcIx) = some { e with st := .home } ∧
        tabFind t.handoffs n = none ∧
        (∀ a, tabFind s.accs h.access = some a → tabFind t.accs h.access = some { a with status := [(0, 1)] }) ∧ t.mem = s.mem)

/-- A census: it takes an id and starts to reach the cores of its scope, each core reports the matches of its directory, a match
starts a responder of one gang with its key, handle, census and query, responses combine field by field, the result is written and
the census is complete, and a late one reports once. That responses are combined directly at the root, and that the order of handoffs
and broadcasts along a link is kept by lists of censuses, is the model's choice (log 21) (R302, R306, R311 to R313, R316, R317,
R319). -/
def Obligations.CensusSteps : Prop :=
  ∀ (s : State),
    (∀ a id, readyAsk s = some a → freeCensus s = some id → s.censuses.length < 1024 →
      ∃ t, exec .solicitAtRoot s = .next t ∧
        tabFind t.censuses id = some { a.census with toReach := scopeCores a.census, order := s.nextId } ∧ t.asks = s.asks.erase a ∧ t.mem = s.mem ∧
        ∀ x, tabFind s.accs a.access = some x → tabFind t.accs a.access = some { x with status := [(0, BitVec.ofNat 64 id)] }) ∧
    (∀ id c core, tabFind s.censuses id = some c → canReport s id core = true →
      let es := (coreDir s core).filter fun e => e.2.key == c.key && e.2.ctx == c.ctx
      let m (e : Nat × DirEntry) (deferred : Bool) : Match :=
        { census := id, ctx := c.ctx, key := c.key, handle := e.2.handle, entry := e.2.entry, query := c.query, counted := core,
          deferred := deferred }
      let counts (e : Nat × DirEntry) : Bool := match e.2.st with
        | .home => true
        | .leaving h => (tabFind s.handoffs h).isSome
        | .arriving h => match tabFind s.handoffs h with
          | some x => x.departed && !x.behind.contains id
          | none => false
      let goes (e : Nat × DirEntry) : Option (Nat × Match) := match e.2.st with
        | .home => some (core, m e false)
        | .leaving h => match tabFind s.handoffs h with
          | some x => if x.installed then some (x.dst, m e true) else none
          | none => none
        | .arriving _ => none
      let joins (n : Nat) (x : Handoff) (e : Nat × DirEntry) : Option Match := match e.2.st with
        | .home => none
        | .leaving h => if h = n ∧ x.installed = false then some (m e true) else none
        | .arriving h => if h = n ∧ x.departed = true ∧ x.behind.contains id = false then some (m e false) else none
      ∃ t, exec (.coreReport id core) s = .next t ∧ t.dirs = s.dirs ∧ t.mem = s.mem ∧
        tabFind t.censuses id = some { c with toReach := c.toReach.erase core, reported := c.reported ++ [core],
                                              counted := c.counted + es.countP counts } ∧
        (ctxAway s c.ctx = false → t.deferred = s.deferred ∧ ∀ k, solicitQueue t k =
          solicitQueue s k ++ ((es.filterMap goes).filter fun x => x.1 == k).map (·.2)) ∧
        (ctxAway s c.ctx = true → t.solicits = s.solicits ∧ t.deferred = s.deferred ++ es.filterMap goes) ∧
        (∀ n x, tabFind s.handoffs n = some x →
          tabFind t.handoffs n = some { x with attached := x.attached ++ es.filterMap (joins n x) })) ∧
    (∀ core m r c k ix pl, solicitQueue s core = m :: r → tabFind s.censuses m.census = some c → tabFind s.ctxs m.ctx = some k →
      fitCore s core (responderNeed m) = some (ix, [pl]) → ctxAway s m.ctx = false → k.st ≠ .saving → k.st ≠ .cancelled →
      ctxBound s m.ctx k = true →
      ∃ t b, exec (.responderStart core) s = .next t ∧ tabFind t.blocks s.nextId = some b ∧ b.core = core ∧ b.gangs = 1 ∧
        b.ctx = m.ctx ∧ b.regs = 32 * ((m.entry >>> 60).toNat + 1) ∧
        b.responder = some { census := m.census, counted := m.counted, deferred := m.deferred, responded := false } ∧
        solicitQueue t core = r ∧ MemKept s t ∧
        ∃ g, tabFind t.gangs (32 * s.nextId) = some g ∧ g.block = s.nextId ∧ g.pipe = pl.1 ∧ g.slot = pl.2 ∧
          (∀ n : BitVec 6, sreg g n = if n = 1 then m.key else if n = 2 then m.handle else if n = 3 then BitVec.ofNat 64 m.census
            else if n = 4 then m.query else 0) ∧
          (∀ n l, vreg g n l = 0) ∧ (∀ n l, l < 32 → n ≠ 0 → pred g n l = false) ∧ g.live = BitVec.allOnes 32 ∧ g.helper = 0 ∧
          g.frags = [(0, { pc := m.entry &&& 0x00FFFFFFFFFFFFFC, mask := BitVec.allOnes 32, link := none, wait := .running,
                           words := [] })] ∧
          g.joins = [] ∧ g.latch = [] ∧ g.gstat = 0 ∧ g.gctl = 3 ∧ g.fpctl = 1 ∧ g.tstat = 0 ∧ g.tval = 0 ∧ g.tpc = 0 ∧
          g.contv = 0 ∧ g.cpc = 0 ∧ g.bn = 0 ∧ g.monitor = none ∧ (∀ p, pathCount g p = 0) ∧ ∀ n, tabGet g.stalls n 0 = 0) ∧
    (∀ id c n r, tabFind s.censuses id = some c → c.pending[n]? = some r → releaseDone s r.gang r.bound = true →
      ∃ t d, exec (.responseCombine id n) s = .next t ∧ tabFind t.censuses id = some d ∧ d.pending = c.pending.eraseIdx n ∧
        d.combined = c.combined + 1 ∧ (r.empty = true → d.fields = c.fields ∧ d.any = c.any) ∧
        (r.empty = false → d.any = true ∧ ∀ k, k < 4 → d.fields.getD k 0 =
          if k ≤ (c.ctrl >>> 2).toNat % 4 then
            (let u := c.fields.getD k 0
             let v := r.fields.getD k 0
             match (c.ctrl >>> (8 + 4 * k)).toNat % 8 with
             | 0 => u + v
             | 1 => if v.toInt < u.toInt then v else u
             | 2 => if u.toInt < v.toInt then v else u
             | 3 => u ||| v
             | 4 => if v = 0 then u else u + 1
             | _ => if c.any then u else v)
          else 0) ∧ t.mem = s.mem) ∧
    (∀ id c, tabFind s.censuses id = some c → c.complete = false → c.toReach = [] → c.combined = c.counted →
      (∀ k, unitReq s (0, id) = none → tabFind s.ctxs c.ctx = some k →
        ∃ t q, exec (.censusComplete id) s = .next t ∧ tabFind t.reqs s.nextId = some q ∧ q.kind = .write ∧ q.va = lineAddr c.result ∧
          (q.parts.map (·.data)) = [c.fields.flatMap fun w => leBytes 4 w.toNat] ∧ t.censuses = s.censuses ∧ t.mem = s.mem) ∧
      (∀ q r, unitReq s (0, id) = some (q, r) → r.stage = .done → c.orphan = false →
        ∃ t, exec (.censusComplete id) s = .next t ∧ tabFind t.censuses id = some { c with complete := true } ∧
          tabFind t.reqs q = none ∧ t.mem = s.mem)) ∧
    (∀ id c, tabFind s.censuses id = some c → censusLate s c = true →
      ∃ t, exec (.censusTimeout id) s = .next t ∧ tabFind t.censuses id = some { c with lateSent := true } ∧ MemKept s t ∧
        (c.ctrl.getLsbD 24 = true →
          tabGet t.events.seqs (sourceId 9 0).toNat 0 = tabGet s.events.seqs (sourceId 9 0).toNat 0 + 1) ∧
        (c.ctrl.getLsbD 24 = false → t.events = s.events))

/-- The dispatcher: records that LAUNCH sent enter their queue with a status each; a head record is taken as a launch, or refused with
LAUNCHREF that carries the queue, HEAD and the reason, HEAD passing it; a unit is placed, with every block of its team on its core in
rank order, its resources and its gangs at the entry with ARGS in s1; yield requests and parked contexts lead to saves; blocks and
launches retire. That a launch already taken whose context may no longer be placed is refused as its record would have been, with
reason 4, is the model's choice (log 24); so is that one step takes a record, or places a unit, as a whole (log 1) (R13, R16, R239, R324
to R332, R337, R389, R396). -/
def Obligations.DispatcherSteps : Prop :=
  ∀ (s : State) (q : Nat),
    let src := sourceId 1 0
    let mine := s.events.kept.filter fun e => e.source == src
    let refused (ring n head reason : Nat) (t : State) : Prop :=
      let payload := leBytes 4 n ++ leBytes 4 head ++ leBytes 1 reason
      tabGet t.events.seqs src.toNat 0 = tabGet s.events.seqs src.toNat 0 + 1 ∧
      (mine.length < 64 → (∃ e ∈ t.events.kept, e.source = src ∧ e.kind = 0x0001 ∧ e.ring = ring ∧ e.payload = payload) ∨
        mine = [] ∧ ∃ base size, eventRing s ring = some (base, size) ∧
          physRead t (base + regField s (.evringSeq ring) 31 0 % size * 64 + 20) 9 = payload)
    let passed (reason : Nat) (t : State) : Prop := refused (queueRing s q) q (queueHead s q) reason t ∧
      queueHead t q = (queueHead s q + 1) % 2 ^ 32 ∧ t.disp = s.disp ∧ HubKept 4096 s t
    (∀ acc a, nextLaunch s = some (acc, q) → queueRingOf s q = none → tabFind s.accs acc = some a →
      ∃ t, exec .launchEnqueue s = .next t ∧
        tabFind t.accs acc = some { a with status := (s.disp.incoming.filter fun e => e.2.1 == acc).map fun e => (e.2.2.1, 2) } ∧
        t.disp = { s.disp with incoming := s.disp.incoming.filter fun e => e.2.1 != acc } ∧ t.mem = s.mem) ∧
    (∀ acc a base size x, nextLaunch s = some (acc, q) → queueRingOf s q = some (base, size) →
      tabFind s.accs acc = some a → queueTakes s q a.ctx = true →
      hubReady s a.ctx .write (BitVec.ofNat 64 (base + 64 * (queueTail s q % size))) 64 = true →
      seqDiff (queueTail s q) (queueHead s q) ≠ size → (s.disp.incoming.filter fun e => e.2.1 == acc) = [x] →
      ∃ t, exec .launchEnqueue s = .next t ∧ tabFind t.accs acc = some { a with status := [(x.2.2.1, 0)] } ∧
        queueTail t q = (queueTail s q + 1) % 2 ^ 32 ∧ queueHead t q = queueHead s q ∧ HubKept 4096 s t) ∧
    (headWaits s q = true → ctxHeld s (queueCtx s q) = false → ctxUsable (refreshCtx s (queueCtx s q)) (queueCtx s q) = false →
      ∃ t, exec (.launchRecordTake q) s = .next t ∧ passed 4 t) ∧
    (let u := refreshCtx s (queueCtx s q)
     let r := hubRead u (queueCtx s q) (headVa u q) 64
     let v := hubTouch u (queueCtx s q) (headVa u q) 64
     let target : W64 := BitVec.ofNat 64 (leAt r 0 8)
     headWaits s q = true → ctxHeld s (queueCtx s q) = false → ctxUsable u (queueCtx s q) = true → hubReady u (queueCtx s q) .read (headVa u q) 64 = true →
     (recordFieldsOk r = false → ∃ t, exec (.launchRecordTake q) s = .next t ∧ passed 1 t) ∧
     (∀ k, recordFieldsOk r = true → leAt r 31 1 = 0 → hubReady v (queueCtx s q) .read target 32 = true →
      parseKernel (hubRead v (queueCtx s q) target 32) = k →
      (∀ k', k = some k' → refusal r k = none →
        ∃ t l, exec (.launchRecordTake q) s = .next t ∧ tabFind t.disp.launches s.disp.nextLaunch.toNat = some l ∧ l.queue = q ∧
          l.ctx = queueCtx s q ∧ l.slotSeq = queueHead s q ∧ l.entry = k'.entry ∧ l.args = BitVec.ofNat 64 (leAt r 8 8) ∧
          l.placed = 0 ∧ l.regs = k'.need.regs ∧ l.gangs = k'.need.gangs ∧ l.x = leAt r 16 4 ∧ l.y = leAt r 20 2 ∧ l.z = leAt r 22 2 ∧
          t.disp.nextLaunch ≠ 0 ∧ queueHead t q = queueHead s q ∧ HubKept 4096 s t) ∧
      (∀ why, refusal r k = some why → ∃ t, exec (.launchRecordTake q) s = .next t ∧ passed why t)) ∧
     (∀ k, (recordFieldsOk r = false ∨ k = none → refusal r k = some 1) ∧
       (recordFieldsOk r = true → leAt r 32 4 % 4 = 0 → leAt r 32 4 ≤ 65536 → ∀ k', k = some k' →
         (recordExtentsOk r k' = false → refusal r k = some 2) ∧
         (recordExtentsOk r k' = true → fitsEmpty k'.need = false → refusal r k = some 3)))) ∧
    (let u := takeUp s
     asleep s = false → (∀ e ∈ s.disp.launches, ctxHeld s e.2.ctx = false) →
     (∀ n l, refusedLaunch u = some (n, l) → l.node = none →
       ∃ t, exec .placeUnit s = .next t ∧ refused (queueRing s l.queue) l.queue l.slotSeq 4 t ∧
         queueHead t l.queue = (queueHead s l.queue + 1) % 2 ^ 32 ∧ t.blocks = s.blocks ∧ MemKept s t) ∧
     (∀ n l ps fs c, refusedLaunch u = none → choosePlace u allPrios = .place q n l ps fs [] → tabFind u.disp.launches n = some l →
       tabFind u.ctxs l.ctx = some c → ps.length = fs.length → (∀ y ∈ s.disp.yields, y.queue ≠ q) → (∀ p ∈ ps, p.2.2.length ≤ 32) →
       ∃ t, exec .placeUnit s = .next t ∧ MemKept s t ∧
         tabFind t.disp.launches n =
           some { l with uids := l.uids ++ (List.range ps.length).map (s.nextId + ·), placed := l.placed + 1 } ∧
         ∀ j p f, ps[j]? = some p → fs[j]? = some f →
           ∃ b, tabFind t.blocks (s.nextId + j) = some b ∧ b.core = p.1 ∧ b.index = p.2.1 ∧ b.launch = n ∧ b.ctx = l.ctx ∧
             b.world = c.world ∧ b.rank = j ∧ b.size = l.size ∧ b.teamed = l.team ∧ b.regs = l.regs ∧ b.gangs = l.gangs ∧
             b.padSize = l.pad ∧ b.pad = [] ∧ b.acc = l.acc ∧ b.copyq = l.copyq ∧ b.frame = BitVec.ofNat 64 f ∧
             b.cx = BitVec.ofNat 32 (l.placed % l.x) ∧ b.cy = BitVec.ofNat 32 (l.placed / l.x % l.y) ∧
             b.cz = BitVec.ofNat 32 (l.placed / l.x / l.y) ∧ b.gx = BitVec.ofNat 32 l.x ∧ b.gy = BitVec.ofNat 32 l.y ∧
             b.gz = BitVec.ofNat 32 l.z ∧
             (∀ j' b', j' < ps.length → tabFind t.blocks (s.nextId + j') = some b' → b'.team = b.team) ∧
             ∀ i at', p.2.2[i]? = some at' →
               ∃ g, tabFind t.gangs (32 * (s.nextId + j) + i) = some g ∧ g.block = s.nextId + j ∧ g.gid = i ∧
                 g.pipe = at'.1 ∧ g.slot = at'.2 ∧ (∀ m : BitVec 6, sreg g m = if m = 1 then l.args else 0) ∧
                 (∃ m, g.frags = [(0, { pc := l.entry, mask := m, link := none, wait := .running, words := [] })] ∧ g.live = m) ∧
                 g.gstat = 0)) ∧
    (∀ y c, s.disp.yields.find? (yieldMoves s) = some y → imageFits s y.victim = true → unacked s y.victim = [] →
      tabFind s.ctxs y.victim = some c → c.st = .resident →
      ∃ t, exec .yieldDeadline s = .next t ∧ tabFind t.ctxs y.victim = some { c with st := .saving } ∧
        tabGet t.events.seqs (sourceId 1 0).toNat 0 = tabGet s.events.seqs (sourceId 1 0).toNat 0 + 1 ∧ MemKept s t) ∧
    (∀ k c, s.disp.parkChecks < s.cycle / 1024 → s.ctxs = [(k, c)] → c.st = .resident → imageFits s k = true →
      let past := decide (parkThreshold s k * (ctxGangs s k).length < 100 * ((ctxGangs s k).filter fun g => g.2.lastStall == some stallParked).length)
      ∃ t, exec .parkthCheck s = .next t ∧ t.disp.parkChecks = s.cycle / 1024 ∧ MemKept s t ∧
        tabFind t.ctxs k = some (if past && c.past then { c with past := false, needsReplay := true, st := .saving }
          else { c with past := past })) ∧
    (∀ uid b l, tabFind s.blocks uid = some b → canRetire s uid = true → tabFind s.disp.launches b.launch = some l →
      ∃ t, exec (.blockRetire uid) s = .next t ∧ tabFind t.blocks uid = none ∧ (∀ k g, tabFind t.gangs k = some g → g.block ≠ uid) ∧
        tabFind t.disp.launches b.launch = some (if b.responder.isSome then l else { l with retired := l.retired + 1 }) ∧
        (b.gangs ≤ 32 → MemKept s t)) ∧
    (∀ n l c, tabFind s.disp.launches n = some l → tabFind s.disp.graphs n = none → launchOver s l = true → l.node = none →
      tabFind s.ctxs l.ctx = some c →
      ∃ t, exec (.launchRetire n) s = .next t ∧ tabFind t.disp.launches n = none ∧ t.mem = s.mem ∧
        (∀ a, l.done = some a → ∃ r, tabFind t.reqs s.nextId = some r ∧ r.kind = .rmw .add 2 ∧ r.order = .rel ∧ r.scope = 5 ∧
          r.va = lineAddr a ∧ r.world = c.world) ∧
        (l.done = none → t.reqs = s.reqs)) ∧
    (∀ tail : W32, (regField s (.lqctl q) 4 4 = 0 →
        ∃ t, exec (.lqptrTailWrite q tail) s = .next t ∧ queueTail t q = tail.toNat ∧ queueHead t q = queueHead s q ∧
          (∀ r, r ≠ .lqptr q → reg t r = reg s r) ∧ t.gangs = s.gangs ∧ t.blocks = s.blocks ∧ t.mem = s.mem ∧
          (s.mgmt.power ≠ .dIdle → { t with sys := s.sys } = s) ∧ (s.mgmt.power = .dIdle → t.mgmt.power = .d0)) ∧
      (regField s (.lqctl q) 4 4 ≠ 0 → exec (.lqptrTailWrite q tail) s = .next s))

/-- Contexts and graphs: a save takes every block of its context off the cores, and a restore gives them places and then reads the
image, each with STATE as it says; a graph's node starts when its edges are resolved, is skipped when none was taken, and its finish
resolves its edges. That a save is one step, and a restore two, is the model's choice (log 23) (R228, R249 to R252, R333, R334). -/
def Obligations.ContextAndGraphSteps : Prop :=
  ∀ (s : State),
    (∀ ctx c, tabFind s.ctxs ctx = some c → c.st = .saving → matrixOfCtx s ctx = false → padOfCtx s ctx = false →
      hubReady s ctx .write c.save (imageSize ((ctxBlocks s ctx).map (·.2))) = true →
      ∃ t, exec (.saveImageWrite ctx) s = .next t ∧ (tabFind t.ctxs ctx).map (·.st) = some .saved ∧
        (∀ u b, tabFind t.blocks u = some b → b.ctx ≠ ctx) ∧
        (∀ u b, tabFind s.blocks u = some b → b.ctx = ctx → (tabFind t.savedBlocks u).isSome = true)) ∧
    (∀ ctx c, tabFind s.ctxs ctx = some c → c.st = .saved → restorable s ctx = true → restoreTurn s ctx = true →
      (placedBack s ctx = none → exec (.contextRestore ctx) s = .next s) ∧
      (∀ u, placedBack s ctx = some u →
        ∃ t, exec (.contextRestore ctx) s = .next t ∧ (tabFind t.ctxs ctx).map (·.st) = some .restoring ∧ t.blocks = u.blocks ∧
          t.gangs = u.gangs ∧ MemKept s t)) ∧
    (∀ ctx c, tabFind s.ctxs ctx = some c → c.st = .restoring →
      hubReady s ctx .read c.save (imageSize ((imageBlocks s ctx).map (·.2))) = true →
      ∃ t, exec (.contextRestore ctx) s = .next t ∧ (tabFind t.ctxs ctx).map (·.st) = some .resident ∧
        (∀ u b, tabFind t.savedBlocks u = some b → b.ctx ≠ ctx) ∧ (∀ e ∈ t.deferred, e.2.ctx ≠ ctx) ∧
        HubKept (imageSize ((imageBlocks s ctx).map (·.2)) + 4096) s t) ∧
    (∀ n node l g, instanceOf s n = some (l, g) → rangesReady s l.ctx .read [nodeRange g node] = true →
      incntBad s l g node = false → nodeReady s l g node = true → cleaning s l.ctx = false →
      let r := nodeRec s l g node
      nodeOk g r = true →
      (nodeIn r ≠ 0 → tabGet g.taken node 0 = 0 → rangesReady s l.ctx .read [outRange g r] = true → outEdges s l g r = [] →
        ∃ t h, exec (.graphNodeStart n node) s = .next t ∧ tabFind t.disp.graphs n = some h ∧
          tabFind h.node node = some .skipped ∧ HubKept 65536 s t) ∧
      (nodeIn r = 0 ∨ tabGet g.taken node 0 ≠ 0 → nodeKind r = 2 ∨ nodeKind r = 3 ∨ nodeKind r = 4 →
        ∃ t h, exec (.graphNodeStart n node) s = .next t ∧ tabFind t.disp.graphs n = some h ∧
          tabFind h.node node = some .running ∧
          (∀ e ∈ t.reqs, ∃ q, (e.1, q) ∈ s.reqs ∧ { e.2 with stage := q.stage } = q) ∧ HubKept 65536 s t) ∧
      (∀ c, nodeIn r = 0 ∨ tabGet g.taken node 0 ≠ 0 → nodeKind r = 5 → tabFind s.ctxs l.ctx = some c →
        ∃ t h q, exec (.graphNodeStart n node) s = .next t ∧ tabFind t.disp.graphs n = some h ∧
          tabFind h.node node = some .running ∧ tabFind t.reqs s.nextId = some q ∧ q.order = .rel ∧ q.scope = 5 ∧
          q.va = lineAddr (nodeAddr r) ∧ q.kind = (if nodeCode r = 0 then .write else .rmw .add 2) ∧ HubKept 65536 s t)) ∧
    (∀ n node l g, instanceOf s n = some (l, g) → tabGet g.node node .waiting = .running →
      let r := nodeRec s l g node
      rangesReady s l.ctx .read [nodeRange g node, outRange g r] = true →
      wordReady s l r = true → regionsReady s l (outEdges s l g r) = true → nodeKind r = 2 ∨ nodeKind r = 4 →
      nodeOver s n node l r = true →
      (outEdges s l g r = [] → ∃ t h, exec (.graphNodeFinish n node) s = .next t ∧ tabFind t.disp.graphs n = some h ∧
        tabFind h.node node = some .done ∧ HubKept 65536 s t) ∧
      (∀ e, outEdges s l g r = [e] → edgeOk g node e = true → edgeRegions e = 0 →
        let take := edgeTag e = 0 ∨ (nodeKind r = 2 ∧ edgeTag e = (if nodeCond s l r then 1 else 2))
        ∃ t h, exec (.graphNodeFinish n node) s = .next t ∧ tabFind t.disp.graphs n = some h ∧ tabFind h.node node = some .done ∧
          tabGet h.seen (edgeTo e) 0 = tabGet g.seen (edgeTo e) 0 + 1 ∧
          tabGet h.taken (edgeTo e) 0 = tabGet g.taken (edgeTo e) 0 + (if take then 1 else 0) ∧ HubKept 65536 s t))

/-- Steps of a die's domain unit and of its first-touch and plain units. SLWB: its lines are those that the die's selected slices
hold of its range; each is clean, or absent when removal is asked, and counted, before the end. DSPLIT marks itself in progress, and,
once accepted requests are done, gives the upper half of the members to the new domain, with no line of theirs left; DSPLIT_COMPLETE
ends it. A command ends with its results and its status written, then DONE, then the next sequence awaited; where they go to another
device, or parked, each waits for the one before to be performed. A release frees its region's entry, with no line of it cached at its
slice; a line whose write to the tier is held keeps a split or a release waiting; a changed PLAINCFG.X clears the plain. That a failed command writes zeros as its
results, that an SLWB handles one line a step, of the lines that its slices hold at its start, and that a release and a carve are one
step each, are the model's choices (log 27) (R340 to R343, R346, R356,
R360). -/
def Obligations.DomainSteps : Prop :=
  ∀ (s : State) (die : Nat),
    let d := domUnit s die
    let next := (regField s (.dcqstat die) 31 0 + 1) % 2 ^ 32
    let ends (t : State) (res : List Nat) (st : Nat) : Prop :=
      ((domUnit t die = DomUnit.idle ∧ regField t (.dcqstat die) 31 0 = next) ∨ (domUnit t die).ending = some (res, st)) ∧
      ((∀ n, spillPart s n = 0) → HubKept 4096 s t)
    let holds (t : State) : Prop := RoomFor s 4096 → ∀ k c, tabFind s.caches.l2 k = some c → tabFind t.caches.l2 k = some c
    let counted (ls : List (Nat × Nat)) : Prop :=
      ∀ p ∈ ls, inTier p.2 = true → tabGet s.tiers.epochs (granuleOf p.2) 0 + 1 < 2 ^ 24
    let asks (t : State) (ls : List (Nat × Nat)) : Prop :=
      ∀ p ∈ ls, heldLine s p.1 p.2 = true → granuleOf p.2 ∈ t.tiers.resealing
    (∀ base ctx va r, d = DomUnit.idle → domCommand (domOwner s die) die = some (base, ctx, va, r) → leAt r 4 1 ≠ 2 →
      let st := slwbStatus (domOwner s die) die r
      (st ≠ 0 → ∃ t, exec (.slwb die) s = .next t ∧ ends t [0, 0, 0] st) ∧
      (st = 0 → ∃ t ls, exec (.slwb die) s = .next t ∧ (domUnit t die).cmd = some (ctx, base, va) ∧
        (domUnit t die).clean = some (ls, bitN (leAt r 7 1) 0, 0, 0) ∧ regField t (.dcqstat die) 32 32 = 1 ∧
        (∀ p, p ∈ ls ↔ p ∈ l2LinesIn t (leAt r 8 8) (leAt r 8 8 + leAt r 16 8) ∧ p.1 / 48 = die ∧
          bitN (leAt r 24 8) (p.1 % 48) = true) ∧ holds t ∧ HubKept 4096 s t)) ∧
    (∀ p rest inv a b, d.ending = none → d.clean = some (p :: rest, inv, a, b) → heldLine s p.1 p.2 = false →
      let key := lineKey p.1 p.2
      ∃ t, exec (.slwb die) s = .next t ∧
        (domUnit t die).clean = some (rest, inv, a + (dirtyAt s p.1 p.2).toNat, b + (inv && (tabFind s.caches.l2 key).isSome).toNat) ∧
        (inv = true → tabFind t.caches.l2 key = none) ∧
        (∀ c, tabFind t.caches.l2 key = some c → c.dirty = false)) ∧
    (∀ inv a b, d.ending = none → d.clean = some ([], inv, a, b) →
      ∃ t, exec (.slwb die) s = .next t ∧ ends t [a, b, 0] 0) ∧
    (∀ ctx base va res st, d.cmd = some (ctx, base, va) → d.ending = some (res, st) →
      let steps (p : State → Prop) : Prop :=
        ∃ t, exec (.slwb die) s = .next t ∧ exec (.dsplit die) s = .next t ∧ exec (.dsplitComplete die) s = .next t ∧ p t
      let finished (t : State) : Prop := domUnit t die = DomUnit.idle ∧ regField t (.dcqstat die) 31 0 = next ∧
        regField t (.dcqstat die) 32 32 = 0 ∧ HubKept 4096 s t
      let waits (st : DomStep) (t : State) : Prop := domUnit t die = { d with step := st } ∧ reg t (.dcqstat die) = reg s (.dcqstat die)
      let added (u : State) : State := hubAdd u ctx (some (domAgent die)) base
      let u := hubPut s ctx (va + 32) (((List.range 3).flatMap fun k => leBytes 8 (res.getD k 0)) ++ leBytes 4 st) (some (domAgent die))
      (domOpen s die = true → steps fun t => t = s) ∧
      (domOpen s die = false →
        (d.step = .results → hubReady s ctx .write (va + 32) 28 = true → hubReady s ctx (.rmw .add 2) base 8 = true →
          (domOpen u die = true → steps (waits .stamp)) ∧
          (domOpen u die = false → domOpen (added u) die = true → steps (waits .over)) ∧
          (domOpen u die = false → domOpen (added u) die = false → steps finished)) ∧
        (d.step = .stamp → hubReady s ctx (.rmw .add 2) base 8 = true →
          (domOpen (added s) die = true → steps (waits .over)) ∧ (domOpen (added s) die = false → steps finished)) ∧
        (d.step = .over → steps finished))) ∧
    (∀ base ctx va r, d = DomUnit.idle → domCommand (domOwner s die) die = some (base, ctx, va, r) → leAt r 4 1 = 2 →
      let st := dsplitStatus (domOwner s die) die r
      (st ≠ 0 → ∃ t, exec (.dsplit die) s = .next t ∧ ends t [0, 0, 0] st) ∧
      (st = 0 → ∃ t, exec (.dsplit die) s = .next t ∧
        (domUnit t die).split = some (leAt r 5 1, leAt r 6 1,
          upperHalf (domMembers s die (leAt r 5 1)) ((domLog s die (leAt r 5 1)).getD 1)) ∧
        regField t (.dcqstat die) 32 32 = 1 ∧ (∀ k, domMembers t die k = domMembers s die k) ∧ holds t ∧ HubKept 4096 s t)) ∧
    (∀ x e up, d.ending = none → d.split = some (x, e, up) → x ≠ e → d.res = [] → accepted s die x e = false →
      let new := upperHalf (domMembers s die x) ((domLog s die x).getD 1)
      (counted (movingLines s die x e up) →
        ∃ t, exec (.dsplit die) s = .next t ∧ domMembers t die e = new ∧ domMembers t die x = domMembers s die x - new ∧
          (∀ k, k ≠ x → k ≠ e → domMembers t die k = domMembers s die k) ∧
          (domUnit t die).split = some (x, e, up) ∧ (domUnit t die).res ≠ [] ∧
          (∀ k c, tabFind t.caches.l2 k = some c → k / 2 ^ 50 / 48 = die →
            ¬(usableDom s die c.dom = x ∧ bitN up (k / 2 ^ 50 % 48) = true) ∧ c.dom ≠ e)) ∧
      (heldLines s (movingLines s die x e up) = true →
        ∃ t, exec (.dsplit die) s = .next t ∧ asks t (movingLines s die x e up) ∧ { t with tiers := s.tiers } = s)) ∧
    (d.ending = none → d.res ≠ [] → d.old.any (oldOpen s) = false →
      ∃ t, exec (.dsplitComplete die) s = .next t ∧ ends t d.res 0) ∧
    (∀ region slice, tabFind s.caches.first (die * 2 ^ 40 + region) = some slice →
      let ls := l2LinesIn s (region * 65536) (region * 65536 + 65536)
      (regionBusy s die region = false → counted ls →
        ∃ t, exec (.firstTouchRelease die region) s = .next t ∧ tabFind t.caches.first (die * 2 ^ 40 + region) = none ∧
          regField t (.ftstat die) 15 0 = regField s (.ftstat die) 15 0 - 1 ∧ (die, region) ∉ t.caches.firstRel ∧
          (∀ k c, tabFind t.caches.l2 k = some c → k / 2 ^ 50 = 48 * die + slice → k % 2 ^ 50 * 64 / 65536 ≠ region)) ∧
      (regionBusy s die region = false → heldLines s (ls.filter fun p => p.1 == 48 * die + slice) = true →
        ∃ t, exec (.firstTouchRelease die region) s = .next t ∧ asks t (ls.filter fun p => p.1 == 48 * die + slice) ∧
          (die, region) ∈ t.caches.firstRel ∧ { t with tiers := s.tiers, caches := s.caches } = s) ∧
      (regionBusy s die region = true →
        ∃ t, exec (.firstTouchRelease die region) s = .next t ∧ (die, region) ∈ t.caches.firstRel ∧
          { t with caches := s.caches } = s)) ∧
    (∀ v : W64, ∃ t, exec (.plainCarve die v) s = .next t ∧ regField t (.plaincfg die) 4 0 = wbits v 4 0 ∧
      regField t (.plaincfg die) 31 16 = wbits v 31 16 ∧
      (wbits v 31 16 ≠ regField s (.plaincfg die) 31 16 → ∀ e ∈ t.caches.plain, e.1 / 2 ^ 26 ≠ die) ∧
      (wbits v 4 0 = regField s (.plaincfg die) 4 0 → wbits v 31 16 = regField s (.plaincfg die) 31 16 →
        t.caches.plain = s.caches.plain ∧ t.caches.l2 = s.caches.l2 ∧ t.mem = s.mem))

/-- Steps of the tiers. MIGRATION_MOVE marks a granule as moving, or fails outside the tiered ranges; MIGRATION_DONE copies its 64
KiB and switches its state, and an up move that could not read the tier leaves it LOWER with FAIL. A release is announced,
acknowledged once the extent has nothing in HBM, or forced with the lines still dirty poisoned. A reseal takes the next epoch with
the granule's counters at 0, and past the last epoch asks for a new key. That an up move of a granule under release fails, and what a
forced release does with its lines, are the model's choices (log 27) (R361, R362, R374). -/
def Obligations.TierSteps : Prop :=
  ∀ (s : State),
    (let pa := regField s .migcmd 55 16 * 65536
     let g := granuleOf pa
     (regField s .migstat 0 0 = 1 → exec .migrationMove s = .next s) ∧
     (regField s .migstat 0 0 ≠ 1 → inTieredRange s pa = false →
       ∃ t, exec .migrationMove s = .next t ∧ regField t .migstat 1 1 = 1 ∧ regField t .migstat 2 2 = 1 ∧
         t.tiers.granules = s.tiers.granules ∧ t.mem = s.mem) ∧
     (regField s .migstat 0 0 ≠ 1 → inTieredRange s pa = true → regField s .migcmd 56 56 = 1 →
       tabGet s.tiers.granules g .lower = .lower →
       ∃ t, exec .migrationMove s = .next t ∧ t.tiers.moving = some g ∧ regField t .migstat 0 0 = 1 ∧
         tabGet t.tiers.granules g .lower = .moving true (regField s .migframe 55 16 * 65536) ∧ t.mem = s.mem ∧
         (∀ k, k ≠ g → tabGet t.tiers.granules k .lower = tabGet s.tiers.granules k .lower)) ∧
     (∀ f, regField s .migstat 0 0 ≠ 1 → inTieredRange s pa = true → regField s .migcmd 56 56 = 0 →
       tabGet s.tiers.granules g .lower = .upper f →
       ∃ t, exec .migrationMove s = .next t ∧ t.tiers.moving = some g ∧ regField t .migstat 0 0 = 1 ∧
         tabGet t.tiers.granules g .lower = .moving false f ∧
         (∀ k c, tabFind t.caches.l2 k = some c → ¬(granulePa g ≤ k % 2 ^ 50 * 64 ∧ k % 2 ^ 50 * 64 < granulePa g + 65536)))) ∧
    (∀ g f, s.tiers.moving = some g → tabGet s.tiers.granules g .lower = .moving true f →
      (extentOf s (granulePa g) = none →
        ∃ t, exec (.migrationDone true) s = .next t ∧ tabGet t.tiers.granules g .lower = .upper f ∧ t.tiers.moving = none ∧
        regField t .migstat 0 0 = 0 ∧ regField t .migstat 1 1 = 1 ∧
        ∀ a, memByte t.mem a = if f ≤ a ∧ a < f + 65536 then memByte s.mem (granulePa g + (a - f)) else memByte s.mem a) ∧
      (∀ ok, ok = false ∨ extentOf s (granulePa g) ≠ none →
        ∃ t, exec (.migrationDone ok) s = .next t ∧ tabGet t.tiers.granules g .lower = .lower ∧ t.tiers.moving = none ∧
        regField t .migstat 1 1 = 1 ∧ regField t .migstat 2 2 = 1 ∧ t.mem = s.mem)) ∧
    (∀ g f ok, s.tiers.moving = some g → tabGet s.tiers.granules g .lower = .moving false f →
     (released s (granulePa g) = false → granuleShut s g = true →
      ∃ t, exec (.migrationDone ok) s = .next t ∧ g ∈ t.tiers.resealing ∧ { t with tiers := s.tiers } = s ∧
        t.tiers.granules = s.tiers.granules ∧ t.tiers.moving = s.tiers.moving) ∧
     (released s (granulePa g) = true ∨ granuleShut s g = false →
      ∃ t, exec (.migrationDone ok) s = .next t ∧ tabGet t.tiers.granules g .lower = .lower ∧ t.tiers.moving = none ∧
        regField t .migstat 0 0 = 0 ∧ regField t .migstat 1 1 = 1 ∧
        ∀ a, memByte t.mem a = if released s (granulePa g) = false ∧ granulePa g ≤ a ∧ a < granulePa g + 65536 then memByte s.mem (f + (a - granulePa g))
          else memByte s.mem a)) ∧
    (∀ base size : Nat,
      (s.mgmt.booted = false → exec (.dcReleaseRequest base size) s = .next s) ∧
      (s.mgmt.booted = true → ∃ t, exec (.dcReleaseRequest base size) s = .next t ∧ t.tiers.extents = s.tiers.extents ++ [(base, size, false)] ∧
        tabGet t.events.seqs (sourceId 5 0).toNat 0 = tabGet s.events.seqs (sourceId 5 0).toNat 0 + 1) ∧
      (releasing s base = some (base, size, false) → movesIn s base size = false → extentBusy s base size = false →
       let u := flushExtent s base size
       let open_ := dirtyIn u base size = [] ∧ ∀ e ∈ upperGranules u base size, granuleShut u e.1 = false
       (¬open_ → ∃ t, exec (.dcReleaseAck base) s = .next t ∧ t.out = s.out ∧ t.tiers.extents = s.tiers.extents) ∧
       (open_ →
        ∃ t, exec (.dcReleaseAck base) s = .next t ∧ t.out = s.out ++ [.extentAck base] ∧ (base, size, true) ∈ t.tiers.extents ∧
          (∀ g f, tabFind t.tiers.granules g = some (.upper f) → ¬(base ≤ g * 65536 ∧ g * 65536 < base + size)))) ∧
      (∃ t, exec (.dcForcedRelease base size) s = .next t ∧ (base, size, true) ∈ t.tiers.extents ∧
        tabGet t.events.seqs (sourceId 5 0).toNat 0 = tabGet s.events.seqs (sourceId 5 0).toNat 0 + 1 ∧
        ∀ k c, tabFind s.caches.l2 k = some c → c.dirty = true → tierPa base ≤ k % 2 ^ 50 * 64 →
          k % 2 ^ 50 * 64 < tierPa base + size → (tabFind t.tiers.forced (k % 2 ^ 50)).isSome = true ∧
            (RoomFor s 4096 → ∃ d, tabFind t.caches.l2 k = some d ∧ d.poison = true))) ∧
    (∀ g : Nat, s.tiers.resealing.contains g = true →
      (tabGet s.tiers.epochs g 0 + 1 < 2 ^ 24 →
        ∃ t, exec (.tierReseal g) s = .next t ∧ g ∉ t.tiers.resealing ∧ tabGet t.tiers.epochs g 0 = tabGet s.tiers.epochs g 0 + 1 ∧
          (∀ k, tabFind t.tiers.counters k = if k / 1024 = g then none else tabFind s.tiers.counters k) ∧
          { t with tiers := s.tiers } = s) ∧
      (tabGet s.tiers.epochs g 0 + 1 = 2 ^ 24 →
        ∃ t, exec (.tierReseal g) s = .next t ∧ g ∈ t.tiers.resealing ∧ tabGet t.tiers.epochs g 0 = 2 ^ 24 ∧
          tabGet t.events.seqs (sourceId 5 0).toNat 0 = tabGet s.events.seqs (sourceId 5 0).toNat 0 + 1 ∧ MemKept s t))

/-- Steps of a scale-up link. A flit's CRC and tags are checked on its bytes: an accepted one advances the counter expected next and
does what it brings, a refusal of the far home parking its request with the cause, and lets the flits leave the retry buffer that the other end has accepted, one that fails its CRC is asked for
again, and one whose tag or counter fails stops the link under SEALFAIL with an event; a resend sends the oldest flit that is not
accepted, as the same bits; when its sixteenth resend has failed the link goes down with an event, and retraining brings it up. A device
that has not booted serves no link. That
the sixteenth resend in a row is the last (log 28), and that a received flit says which flits the other end has accepted, whose
requests then await their answers (log 36), are the model's choices (R220, R363, R375 to R377). -/
def Obligations.LinkSteps : Prop :=
  ∀ (s : State) (l : BitVec 5) (flit : FlitIn),
    let k := l.toNat
    let x := linkOf s k
    let good := linkShut s x = false ∧ s.mgmt.booted = true ∧ flitCrcOk flit.bytes = true ∧ flitTagsOk s k flit.bytes = true
    (linkShut s x = false → s.mgmt.booted = true → flitCrcOk flit.bytes = false →
      exec (.flitReceive l flit) s = .next { s with out := s.out ++ [.resendRequest k] }) ∧
    (x.down = true ∨ x.sealSt ≠ 0 ∨ s.island.wrapped = true ∨ s.mgmt.booted = false →
      exec (.flitReceive l flit) s = .next s ∧ exec (.flitResend l) s = .next s) ∧
    (good → flit.sealed = false →
      ∃ t, exec (.flitReceive l flit) s = .next t ∧ (linkOf t k).recvCtr = x.recvCtr + 1 ∧ (linkOf t k).sealSt = 0 ∧
        (flit.answers = none → linkOf t k = dropAccepted { x with recvCtr := x.recvCtr + 1 } flit.accepted) ∧
        (flit.answers = none → flit.asks = none → { t with links := s.links } = s) ∧
        (∀ q, flit.answers = none → flit.asks = some q → paDevice q.pa = regField s .devnum 12 0 →
          tabFind t.hostAccs s.nextId = some { core := 64 + k, peer := some q.world, kind := peerKind q.op, pa := q.pa, len := q.len,
                                               data := q.data, aq := false, rl := false, after := [], fetch := q.op == .fetch
                                               leaf := { basin := q.basin.toNat, first := q.first, dom := q.dom.toNat,
                                                         tier := inTier q.pa, w := true, size := 0 } }) ∧
        (∀ id, flit.answers = some id → id ∉ (linkOf t k).awaiting) ∧
        (∀ id c r, flit.answers = some id → flit.refused = some c →
          id ∈ (dropAccepted { x with recvCtr := x.recvCtr + 1 } (acceptedBy x id flit.accepted)).awaiting →
          tabFind s.reqs id = some r → r.stage = .link → isJoint r = false → r.ctx ≠ physCtx → parkCount s (parkDie r) false < 4096 →
          ∃ q, tabFind t.reqs id = some q ∧ q.parts = r.parts ∧
            q.stage = .parked (match c with | .world => .world | .poison => .poison) s.parks.nextSeq none false)) ∧
    (linkShut s x = false → s.mgmt.booted = true → flitCrcOk flit.bytes = true → flitTagsOk s k flit.bytes = false →
      ∃ t, exec (.flitReceive l flit) s = .next t ∧ linkOf t k = { x with sealSt := 1 } ∧ regField t (.sealstat k) 1 0 = 1 ∧
        regField t (.sealstat k) 31 16 = min 65535 (regField s (.sealstat k) 31 16 + 1) ∧
        tabGet t.events.seqs (sourceId 4 k).toNat 0 = tabGet s.events.seqs (sourceId 4 k).toNat 0 + 1 ∧ t.reqs = s.reqs ∧
        MemKept s t) ∧
    (∀ f r, x.buffer = f :: r → linkShut s x = false → s.mgmt.booted = true →
      (x.tries < 16 →
        ∃ t, exec (.flitResend l) s = .next t ∧ t.out = s.out ++ [.flit k f] ∧ linkOf t k = { x with tries := x.tries + 1 } ∧
          regField t (.linkstat k) 31 16 = min 65535 (regField s (.linkstat k) 31 16 + 1) ∧ t.reqs = s.reqs ∧ t.mem = s.mem) ∧
      (x.tries = 16 → exec (.flitResend l) s = .next (putLink s k { x with tries := 17 }))) ∧
    (17 ≤ x.tries → x.down = false →
      ∃ t, exec (.linkRetryExhausted l) s = .next t ∧ linkOf t k = { x with down := true } ∧ regField t (.linkstat k) 0 0 = 1 ∧
        tabGet t.events.seqs (sourceId 4 k).toNat 0 = tabGet s.events.seqs (sourceId 4 k).toNat 0 + 1 ∧ t.reqs = s.reqs ∧
        MemKept s t) ∧
    (x.down = true →
      ∃ t, exec (.linkRetrain l) s = .next t ∧ (linkOf t k).down = false ∧ (linkOf t k).tries = 0 ∧
        regField t (.linkstat k) 0 0 = 0 ∧ t.reqs = s.reqs ∧ t.mem = s.mem)

/-- Commands of the security island. Each request taken from a host core's mailbox is answered with its status; a successful one has
its effect on the worlds, frames, key slots, bindings and measurements; a threshold above 100 and a stale handle are refused with
none, and so is, as BUSY, a command that would zero a frame whose writes are held; a tombstone stays until it is acknowledged. The order
of checks and the statuses that no rule names (logs 27, 32), who may command a world, that FRAME_ASSIGN zeroes too and that a report is
sent as a message (log 33), and that a new association starts at packet number 1 (log 34), are the model's choices (R365 to R370, R372,
R373, R374, R378, R381, R385, R392). -/
def Obligations.IslandCommands : Prop :=
  ∀ (s : State) (host : BitVec 5) (m : Mailbox),
    let w := m.world
    let takes (code : Nat) : Prop := takeIsland s host code = some m
    (∀ h id, takes 0x01 → freeWorldId s = some id →
      ∃ t, exec (.worldCreate host h) s = .next t ∧ Replied s t host m 0x01 stOk (leBytes 2 id) ∧
        tabFind s.island.worlds id = none ∧ tabFind t.island.worlds id = some (freshWorld h)) ∧
    (∀ world, takes 0x02 → worldKnown s world = true → mayCommand w world = true →
     ((framesOf s world).any (frameShut s) = true →
      ∃ t, exec (.worldDestroy host world) s = .next t ∧ Replied s t host m 0x02 stBusy [] ∧ t.island = s.island) ∧
     ((framesOf s world).any (frameShut s) = false →
      ∃ t, exec (.worldDestroy host world) s = .next t ∧ Replied s t host m 0x02 stOk [] ∧
        (∀ x, tabFind s.island.worlds world.toNat = some x → tabFind t.island.worlds world.toNat =
          if x.st = .gone ∧ x.acked = false then some x else none) ∧
        (∀ e ∈ t.caches.l1, e.1 % 2 ^ 50 / 1024 ∉ framesOf s world) ∧ (∀ f, tabFind t.island.frames f ≠ some world) ∧
        (∀ k y, tabFind t.island.slots k = some y → y.owner ≠ world) ∧
        (∀ c ∈ contextsOf s world, ∀ y, tabFind t.ctxs c = some y → y.st = .cancelled))) ∧
    (∀ ctx root debug parkth, takes 0x03 →
      (100 < parkth.toNat → ∃ t, exec (.ctxBind host ctx root debug parkth) s = .next t ∧ Replied s t host m 0x03 stBadreq [] ∧
        t.island = s.island) ∧
      (parkth.toNat ≤ 100 → worldActive s w = true → (∀ b, tabFind s.island.binds ctx.toNat = some b → b.world = w) →
        ∃ t, exec (.ctxBind host ctx root debug parkth) s = .next t ∧ Replied s t host m 0x03 stOk [] ∧
          tabFind t.island.binds ctx.toNat = some { world := w, root := root, debug := debug, parkth := parkth })) ∧
    (∀ world frame count, count ≠ 0 → (∀ k, k < count → frameExists s (frame + k) = true) →
      (takes 0x10 → (world = 0xFFFF ∨ worldActive s world = true) → mayCommand w world = true →
        (∀ k, k < count → frameOwner s ((frame + k) * 65536) = 0) → (∀ k, k < count → frameShut s (frame + k) = false) →
        ∃ t, exec (.frameAssign host world frame count) s = .next t ∧ Replied s t host m 0x10 stOk [] ∧
          (∀ f, tabGet t.island.frames f 0 = if frame ≤ f ∧ f < frame + count then world else tabGet s.island.frames f 0) ∧
          (∀ e ∈ t.caches.l1, ∀ k, k < count → e.1 % 2 ^ 50 / 1024 ≠ frame + k) ∧
          (count = 1 → RoomFor s 4096 → ∀ p a, (framePlaces s frame).getLast? = some p → p ≤ a → a < p + 65536 →
            memByte t.mem a = 0)) ∧
      (takes 0x11 → world ≠ 0 → mayCommand w world = true → (∀ k, k < count → frameOwner s ((frame + k) * 65536) = world) →
        (∀ k, k < count → frameShut s (frame + k) = false) →
        ∃ t, exec (.frameReclaim host world frame count) s = .next t ∧ Replied s t host m 0x11 stOk [] ∧
          (∀ f, tabGet t.island.frames f 0 = if frame ≤ f ∧ f < frame + count then 0 else tabGet s.island.frames f 0) ∧
          (∀ e ∈ t.caches.l1, ∀ k, k < count → e.1 % 2 ^ 50 / 1024 ≠ frame + k) ∧
          (count = 1 → RoomFor s 4096 → ∀ p a, (framePlaces s frame).getLast? = some p → p ≤ a → a < p + 65536 →
            memByte t.mem a = 0))) ∧
    (∀ h usage blob k key n, takes 0x20 → handleStatus s h (fun k => k.usage == .wrap) w = stOk → slotOf s h = some k →
      Config.unwrap k.key blob = some key → freeKeySlot s = some n →
      ∃ t, exec (.keyImport host h usage blob) s = .next t ∧
        Replied s t host m 0x20 stOk (leBytes 4 (n + 4096 * (tabGet s.island.gens n 0).toNat)) ∧
        tabFind s.island.slots n = none ∧ tabFind t.island.slots n = some { usage := usage, owner := w, key := key }) ∧
    (∀ h, takes 0x21 →
      (handleStatus s h (fun _ => true) w = stOk →
        ∃ t, exec (.keyDestroy host h) s = .next t ∧ Replied s t host m 0x21 stOk [] ∧
          tabFind t.island.slots (handleSlot h) = none ∧
          tabGet t.island.gens (handleSlot h) 0 = tabGet s.island.gens (handleSlot h) 0 + 1) ∧
      (slotOf s h = none →
        ∃ t, exec (.keyDestroy host h) s = .next t ∧ Replied s t host m 0x21 stStale [] ∧ t.island = s.island)) ∧
    (∀ h target, takes 0x30 → targetOk target = true → handleStatus s h (fun k => k.usage == targetUsage target) w = stOk →
      targetMay s w target = true → saRoom s target = true →
      ∃ t, exec (.saBind host h target) s = .next t ∧ Replied s t host m 0x30 stOk [] ∧
        (∀ p i rx win sci an q, target = .ethSa p i rx win sci an q →
          findSa t p i.toNat rx = some { port := p, index := i.toNat, receive := rx, handle := h, world := w, pn := 1, window := win,
                                         sci := sci, an := an, queue := q }) ∧
        (∀ d n u, target = .namespaceKey d n u →
          t.island.nsBinds.find? (fun b => b.world == w && b.drive == d && b.nsid == n) =
            some { world := w, drive := d, nsid := n, handle := h, unit4096 := u }) ∧
        (target = .worldTier → (tabFind t.island.worlds w.toNat).bind (·.tierKey) = some h) ∧
        (target = .worldLink → (tabFind t.island.worlds w.toNat).bind (·.linkKey) = some h)) ∧
    (takes 0x40 → ∃ t body, exec (.worldReport host) s = .next t ∧ Replied s t host m 0x40 stOk [] ∧
      (∃ sig ∈ [[], [Output.signal host.toNat]], t.out = s.out ++ [.message 0x40 (body ++ Config.sign body)] ++ sig) ∧ t.island = s.island ∧
      body.take 2048 = (List.range 32).flatMap fun i => hashBytes (mreg s i)) ∧
    (∀ mr digest, takes 0x41 →
      (w = 0 → ∃ t, exec (.wmrExtend host mr digest) s = .next t ∧ Replied s t host m 0x41 stOk [] ∧
        ∀ i, mreg t i = if i = 16 + mr.toNat then Config.sha512 (hashBytes (mreg s i) ++ hashBytes digest) else mreg s i) ∧
      (∀ x, w ≠ 0 → tabFind s.island.worlds w.toNat = some x → x.st = .active →
        ∃ t, exec (.wmrExtend host mr digest) s = .next t ∧ Replied s t host m 0x41 stOk [] ∧
          tabFind t.island.worlds w.toNat = some { x with wmr := Config.sha512 (hashBytes x.wmr ++ hashBytes digest) } ∧
          t.island.mregs = s.island.mregs))

/-- Worlds that move, sleep and are lost. MIGRATE_OUT opens a session as requester and sends a world to an acceptable destination, and
once that is READY leaves it GONE and sends COMMIT; MIGRATE_IN makes it PENDING, with the policy version that came with it, and answers
READY; COMMIT makes it active, a PENDING side asks for it again on a new session, a tombstone answers, and is acknowledged; SLEEP_PREP
pre-empts every context, again while one comes back from a restore, and then wraps the keys, the table's key and the epochs under the key
of this boot in retention SRAM; island firmware alone sets a host core's world; without power every world is lost that has no
acknowledged tombstone, and without retention power the keys are; device reset keeps tombstones, and runs the chain of trust, measures
what it verified and the two configurations, and fixes the ports' modes. The statuses and who may command (log 32, log 33), and the codes
and contents of the messages, how long a session lasts and that a command is BUSY whose frames cannot be reached now (logs 27, 35), are the
model's choices (R365, R374, R377 to R379, R381, R382, R389). -/
def Obligations.WorldSteps : Prop :=
  ∀ (s : State),
    let sends (t : State) (out : List Output) (host : BitVec 5) : Prop :=
      ∃ sig ∈ [[], [Output.signal host.toNat]], t.out = out ++ sig
    (∀ host m policy key regs session x, takeIsland s host 0x50 = some m →
      let w : BitVec 16 := BitVec.ofNat 16 (leAt policy 4 2)
      let o := openMigration s w
      let u := endMigration o w
      let image := Output.migrated w (worldImage s w x session (BitVec.ofNat 64 (leAt policy 8 8)))
      let open_ := framesOpen s (framesOf s w) = true ∧ (framesOf s w).any (frameShut s) = false
      tabFind s.island.worlds w.toNat = some x → x.st = .active → mayCommand m.world w = true → policyOk policy key x = true →
      (∀ ready, destinationOk s policy regs w = false →
        ∃ t, exec (.migrateOut host policy key regs ready session) s = .next t ∧ Replied s t host m 0x50 stDenied [] ∧
          t.island = u.island ∧ sends t u.out host) ∧
      (destinationOk s policy regs w = true → worldAtRest s w = true →
        (∀ ready, ¬open_ → ∃ t, exec (.migrateOut host policy key regs ready session) s = .next t ∧ Replied s t host m 0x50 stBusy [] ∧
          t.island = u.island ∧ sends t u.out host) ∧
        (open_ → ∃ t y, exec (.migrateOut host policy key regs true session) s = .next t ∧ Replied s t host m 0x50 stOk [] ∧
          tabFind t.island.worlds w.toNat = some y ∧ y.st = .gone ∧ y.session = session ∧
          y.policy = BitVec.ofNat 64 (leAt policy 8 8) ∧ t.island.sessions = o.island.sessions ∧
          sends t (o.out ++ [image, .message 0x50 (leBytes 2 w.toNat ++ hashBytes session)]) host ∧
          (∀ f, tabFind t.island.frames f ≠ some w) ∧ (∀ k z, tabFind t.island.slots k = some z → z.owner ≠ w)) ∧
        (open_ → ∃ t, exec (.migrateOut host policy key regs false session) s = .next t ∧ Replied s t host m 0x50 stBusy [] ∧
          t.island = u.island ∧ sends t (o.out ++ [image, .ask 0xEC]) host))) ∧
    (∀ host m world image session, takeIsland s host 0x51 = some m → m.world = 0 → world ≠ 0 → world ≠ 0xFFFF →
      (tabFind s.island.worlds world.toNat = none → (∀ b ∈ image.binds, tabFind s.island.binds b.1.toNat = none) →
        image.frames.length ≤ (takeFrames s (Config.freeIndex s.tick) image.frames.length).length →
        framesOpen s (takeFrames s (Config.freeIndex s.tick) image.frames.length) = true →
        s.island.slots.length + image.keys.length ≤ 4096 →
        (∀ fs ks, openImage image session = some (fs, ks) →
          ∃ t, exec (.migrateIn ⟨host, world⟩ image session) s = .next t ∧ Replied s t host m 0x51 stOk [] ∧
            tabFind t.island.worlds world.toNat = some { freshWorld image.keyHash with st := .pending, session := session, policy := image.policy } ∧
            sends t (s.out ++ [.message 0x51 (leBytes 1 stOk ++ leBytes 2 world.toNat ++ hashBytes session)]) host) ∧
        (openImage image session = none →
          ∃ t, exec (.migrateIn ⟨host, world⟩ image session) s = .next t ∧ Replied s t host m 0x51 stBadreq [] ∧ t.island = s.island)) ∧
      ((tabFind s.island.worlds world.toNat).isSome = true →
        ∃ t, exec (.migrateIn ⟨host, world⟩ image session) s = .next t ∧ Replied s t host m 0x51 stDenied [] ∧
          t.island = s.island)) ∧
    (∀ world session x, tabFind s.island.worlds world.toNat = some x → x.session = session →
      let leaves (u : State) : List Output :=
        u.out ++ (if u.island.sessions.any (fun y => y.2.1 == .migration world) = true then [.ask 0xEC] else [])
      let kept (u t : State) : Prop := t.island.sessions = u.island.sessions.filter fun y => y.2.1 != .migration world
      (x.st = .pending →
        (∃ t, exec (.commit .commit world session) s = .next t ∧
          tabFind t.island.worlds world.toNat = some { x with st := .active } ∧ kept s t ∧
          t.out = leaves { s with out := s.out ++ [.message 0x52 (leBytes 1 stOk ++ leBytes 2 world.toNat ++ hashBytes session)] }) ∧
        (∃ t, exec (.commit .askAgain world session) s = .next t ∧ { t with out := s.out, island := s.island } = s ∧
          t.island = (openMigration s world).island ∧ t.island.sessions.any (fun y => y.2.1 == .migration world && y.2.2.1) = true ∧
          t.out = (askSession { s with out := leaves s }).out ++
            [.ask 0xE5, .message 0x53 (leBytes 1 stOk ++ leBytes 2 world.toNat ++ hashBytes session)])) ∧
      (x.st = .gone →
        (∃ t, exec (.commit .asked world session) s = .next t ∧ { t with out := s.out } = s ∧
          t.out = s.out ++ [.message 0x50 (leBytes 2 world.toNat ++ hashBytes session)]) ∧
        (∃ t, exec (.commit .acknowledged world session) s = .next t ∧
          tabFind t.island.worlds world.toNat = some { x with acked := true } ∧ { t with island := s.island, out := s.out } = s ∧
          kept s t ∧ t.out = leaves s))) ∧
    (∀ host m, takeIsland s host 0x60 = some m →
      (m.world ≠ 0 → ∃ t, exec (.sleepPrep host) s = .next t ∧ Replied s t host m 0x60 stDenied [] ∧ t.island = s.island) ∧
      (m.world = 0 → s.island.preparing = none → ∃ t, exec (.sleepPrep host) s = .next t ∧ t.island.preparing = some host ∧
        ∀ c x, tabFind t.ctxs c = some x → x.st ≠ .resident)) ∧
    (∀ host, s.island.preparing = some host →
      ((s.ctxs.any fun e => ctxUp e.2) = true → ∃ t, exec (.sleepPrep host) s = .next t ∧ t.island = s.island ∧
        ∀ c x, tabFind t.ctxs c = some x → x.st ≠ .resident) ∧
      ((s.ctxs.any fun e => ctxUp e.2) = false → heldL2 s = true →
        ∃ t, exec (.sleepPrep host) s = .next t ∧ t.island = s.island ∧ t.ctxs = s.ctxs) ∧
      ((s.ctxs.any fun e => ctxUp e.2) = false → heldL2 s = false →
        ∃ t, exec (.sleepPrep host) s = .next t ∧ t.island.preparing = none ∧ t.island.wrapped = true ∧
          t.island.wrappedBy = s.island.retention ∧ t.island.retention = s.island.retention ∧
          t.island.slots = [] ∧ t.island.wrappedSlots = s.island.slots ∧ t.island.tableKey = none ∧
          t.island.wrappedTable = s.island.tableKey ∧ t.tiers.epochs = [] ∧
          t.island.wrappedEpochs = s.tiers.epochs ∧ t.links = s.links)) ∧
    (∀ host world, (worldActive s world = true → world ≠ 0 → world ≠ 0xFFFF →
        ∃ t, exec (.confidentialVmEntry host world) s = .next t ∧ hostWorld t host = world ∧
          (∀ h, h ≠ host → hostWorld t h = hostWorld s h) ∧ { t with island := s.island } = s) ∧
      ∃ t, exec (.confidentialVmExit host) s = .next t ∧ hostWorld t host = 0 ∧
        (∀ h, h ≠ host → hostWorld t h = hostWorld s h) ∧ { t with island := s.island } = s) ∧
    (∃ t, exec (.powerLoss false) s = .next t ∧ t.mgmt.power = .dOff ∧ t.gangs = [] ∧ t.mem = [] ∧ t.sys = [] ∧
      t.island.slots = [] ∧ t.island.sessions = [] ∧ t.island.retention = none ∧ t.island.tableKey = none ∧
      ∀ k x, k < 65536 → tabFind s.island.worlds k = some x → ¬(x.st = .gone ∧ x.acked = true) →
        ∃ y, tabFind t.island.worlds k = some y ∧ y.st = .lost) ∧
    (s.mgmt.power = .dRetain → ∃ t, exec (.powerLoss true) s = .next t ∧ t.mgmt.booted = false ∧ t.island.wrapped = false ∧
      t.island.slots = [] ∧ t.island.sessions = [] ∧ t.island.mregs = [] ∧ t.island.retention = none ∧ t.island.wrappedBy = none) ∧
    (∀ images, ∃ t, exec (.deviceReset images) s = .next t ∧ t.gangs = [] ∧ t.blocks = [] ∧ t.mem = [] ∧ t.sys = [] ∧
      mreg t 0 = Config.sha512 (hashBytes 0 ++ hashBytes (Config.sha512 images.romState)) ∧
      (∀ k x, tabFind s.island.worlds k = some x → x.st = .gone ∧ x.acked = false → tabFind t.island.worlds k = some x) ∧
      t.island.retention = some t.island.boots ∧ t.island.tableKey = some t.island.boots ∧ t.island.boots = s.island.boots + 1 ∧
      (islandImageOk images = false → t.mgmt.recovery = true ∧ t.mgmt.booted = false ∧ mreg t 1 = 0) ∧
      (islandImageOk images = true → mreg t 1 = Config.sha512 (hashBytes 0 ++ hashBytes (Config.sha512 images.islandImage))) ∧
      (t.mgmt.booted = true →
        islandImageOk images = true ∧ listedImageOk images images.mgmtKey images.mgmtImage images.mgmtSig = true ∧
          listedImageOk images images.dispKey images.dispImage images.dispSig = true ∧
          t.mgmt.pcie = images.pcie ∧ t.island.tierArea = images.tierArea ∧
          mreg t 2 = Config.sha512 (hashBytes 0 ++ hashBytes (Config.sha512 images.config)) ∧
          mreg t 5 = Config.sha512 (hashBytes 0 ++ hashBytes (Config.sha512 (deviceConfig images)))))

/-- SPDM: as responder each request is answered in its turn of the negotiation, and with an error out of turn or where it does not
offer the algorithm set; GET_MEASUREMENTS answers with the register of its block; a finished session of a link brings the link up
with its counters at the start and its buffered flits in order; as requester the island asks for the session. The codes and the order
of negotiation are the model's choice (log 35) (R376, R379). -/
def Obligations.SpdmSteps : Prop :=
  ∀ (s : State) (request : List Byte) (session : Nat),
    let answers (need code : Nat) (body : List Byte) (st : Nat) (o : Answer) : Prop :=
      (need ≤ s.island.spdmState → ∃ t, o = .next t ∧ t.out = s.out ++ [.message code (Config.spdmAnswer code body)] ∧
        t.island = { s.island with spdmState := st } ∧ { t with out := s.out, island := s.island } = s) ∧
      (s.island.spdmState < need → ∃ t, o = .next t ∧ t.out = s.out ++ [.message 0x7F []] ∧ { t with out := s.out } = s)
    answers 0 0x84 [] 1 (exec .getVersion s) ∧ answers 1 0xE1 [] 2 (exec .getCapabilities s) ∧
    (Config.offersSet request = true → answers 2 0xE3 request 3 (exec (.negotiateAlgorithms request) s)) ∧
    (Config.offersSet request = false → ∃ t, exec (.negotiateAlgorithms request) s = .next t ∧
      t.out = s.out ++ [.message 0x7F []] ∧ { t with out := s.out } = s) ∧
    answers 3 0x81 [] s.island.spdmState (exec .getDigests s) ∧
    answers 3 0x82 request s.island.spdmState (exec (.getCertificate request) s) ∧
    answers 3 0x83 request s.island.spdmState (exec (.challenge request) s) ∧
    (∀ block,
      (3 ≤ s.island.spdmState ∧ 1 ≤ block ∧ block ≤ 32 →
        ∃ t lost, exec (.getMeasurements block) s = .next t ∧ { t with out := s.out } = s ∧
          t.out = s.out ++ [.message 0xE0 (hashBytes (mreg s (block - 1)) ++ lost)]) ∧
      (¬(3 ≤ s.island.spdmState ∧ 1 ≤ block ∧ block ≤ 32) →
        ∃ t, exec (.getMeasurements block) s = .next t ∧ { t with out := s.out } = s ∧
          t.out = s.out ++ [.message 0x7F []])) ∧
    (∀ peer, (peer = .management → s.island.spdmState < 3) → (peer ≠ .management → s.mgmt.booted = false) →
      ∃ t, exec (.keyExchange peer request) s = .next t ∧ { t with out := s.out } = s ∧ t.out = s.out ++ [.message 0x7F []]) ∧
    (∀ peer, (peer = .management → 3 ≤ s.island.spdmState) → (peer ≠ .management → s.mgmt.booted = true) →
      ∃ t, exec (.keyExchange peer request) s = .next t ∧
        t.out = (if peerAsks peer = true then (askSession s).out else s.out ++ [.message 0xE4 (Config.spdmAnswer 0xE4 request)]) ∧
        t.island.sessions = s.island.sessions ++ [(s.island.nextSession, peer, false, 0)] ∧
        t.island.nextSession = s.island.nextSession + 1) ∧
    (∀ peer phase, s.island.sessions.find? (fun x => x.1 == session && !x.2.2.1) = some (session, peer, false, phase) →
      ∃ t, exec (.finish session request) s = .next t ∧ sessionOpen t session = true ∧
        (peerAsks peer = false → .message 0xE5 (Config.spdmAnswer 0xE5 request) ∈ t.out) ∧
        (peer = .management → t.out = s.out ++ [.message 0xE5 (Config.spdmAnswer 0xE5 request)] ∧ t.links = s.links) ∧
        (∀ l asks, peer = .link l asks → regField t (.sealstat l.toNat) 1 0 = 0 ∧ (linkOf t l.toNat).sealSt = 0 ∧
          (linkOf t l.toNat).recvCtr = 0 ∧
          ∀ n b, (linkOf s l.toNat).buffer[n]? = some b → ∃ f, (linkOf t l.toNat).buffer[n]? = some f ∧
            f.counter = BitVec.ofNat 64 n ∧ f.req = b.req ∧ f.world = b.world ∧ f.plain = b.plain)) ∧
    (sessionOpen s session = true →
      (∃ t, exec (.keyUpdate session) s = .next t ∧ t.out = s.out ++ [.message 0xE9 (Config.spdmAnswer 0xE9 [])] ∧
        t.island.sessions = s.island.sessions.map fun y => if y.1 = session then (y.1, y.2.1, y.2.2.1, y.2.2.2 + 1) else y) ∧
      (∃ t, exec (.endSession session) s = .next t ∧ t.out = s.out ++ [.message 0xEC (Config.spdmAnswer 0xEC [])] ∧
        sessionOpen t session = false ∧ (∀ y ∈ s.island.sessions, y.1 ≠ session → y ∈ t.island.sessions) ∧
        ∀ l asks phase, (s.island.sessions.find? fun x => x.1 == session && x.2.2.1) = some (session, .link l asks, true, phase) →
          linkSessions t l.toNat = [] → (linkOf t l.toNat).sealSt = 2 ∧ regField t (.sealstat l.toNat) 1 0 = 2))

/-- The management core: a request whose sequence is the next is executed and answered with its acknowledgement, one further ahead is
answered BADREQ; IDENTITY, POWER, ERRCOUNT and RESYNC; heartbeats, D-idle after 1 ms without a ready head, and errors, which are
counted and poison a line or halt a unit. Which requests are answered BADREQ, BUSY or DENIED where no rule says, the pins' own
sequence, and the codes of power states are the model's choices (log 36) (R389 to R391, R397 to R399). -/
def Obligations.ManagementSteps : Prop :=
  ∀ (s : State) (pins : Bool) (seq ack : W32) (unit : W32),
    let m := mgmtBox s pins
    let answered (code st : Nat) (got : W32) (payload : List Byte) (t : State) : Prop :=
      let msg := mailMessage m.next got code st payload
      (pins = true → t.out = s.out ++ [.message code msg]) ∧
      (∀ q r n, pins = false → mailRings s none = some (q, r, n) →
        let slot := r + (m.next.toNat + 2 ^ 32 - 1) % 2 ^ 32 % n * 64
        (m.replies = [] ∧ t.mgmt.mailbox.replies = [] ∧ regField t .mbdb 63 32 = m.next.toNat ∧
          (isRemote s slot = false → physRead t slot 64 = msg)) ∨
        (∃ w, t.mgmt.mailbox.replies = m.replies ++ [(w, msg)] ∧ (m.replies = [] → physSent t ringUnit slot msg = false)))
    let box (t : State) (x : Mailbox) : Prop := mgmtBox t pins = { x with replies := (mgmtBox t pins).replies }
    let taken (code st : Nat) (payload : List Byte) (t : State) : Prop :=
      answered code st seq payload t ∧
        box t { m with got := seq, acked := ack, next := m.next + 1, bells := dropBells m.bells seq }
    (s.mgmt.power ≠ .dOff → mgmtOpen s pins = true → seq = m.got + 1 →
      (∃ t, exec (.identity ⟨pins, seq⟩ ack) s = .next t ∧
        taken 0x01 mgOk (orderingCode ++ leBytes 2 (regField s .devnum 12 0) ++ Config.firmwareVersions.take 30) t) ∧
      (s.mgmt.power = .dRetain ∨ s.island.preparing = none ∧ migrationRuns s = false →
        ∃ t, exec (.power ⟨pins, seq⟩ ack .d0) s = .next t ∧ t.mgmt.power = .d0 ∧
          box t { m with got := seq, acked := ack, next := m.next + 1, bells := dropBells m.bells seq } ∧
          (s.island.wrapped = true → s.island.retention.isSome = true → s.island.retention = s.island.wrappedBy →
            t.island.wrapped = false ∧ t.island.slots = s.island.wrappedSlots ∧ t.island.tableKey = s.island.wrappedTable ∧
            t.tiers.epochs = s.island.wrappedEpochs) ∧
          (s.island.wrapped = false ∨ s.island.retention = none ∨ s.island.retention ≠ s.island.wrappedBy → t.island = s.island) ∧
          ((∀ k, linkQueue s k = []) → answered 0x02 mgOk seq [0] t)) ∧
      (s.island.preparing = none → migrationRuns s = false →
        (s.mgmt.power ≠ .dRetain → s.island.wrapped = true →
          ∃ t, exec (.power ⟨pins, seq⟩ ack .dRetain) s = .next t ∧ taken 0x02 mgOk [2] t ∧ t.mgmt.power = .dRetain) ∧
        (s.mgmt.power ≠ .dRetain → s.island.wrapped = false →
          ∃ t, exec (.power ⟨pins, seq⟩ ack .dRetain) s = .next t ∧ taken 0x02 mgDenied [] t ∧ t.mgmt.power = s.mgmt.power) ∧
        (s.mgmt.power ≠ .dRetain →
          ∃ t, exec (.power ⟨pins, seq⟩ ack .dOff) s = .next t ∧ t.mgmt.power = .dOff ∧ t.mem = [] ∧ t.gangs = [])) ∧
      (s.mgmt.power ≠ .dRetain → migrationRuns s = true → ∀ target,
        ∃ t, exec (.power ⟨pins, seq⟩ ack target) s = .next t ∧ taken 0x02 mgBusy [] t ∧ t.mgmt.power = s.mgmt.power) ∧
      (unitExists unit = true → ∀ clear,
        ∃ t, exec (.errcount ⟨pins, seq⟩ ack clear unit) s = .next t ∧
          taken 0x03 mgOk (leBytes 4 (tabGet s.mgmt.ce unit.toNat 0).toNat ++ leBytes 4 (tabGet s.mgmt.ue unit.toNat 0).toNat) t ∧
          tabGet t.mgmt.ce unit.toNat 0 = (if clear = 1 then 0 else tabGet s.mgmt.ce unit.toNat 0) ∧
          tabGet t.mgmt.ue unit.toNat 0 = (if clear = 1 then 0 else tabGet s.mgmt.ue unit.toNat 0))) ∧
    (s.mgmt.power ≠ .dOff → mgmtOpen s pins = true → seq = 1 ∨ seq = m.got + 1 →
      ∃ t, exec (.resync ⟨pins, seq⟩ ack) s = .next t ∧
        box t { m with got := seq, acked := if seq = 1 ∧ m.got ≠ 0 then m.next - 1 else ack, next := m.next + 1,
                       bells := dropBells m.bells seq } ∧
        answered 0x04 mgOk m.got (leBytes 4 m.got.toNat ++ leBytes 4 m.next.toNat) t) ∧
    (s.mgmt.power ≠ .dOff → mgmtOpen s pins = true → 1 < seqDiff seq.toNat m.got.toNat → seqDiff seq.toNat m.got.toNat < 2 ^ 31 →
      ∃ t, exec (.identity ⟨pins, seq⟩ ack) s = .next t ∧ box t { scanOn { m with acked := ack } seq with next := m.next + 1 } ∧
        answered 0x01 mgBadreq m.got [] t) ∧
    (∃ t, exec .heartbeat s = .next t ∧ t.mgmt.beats = s.mgmt.beats + 1 ∧ MemKept s t ∧
      tabGet t.events.seqs (sourceId 7 0).toNat 0 = tabGet s.events.seqs (sourceId 7 0).toNat 0 + 1) ∧
    (idleDue s = true → ∃ t, exec .dIdleEntry s = .next t ∧ t.mgmt.power = .dIdle ∧ t.gangs = s.gangs ∧ t.ctxs = s.ctxs) ∧
    (∃ t, exec (.correctedError unit) s = .next t ∧ MemKept s t ∧
      let n := tabGet s.mgmt.ce unit.toNat 0
      let n' := if n = BitVec.allOnes 32 then n else n + 1
      tabGet t.mgmt.ce unit.toNat 0 = n' ∧
      tabGet t.events.seqs (sourceId 7 0).toNat 0 = tabGet s.events.seqs (sourceId 7 0).toNat 0 +
        (if n.toNat ≤ (Config.ceLimit unit).toNat ∧ (Config.ceLimit unit).toNat < n'.toNat then 1 else 0)) ∧
    (∀ pa, let k := backAddr s pa / 64
      let n := tabGet s.mgmt.ue unit.toNat 0
      ∃ t, exec (.uncorrectedDataError unit pa) s = .next t ∧ t.mem = s.mem ∧
        tabGet t.mgmt.ue unit.toNat 0 = (if n = BitVec.allOnes 32 then n else n + 1) ∧
        (∀ c, unit.toNat / 2 ^ 24 = 13 → tabFind s.caches.l2 (lineKey (unit.toNat % 2 ^ 24) pa) = some c →
          tabFind t.caches.l2 (lineKey (unit.toNat % 2 ^ 24) pa) = some { c with poison := true }) ∧
        (∀ c, unit.toNat / 2 ^ 24 = 12 → tabFind s.caches.l1 (lineKey (unit.toNat % 2 ^ 24) pa) = some c →
          tabFind t.caches.l1 (lineKey (unit.toNat % 2 ^ 24) pa) = some { c with poison := true } ∧ t.caches.l2 = s.caches.l2 ∧
          t.caches.basin = s.caches.basin ∧ t.caches.poison = s.caches.poison) ∧
        ((unit.toNat / 2 ^ 24 = 13 → tabFind s.caches.l2 (lineKey (unit.toNat % 2 ^ 24) pa) = none) →
          (unit.toNat / 2 ^ 24 = 12 → tabFind s.caches.l1 (lineKey (unit.toNat % 2 ^ 24) pa) = none) →
          (∀ c, tabFind s.caches.basin k = some c → tabFind t.caches.basin k = some { c with poison := true }) ∧
          (tabFind s.caches.basin k = none → tabFind t.caches.poison k = some ()))) ∧
    (∀ cause ctx, ∃ t, exec (.uncorrectedControlError unit cause ctx) s = .next t ∧ unit.toNat ∈ t.mgmt.halted ∧ MemKept s t ∧
      tabGet t.events.seqs (sourceId 7 0).toNat 0 = tabGet s.events.seqs (sourceId 7 0).toNat 0 + 1)

/-- The ports and register writes. A transmit descriptor is taken and its status written, and a frame leaves when that is 1, with its
FCS and sealed under its association; no frame is taken before the boot is complete; a frame that fails its check is counted; one
without a SecTAG goes to the queue of the system world, or is counted. A storage request goes to its drive or completes with its
status; a completion writes its status, 1 to 4, in the ring that the request came from. A halted port or engine takes none.
An access that meets a line its home does not serve now keeps its unit or its input waiting.
Software's write of a register, from the host core where it is one of a core's own page, and in a debug window from none, gives RW fields the value, clears W1C bits
written 1, keeps the rest, and starts what its request bits ask for. The statuses of malformed requests, and of those whose binding
or buffer has gone, are the model's choices (log 37) (R7, R372, R383 to R388). -/
def Obligations.PortSteps : Prop :=
  ∀ (s : State) (p q : Nat),
    (∀ x, ethQueue s p 0 q = some x → qTail s x ≠ qHead s x →
      (worldMay s x.world x.base (16 * x.size) = true →
        let d := physRead s (qSlot x (qHead s x) 16) 16
        let st := txStatus s p x d
        let touches := txTouches s p x
        let at_ := qSlot x (qHead s x) 16
        let bytes := physRead s (leAt d 0 8) (leAt d 8 2)
        (physReady s touches.1 touches.2 = false → ∃ t, exec (.txDescriptor p q) s = .next t ∧ qHead t x = qHead s x ∧ t.out = s.out) ∧
        (physReady s touches.1 touches.2 = true →
        ∃ t, exec (.txDescriptor p q) s = .next t ∧ qHead t x = (qHead s x + 1) % 2 ^ 32 ∧ MemKept s t ∧
          (isRemote s (at_ + 13) = false → physRead t (at_ + 13) 1 = leBytes 1 st.1) ∧
          (st = (1, none) → ∃ o, t.out = s.out ++ .frame p false (withFcs bytes) :: o) ∧
          (∀ a k, st = (1, some (a, k)) →
            ∃ o, t.out = s.out ++ .frame p true (withFcs (sealFrame k.key a.sci a.an a.pn bytes)) :: o) ∧
          (st.1 ≠ 1 → ∀ o ∈ t.out, o ∈ s.out ∨ ∃ h, o = .signal h))) ∧
      (worldMay s x.world x.base (16 * x.size) = false →
        ∃ t, exec (.txDescriptor p q) s = .next t ∧ regField t x.ctl 7 7 = 1 ∧ qHead t x = qHead s x ∧ t.out = s.out)) ∧
    (∀ f : FrameIn, s.mgmt.booted = false ∨ unitDead s 10 p = true → exec (.rxFrame p f) s = .next s) ∧
    (∀ f : FrameIn, s.mgmt.booted = true → unitDead s 10 p = false → rxWaits s p = true →
      ∃ t, exec (.rxFrame p f) s = .next t ∧ t.mgmt.late = s.mgmt.late ++ [.frame p f] ∧ { t with mgmt := s.mgmt } = s) ∧
    (∀ f : FrameIn, s.mgmt.booted = true → unitDead s 10 p = false → rxWaits s p = false → f.fcsOk = false →
      ∃ t, exec (.rxFrame p f) s = .next t ∧ { t with sys := s.sys } = s ∧
        regField t (.ecnt0 p) 31 0 = min (2 ^ 32 - 1) (regField s (.ecnt0 p) 31 0 + 1)) ∧
    (∀ f : FrameIn, s.mgmt.booted = true → unitDead s 10 p = false → rxWaits s p = false → f.fcsOk = true → f.secTag = none →
      let n := regField s (.epctl p) 6 1
      (regField s (.epctl p) 0 0 ≠ 1 ∨ ethWorld s p 1 n ≠ 0 →
        ∃ t, exec (.rxFrame p f) s = .next t ∧ { t with sys := s.sys } = s ∧
          regField t (.ecnt1 p) 63 32 = min (2 ^ 32 - 1) (regField s (.ecnt1 p) 63 32 + 1)) ∧
      (∀ x slots, regField s (.epctl p) 0 0 = 1 → ethWorld s p 1 n = 0 → ethQueue s p 1 n = some x →
        worldMay s x.world x.base (16 * x.size) = true →
        let buf := regField s x.ctl 45 32
        256 ≤ buf → buf ≤ 16320 → buf % 64 = 0 →
        rxSlots s x none buf ((f.bytes.length + buf - 1) / buf) x.size (qHead s x) = .found slots →
        physReady s (slots.map fun e => (qSlot x e.1 16, 16)) (rxWrites s x buf f.bytes 0xFFFF slots) = true →
        ∃ t, exec (.rxFrame p f) s = .next t ∧ qHead t x = (qHead s x + slots.length) % 2 ^ 32 ∧
          (f.bytes.length ≤ 9216 → slots.length ≤ 1024 → MemKept s t))) ∧
    (∀ x n, storQueue s p q = some x → storNext s p q x = some n → worldMay s x.world x.base (64 * x.size) = true →
      physReady s (storReads s x n) [] = true →
      let r := physRead s (qSlot x n 64) 64
      (∀ st, storAction s x r = .inl st → physReady s (storReads s x n) (storWrites s x n st 0 0) = true →
        ∃ t, exec (.storageRequest p q) s = .next t ∧ MemKept s t ∧
          (isRemote s (qSlot x n 64 + 48) = false → physRead t (qSlot x n 64 + 48) 2 = leBytes 2 st) ∧
          t.mgmt.drives = s.mgmt.drives) ∧
      (∀ data, storAction s x r = .inr data →
        ∃ t, exec (.storageRequest p q) s = .next t ∧ t.out = s.out ++ [.drive p (leAt r 2 2) r data] ∧
          tabFind t.mgmt.drives s.nextId = some { port := p, queue := q, slot := n, base := x.base, size := x.size, world := x.world,
                                                  bytes := r } ∧ t.mem = s.mem)) ∧
    (∀ tag d status cdw0 data, tabFind s.mgmt.drives tag = some d →
      (unitDead s 11 d.port = true → exec (.driveCompletion tag status cdw0 data) s = .next s) ∧
      (unitDead s 11 d.port = false →
        let x := driveQueue d
        let c := if leAt d.bytes 0 1 = 4 then cdw0.toNat else 0
        let st := if status ≠ 0 then 2 else if storKey s x d.bytes = false then 3 else if storStill s x d.bytes = true then 1 else 4
        let writes := (if st = 1 then storLand s x d.bytes data else []) ++
          storWrites s x d.slot st (if st = 2 then status.toNat else 0) (if st ≤ 2 then c else 0)
        (physReady s (landReads s x d.bytes) [] = false ∨ physReady s (landReads s x d.bytes) writes = false →
          ∃ t, exec (.driveCompletion tag status cdw0 data) s = .next t ∧
            t.mgmt.late = s.mgmt.late ++ [.drive tag status cdw0 data] ∧ t.mgmt.drives = s.mgmt.drives ∧ t.out = s.out) ∧
        (physReady s (landReads s x d.bytes) [] = true → physReady s (landReads s x d.bytes) writes = true →
        ∃ t, exec (.driveCompletion tag status cdw0 data) s = .next t ∧ tabFind t.mgmt.drives tag = none ∧
          (leAt d.bytes 0 1 ≠ 1 ∨ status ≠ 0 → MemKept s t) ∧
          (worldMay s d.world d.base (64 * d.size) = true → isRemote s (qSlot x d.slot 64 + 48) = false →
            physRead t (qSlot x d.slot 64 + 48) 2 = leBytes 2 st) ∧
          (worldMay s d.world d.base (64 * d.size) = false → regField t (.sqctl d.port d.queue) 7 7 = 1)))) ∧
    (∀ x v, s.mgmt.booted = false ∨ pageClosed x = true → exec (.registerWrite x v) s = .next s) ∧
    (∀ x v, (∃ n, (x.reg = .ibqbase n ∨ x.reg = .ibrbase n ∨ x.reg = .ibdb n ∨ x.reg = .ibctl n) ∧ x.host.map (·.toNat) ≠ some n) ∨
        (∃ c o, x.reg = .debug c o ∧ x.host ≠ none) → exec (.registerWrite x v) s = .next s) ∧
    (∀ x v, s.mgmt.booted = true → pageClosed x = false → let r := x.reg
      ∃ t, exec (.registerWrite x v) s = .next t ∧ t.agenda = registerStarts r v ++ s.agenda ∧ MemKept s t ∧
      (ownRow r = false → (r = .devnum → wbits v 12 0 < 4608) → (∀ c o, r = .debug c o → o < 0x040 ∨ 0x0C0 ≤ o) →
        reg t r = writeFields (regFields r) (reg s r) v) ∧
      (r = .devnum → 4608 ≤ wbits v 12 0 → reg t r = reg s r) ∧
      (r = .xlinvs → regField t r 0 0 = regField s r 0 0 ∧
        regField t r 1 1 = if v.getLsbD 1 then 0 else regField s r 1 1))

/-- The debugger's requests and the park operations. A halt is requested and completes, a resume and a step let gangs go on, the
program buffer starts, and a sample is taken, each only for the context that the core's unit serves, and where it needs permission
only with it; a release makes the parked requests it takes new requests again, a cancel destroys everything of its context, and an
invalidation is over when no covered translation is cached. What each debug request does where the rules are silent (log 22), what a
cancel drops (log 23), and that a release clears DONE at its start and counts a replay behind an access parked outside it as out (log
45), are the model's choices (R98 to R105, R107, R179, R236, R237). -/
def Obligations.DebugAndParkSteps : Prop :=
  ∀ (s : State) (core : Nat),
    (∀ uid b, debugBlock s core = some (uid, b) → tabFind s.blocks uid = some b → b.core = core → b.index < 32 →
      (debugPermitted s b.ctx b.world = false →
        (∃ t, exec (.debugHalt core) s = .next t ∧ regField t (.debug core 8) 32 32 = 1 ∧ { t with sys := s.sys } = s) ∧
        (∃ t, exec (.debugStep core) s = .next t ∧ regField t (.debug core 8) 32 32 = 1 ∧ { t with sys := s.sys } = s) ∧
        (∃ t, exec (.programBufferGo core) s = .next t ∧ regField t (.debug core 8) 32 32 = 1 ∧
          reg t (.debug core 0x208) = 0xC3 ∧ { t with sys := s.sys } = s)) ∧
      (debugPermitted s b.ctx b.world = true → b.halted = false →
        ∃ t, exec (.debugHalt core) s = .next t ∧ tabFind t.blocks uid = some { b with haltReq := true } ∧
          { t with blocks := s.blocks } = s) ∧
      (resumable s uid b = true →
        ∃ t, exec (.debugResume core) s = .next t ∧ tabFind t.blocks uid = some { b with halted := false, haltReq := false } ∧
          (reg t (.debug core 8)).getLsbD b.index = false ∧
          ∀ k g, tabFind s.gangs k = some g → ∃ h, tabFind t.gangs k = some h ∧
            { h with woken := g.woken } = if g.block = uid
              then { g with halted := g.halted && !g.mended, mended := false, atHalt := false, held := none, skipBp := true,
                            stepLeft := none } else g) ∧
      (let n := regField s (.debug core 0x010) 17 8
       let key := 32 * uid + regField s (.debug core 0x010) 7 3
       ∀ g, debugPermitted s b.ctx b.world = true → b.halted = true → n ≠ 0 → tabFind s.gangs key = some g → g.retired = false →
        ∃ t, exec (.debugStep core) s = .next t ∧ OnlyGang s t key ∧
          tabFind t.gangs key = some { g with held := none, skipBp := true, stepLeft := some n }) ∧
      (∀ key e g, debugPermitted s b.ctx b.world = true → b.halted = true → tabFind s.stuffing core = none →
        bufferTarget s core uid = some (key, e, g) →
        ∃ t st, exec (.programBufferGo core) s = .next t ∧ reg t (.debug core 0x208) = 1 ∧ tabFind t.stuffing core = some st ∧
          st.gang = key ∧ st.entry = e ∧ st.next = 0 ∧ st.count = regField s (.debug core 0x200) 3 0 + 1 ∧ t.gangs = s.gangs)) ∧
    (∀ uid b, debugBlock s core = none → debugSaved s core = some (uid, b) → debugPermitted s b.ctx b.world = true →
      b.halted = false → exec (.debugHalt core) s =
        .next { s with savedBlocks := tabPut s.savedBlocks uid { b with haltReq := true } }) ∧
    (∀ uid b, tabFind s.blocks uid = some b → b.haltReq = true → restoring s b.ctx = false → b.index < 32 →
      (∀ e ∈ liveGangs s uid, e.2.atHalt = true) →
      ∃ t, exec (.haltComplete uid) s = .next t ∧ tabFind t.blocks uid = some { b with haltReq := false, halted := true } ∧
        (reg t (.debug b.core 8)).getLsbD b.index = true ∧ MemKept s t) ∧
    (∀ n key g b, sampleDue s core = true → nextSlot s core = some (n, key, g, b) →
      ∃ t, exec (.debugSample core) s = .next t ∧ tabGet t.dbgNext core 0 = (n + 1) % 32 ∧ tabGet t.dbgLast core 0 = s.cycle ∧
        tabGet t.dbgSeq core 0 = tabGet s.dbgSeq core 0 + 1 ∧ MemKept s t) ∧
    (regField s .pkop 1 0 = 1 → regField s .pkops 0 0 = 0 →
      ∃ t, exec .parkRelease s = .next t ∧ MemKept s t ∧ t.gangs = s.gangs ∧
        regField t .pkops 63 32 = min (releaseList s).length 65535 ∧
        ((∃ k ∈ releaseList s, replayBlocked t k = false) →
          t.parks.replay = releaseList s ∧ regField t .pkops 0 0 = 1 ∧ regField t .pkops 1 1 = 0) ∧
        ((∀ k ∈ releaseList s, replayBlocked t k = true) →
          t.parks.replay = [] ∧ regField t .pkops 0 0 = 0 ∧ regField t .pkops 1 1 = 1) ∧
        ∀ k r, tabFind s.reqs k = some r → tabFind t.reqs k = some (if k ∈ releaseList s
          then (if r.kind = .write then { r with stage := .walk, replayed := true }
            else { r with stage := .walk, pa := 0, entered := 0, replayed := true }) else r)) ∧
    (regField s .pkop 1 0 = 2 → regField s .pkops 0 0 = 0 →
      let ctx := regField s .pkop 63 48
      (ctxHeld s ctx = true → ∃ t, exec .parkCancel s = .next t ∧ t.parks.cancel = some (ctx, false) ∧
        regField t .pkops 0 0 = 1 ∧ regField t .pkops 1 1 = 0 ∧ t.gangs = s.gangs ∧ t.blocks = s.blocks) ∧
      (ctxHeld s ctx = false → ∃ t, exec .parkCancel s = .next t ∧ MemKept s t ∧
        (posted t (ctxAddr t ctx + 64) = false → regField t .pkops 1 1 = 1 ∧ regField t .pkops 0 0 = 0 ∧ t.parks.cancel = none) ∧
        (posted t (ctxAddr t ctx + 64) = true → regField t .pkops 1 1 = 0 ∧ regField t .pkops 0 0 = 1 ∧
          t.parks.cancel = some (ctx, true)) ∧
        (∀ u b, tabFind t.blocks u = some b ∨ tabFind t.savedBlocks u = some b → b.ctx ≠ ctx) ∧
        (∀ u b, tabFind s.blocks u = some b → b.ctx = ctx → ∀ k g, tabFind t.gangs k = some g → g.block ≠ u) ∧
        (∀ k r, tabFind t.reqs k = some r → r.ctx = ctx → ∃ die, r.unit = some (domAgent die)) ∧ (∀ x ∈ t.parks.records, x.ctx ≠ ctx) ∧
        (∀ c, tabFind t.ctxs ctx = some c → c.st = .cancelled))) ∧
    (regField s .xlinvs 0 0 = 0 →
      ∃ t, exec .invalidation s = .next t ∧ regField t .xlinvs 0 0 = 1 ∧ t.caches.tlb = s.caches.tlb ∧ t.mem = s.mem ∧
        t.caches.inval = some (regField s .xlinvc 37 34, BitVec.ofNat 16 (regField s .xlinvc 31 16),
          BitVec.ofNat 16 (regField s .xlinvc 15 0), BitVec.ofNat 64 (regField s .xlinva 56 16 * 65536),
          regField s .xlinvc 33 32)) ∧
    (∀ v, s.caches.inval = some v →
      (s.reqs.any (fun e => invalWaits v e.2) = true → exec .invalidationDone s = .next s) ∧
      (s.reqs.any (fun e => invalWaits v e.2) = false →
        ∃ t, exec .invalidationDone s = .next t ∧ t.caches.inval = none ∧ (∀ e ∈ t.caches.tlb, invalCovers v e = false) ∧
          (∀ e ∈ s.caches.tlb, invalCovers v e = false → e ∈ t.caches.tlb) ∧
          regField t .xlinvs 0 0 = 0 ∧ regField t .xlinvs 1 1 = 1 ∧ t.reqs = s.reqs ∧ t.mem = s.mem))

/-- No instruction is refused, and none stops: whatever its operands and the state, an instruction that a gang issues answers a next
state when a gang is there to issue it, and every step of a unit or of an agent answers one in every state. -/
def Obligations.EveryInstructionRuns : Prop :=
  ∀ (i : Instr) (s : State), (hasWords i = true ∨ i = .emptyTurn → (issuing s).isSome = true) → ∃ t, exec i s = .next t

/-- Memory keeps its canonical form: addresses rise strictly, and no listed byte is the one that an unlisted address reads as. Every
step keeps it, from every state that has it. -/
def Obligations.MemoryStaysCanonical : Prop :=
  ∀ (s t : State), memoryOk s = true → step s = .next t → memoryOk t = true
end

