-- ==== Sys2Proof/Laws/Encoding.lean ====
section
/-! SUPPORT. What the fields of encoded words are: the layouts of scalar words and of lane triples (R44 to R49). -/

set_option linter.unusedSimpArgs false
set_option linter.unusedVariables false

namespace Sys2Proof.Laws

open Sys2Proof Sys2Proof.Machine

/-- A field of the operand bits of a scalar word (R44). -/
theorem scalarWord_low (c : BitVec 4) (o : BitVec 5) (l : BitVec 22) (lo n : Nat) (h : lo + n ≤ 22) :
    fld (scalarWord c o l) lo n = l.extractLsb' lo n := BitVec.extractLsb'_append_eq_of_add_le h

/-- The op of a scalar word (R44). -/
theorem scalarWord_op (c : BitVec 4) (o : BitVec 5) (l : BitVec 22) : fld (scalarWord c o l) 22 5 = o := by
  show BitVec.extractLsb' 22 5 ((0 : BitVec 1) ++ c ++ o ++ l) = o
  rw [BitVec.extractLsb'_append_eq_of_le (by decide), BitVec.extractLsb'_append_eq_of_add_le (by decide),
    BitVec.extractLsb'_eq_self]

/-- The class of a scalar word (R44). -/
theorem scalarWord_cls (c : BitVec 4) (o : BitVec 5) (l : BitVec 22) : fld (scalarWord c o l) 27 4 = c := by
  show BitVec.extractLsb' 27 4 ((0 : BitVec 1) ++ c ++ o ++ l) = c
  rw [BitVec.extractLsb'_append_eq_of_le (by decide), BitVec.extractLsb'_append_eq_of_le (by decide),
    BitVec.extractLsb'_append_eq_of_add_le (by decide), BitVec.extractLsb'_eq_self]

/-- Bit 31 of a scalar word is 0 (R42). -/
theorem scalarWord_top (c : BitVec 4) (o : BitVec 5) (l : BitVec 22) : (scalarWord c o l).getLsbD 31 = false := by
  show BitVec.getLsbD ((0 : BitVec 1) ++ c ++ o ++ l) 31 = false
  simp only [BitVec.getLsbD_append]
  simp

/-- A bit of the operand bits of a scalar word (R44). -/
theorem scalarWord_bit (c : BitVec 4) (o : BitVec 5) (l : BitVec 22) (k : Nat) (h : k < 22) :
    (scalarWord c o l).getLsbD k = l.getLsbD k := by
  show BitVec.getLsbD ((0 : BitVec 1) ++ c ++ o ++ l) k = _
  simp only [BitVec.getLsbD_append]
  simp [h]

/-- A bit of the operand bits of a scalar word, as an element (R44). -/
theorem scalarWord_get (c : BitVec 4) (o : BitVec 5) (l : BitVec 22) (k : Nat) (h : k < 22) :
    (scalarWord c o l)[k] = l[k] := by
  have := scalarWord_bit c o l k h
  rwa [BitVec.getLsbD_eq_getElem (by omega), BitVec.getLsbD_eq_getElem h] at this

/-- The operand bits of a scalar word (R44). -/
theorem scalarWord_low22 (c : BitVec 4) (o : BitVec 5) (l : BitVec 22) : low22 (scalarWord c o l) = l := by
  rw [low22, scalarWord_low c o l 0 22 (by decide), BitVec.extractLsb'_eq_self]

/-- A scalar word decodes by its class, op and operand bits (R44, R59). -/
theorem decode_scalarWord (c : BitVec 4) (o : BitVec 5) (l : BitVec 22) (w1 w2 : W32) :
    decodeWords (scalarWord c o l) w1 w2 =
      match scalarOp? c.toNat o.toNat (scalarWord c o l) with
      | none => .illegal 2
      | some none => .illegal 3
      | some (some (i, zeros)) => if !zeros then .illegal 4 else match scalarCheck i with
        | 0 => .instr i
        | step => .illegal step := by
  rw [decodeWords, scalarWord_top, if_neg (by decide), decodeScalar, scalarWord_cls, scalarWord_op] <;> rfl

/-- A scalar word whose op names an instruction with zero unused fields and a passed check decodes to it (R59). -/
theorem decode_scalar_of (c : BitVec 4) (o : BitVec 5) (l : BitVec 22) (w1 w2 : W32) (i : Instr)
    (h : scalarOp? c.toNat o.toNat (scalarWord c o l) = some (some (i, true))) (hc : scalarCheck i = 0) :
    decodeWords (scalarWord c o l) w1 w2 = .instr i := by
  simp [decode_scalarWord, h, hc]

/-- Fields of 3 + 3 + 6 + 10 operand bits (R44). -/
theorem layout_3_3_6_10 (x0 : BitVec 3) (x1 : BitVec 3) (x2 : BitVec 6) (x3 : BitVec 10) :
    (x0 ++ x1 ++ x2 ++ x3 : BitVec 22).extractLsb' 19 3 = x0 ∧
    (x0 ++ x1 ++ x2 ++ x3 : BitVec 22).extractLsb' 16 3 = x1 ∧
    (x0 ++ x1 ++ x2 ++ x3 : BitVec 22).extractLsb' 10 6 = x2 ∧
    (x0 ++ x1 ++ x2 ++ x3 : BitVec 22).extractLsb' 0 10 = x3 := by
  refine ⟨?_, ?_, ?_, ?_⟩
  · show BitVec.extractLsb' 19 3 (x0 ++ x1 ++ x2 ++ x3) = x0
    simp (disch := decide) only [BitVec.extractLsb'_append_eq_of_le, BitVec.extractLsb'_append_eq_of_add_le,
      Nat.reduceSub, BitVec.extractLsb'_eq_self]
  · show BitVec.extractLsb' 16 3 (x0 ++ x1 ++ x2 ++ x3) = x1
    simp (disch := decide) only [BitVec.extractLsb'_append_eq_of_le, BitVec.extractLsb'_append_eq_of_add_le,
      Nat.reduceSub, BitVec.extractLsb'_eq_self]
  · show BitVec.extractLsb' 10 6 (x0 ++ x1 ++ x2 ++ x3) = x2
    simp (disch := decide) only [BitVec.extractLsb'_append_eq_of_le, BitVec.extractLsb'_append_eq_of_add_le,
      Nat.reduceSub, BitVec.extractLsb'_eq_self]
  · show BitVec.extractLsb' 0 10 (x0 ++ x1 ++ x2 ++ x3) = x3
    simp (disch := decide) only [BitVec.extractLsb'_append_eq_of_le, BitVec.extractLsb'_append_eq_of_add_le,
      Nat.reduceSub, BitVec.extractLsb'_eq_self]

/-- Fields of 6 + 1 + 3 + 6 + 6 operand bits (R44). -/
theorem layout_6_1_3_6_6 (x0 : BitVec 6) (x1 : BitVec 1) (x2 : BitVec 3) (x3 : BitVec 6) (x4 : BitVec 6) :
    (x0 ++ x1 ++ x2 ++ x3 ++ x4 : BitVec 22).extractLsb' 16 6 = x0 ∧
    (x0 ++ x1 ++ x2 ++ x3 ++ x4 : BitVec 22).extractLsb' 15 1 = x1 ∧
    (x0 ++ x1 ++ x2 ++ x3 ++ x4 : BitVec 22).extractLsb' 12 3 = x2 ∧
    (x0 ++ x1 ++ x2 ++ x3 ++ x4 : BitVec 22).extractLsb' 6 6 = x3 ∧
    (x0 ++ x1 ++ x2 ++ x3 ++ x4 : BitVec 22).extractLsb' 0 6 = x4 := by
  refine ⟨?_, ?_, ?_, ?_, ?_⟩
  · show BitVec.extractLsb' 16 6 (x0 ++ x1 ++ x2 ++ x3 ++ x4) = x0
    simp (disch := decide) only [BitVec.extractLsb'_append_eq_of_le, BitVec.extractLsb'_append_eq_of_add_le,
      Nat.reduceSub, BitVec.extractLsb'_eq_self]
  · show BitVec.extractLsb' 15 1 (x0 ++ x1 ++ x2 ++ x3 ++ x4) = x1
    simp (disch := decide) only [BitVec.extractLsb'_append_eq_of_le, BitVec.extractLsb'_append_eq_of_add_le,
      Nat.reduceSub, BitVec.extractLsb'_eq_self]
  · show BitVec.extractLsb' 12 3 (x0 ++ x1 ++ x2 ++ x3 ++ x4) = x2
    simp (disch := decide) only [BitVec.extractLsb'_append_eq_of_le, BitVec.extractLsb'_append_eq_of_add_le,
      Nat.reduceSub, BitVec.extractLsb'_eq_self]
  · show BitVec.extractLsb' 6 6 (x0 ++ x1 ++ x2 ++ x3 ++ x4) = x3
    simp (disch := decide) only [BitVec.extractLsb'_append_eq_of_le, BitVec.extractLsb'_append_eq_of_add_le,
      Nat.reduceSub, BitVec.extractLsb'_eq_self]
  · show BitVec.extractLsb' 0 6 (x0 ++ x1 ++ x2 ++ x3 ++ x4) = x4
    simp (disch := decide) only [BitVec.extractLsb'_append_eq_of_le, BitVec.extractLsb'_append_eq_of_add_le,
      Nat.reduceSub, BitVec.extractLsb'_eq_self]

/-- Fields of 6 + 6 + 4 + 6 operand bits (R44). -/
theorem layout_6_6_4_6 (x0 : BitVec 6) (x1 : BitVec 6) (x2 : BitVec 4) (x3 : BitVec 6) :
    (x0 ++ x1 ++ x2 ++ x3 : BitVec 22).extractLsb' 16 6 = x0 ∧
    (x0 ++ x1 ++ x2 ++ x3 : BitVec 22).extractLsb' 10 6 = x1 ∧
    (x0 ++ x1 ++ x2 ++ x3 : BitVec 22).extractLsb' 6 4 = x2 ∧
    (x0 ++ x1 ++ x2 ++ x3 : BitVec 22).extractLsb' 0 6 = x3 := by
  refine ⟨?_, ?_, ?_, ?_⟩
  · show BitVec.extractLsb' 16 6 (x0 ++ x1 ++ x2 ++ x3) = x0
    simp (disch := decide) only [BitVec.extractLsb'_append_eq_of_le, BitVec.extractLsb'_append_eq_of_add_le,
      Nat.reduceSub, BitVec.extractLsb'_eq_self]
  · show BitVec.extractLsb' 10 6 (x0 ++ x1 ++ x2 ++ x3) = x1
    simp (disch := decide) only [BitVec.extractLsb'_append_eq_of_le, BitVec.extractLsb'_append_eq_of_add_le,
      Nat.reduceSub, BitVec.extractLsb'_eq_self]
  · show BitVec.extractLsb' 6 4 (x0 ++ x1 ++ x2 ++ x3) = x2
    simp (disch := decide) only [BitVec.extractLsb'_append_eq_of_le, BitVec.extractLsb'_append_eq_of_add_le,
      Nat.reduceSub, BitVec.extractLsb'_eq_self]
  · show BitVec.extractLsb' 0 6 (x0 ++ x1 ++ x2 ++ x3) = x3
    simp (disch := decide) only [BitVec.extractLsb'_append_eq_of_le, BitVec.extractLsb'_append_eq_of_add_le,
      Nat.reduceSub, BitVec.extractLsb'_eq_self]

/-- Fields of 6 + 6 + 6 + 2 + 2 operand bits (R44). -/
theorem layout_6_6_6_2_2 (x0 : BitVec 6) (x1 : BitVec 6) (x2 : BitVec 6) (x3 : BitVec 2) (x4 : BitVec 2) :
    (x0 ++ x1 ++ x2 ++ x3 ++ x4 : BitVec 22).extractLsb' 16 6 = x0 ∧
    (x0 ++ x1 ++ x2 ++ x3 ++ x4 : BitVec 22).extractLsb' 10 6 = x1 ∧
    (x0 ++ x1 ++ x2 ++ x3 ++ x4 : BitVec 22).extractLsb' 4 6 = x2 ∧
    (x0 ++ x1 ++ x2 ++ x3 ++ x4 : BitVec 22).extractLsb' 2 2 = x3 ∧
    (x0 ++ x1 ++ x2 ++ x3 ++ x4 : BitVec 22).extractLsb' 0 2 = x4 := by
  refine ⟨?_, ?_, ?_, ?_, ?_⟩
  · show BitVec.extractLsb' 16 6 (x0 ++ x1 ++ x2 ++ x3 ++ x4) = x0
    simp (disch := decide) only [BitVec.extractLsb'_append_eq_of_le, BitVec.extractLsb'_append_eq_of_add_le,
      Nat.reduceSub, BitVec.extractLsb'_eq_self]
  · show BitVec.extractLsb' 10 6 (x0 ++ x1 ++ x2 ++ x3 ++ x4) = x1
    simp (disch := decide) only [BitVec.extractLsb'_append_eq_of_le, BitVec.extractLsb'_append_eq_of_add_le,
      Nat.reduceSub, BitVec.extractLsb'_eq_self]
  · show BitVec.extractLsb' 4 6 (x0 ++ x1 ++ x2 ++ x3 ++ x4) = x2
    simp (disch := decide) only [BitVec.extractLsb'_append_eq_of_le, BitVec.extractLsb'_append_eq_of_add_le,
      Nat.reduceSub, BitVec.extractLsb'_eq_self]
  · show BitVec.extractLsb' 2 2 (x0 ++ x1 ++ x2 ++ x3 ++ x4) = x3
    simp (disch := decide) only [BitVec.extractLsb'_append_eq_of_le, BitVec.extractLsb'_append_eq_of_add_le,
      Nat.reduceSub, BitVec.extractLsb'_eq_self]
  · show BitVec.extractLsb' 0 2 (x0 ++ x1 ++ x2 ++ x3 ++ x4) = x4
    simp (disch := decide) only [BitVec.extractLsb'_append_eq_of_le, BitVec.extractLsb'_append_eq_of_add_le,
      Nat.reduceSub, BitVec.extractLsb'_eq_self]

/-- Fields of 6 + 6 + 6 + 3 + 1 operand bits (R44). -/
theorem layout_6_6_6_3_1 (x0 : BitVec 6) (x1 : BitVec 6) (x2 : BitVec 6) (x3 : BitVec 3) (x4 : BitVec 1) :
    (x0 ++ x1 ++ x2 ++ x3 ++ x4 : BitVec 22).extractLsb' 16 6 = x0 ∧
    (x0 ++ x1 ++ x2 ++ x3 ++ x4 : BitVec 22).extractLsb' 10 6 = x1 ∧
    (x0 ++ x1 ++ x2 ++ x3 ++ x4 : BitVec 22).extractLsb' 4 6 = x2 ∧
    (x0 ++ x1 ++ x2 ++ x3 ++ x4 : BitVec 22).extractLsb' 1 3 = x3 ∧
    (x0 ++ x1 ++ x2 ++ x3 ++ x4 : BitVec 22).extractLsb' 0 1 = x4 := by
  refine ⟨?_, ?_, ?_, ?_, ?_⟩
  · show BitVec.extractLsb' 16 6 (x0 ++ x1 ++ x2 ++ x3 ++ x4) = x0
    simp (disch := decide) only [BitVec.extractLsb'_append_eq_of_le, BitVec.extractLsb'_append_eq_of_add_le,
      Nat.reduceSub, BitVec.extractLsb'_eq_self]
  · show BitVec.extractLsb' 10 6 (x0 ++ x1 ++ x2 ++ x3 ++ x4) = x1
    simp (disch := decide) only [BitVec.extractLsb'_append_eq_of_le, BitVec.extractLsb'_append_eq_of_add_le,
      Nat.reduceSub, BitVec.extractLsb'_eq_self]
  · show BitVec.extractLsb' 4 6 (x0 ++ x1 ++ x2 ++ x3 ++ x4) = x2
    simp (disch := decide) only [BitVec.extractLsb'_append_eq_of_le, BitVec.extractLsb'_append_eq_of_add_le,
      Nat.reduceSub, BitVec.extractLsb'_eq_self]
  · show BitVec.extractLsb' 1 3 (x0 ++ x1 ++ x2 ++ x3 ++ x4) = x3
    simp (disch := decide) only [BitVec.extractLsb'_append_eq_of_le, BitVec.extractLsb'_append_eq_of_add_le,
      Nat.reduceSub, BitVec.extractLsb'_eq_self]
  · show BitVec.extractLsb' 0 1 (x0 ++ x1 ++ x2 ++ x3 ++ x4) = x4
    simp (disch := decide) only [BitVec.extractLsb'_append_eq_of_le, BitVec.extractLsb'_append_eq_of_add_le,
      Nat.reduceSub, BitVec.extractLsb'_eq_self]

/-- The last bit of those operand bits (R44). -/
theorem layout_6_6_6_3_1_bit (x0 : BitVec 6) (x1 : BitVec 6) (x2 : BitVec 6) (x3 : BitVec 3) (m : Bool) :
    (x0 ++ x1 ++ x2 ++ x3 ++ BitVec.ofBool m : BitVec 22)[0] = m := by
  rw [← BitVec.getLsbD_eq_getElem]
  show BitVec.getLsbD (x0 ++ x1 ++ x2 ++ x3 ++ BitVec.ofBool m) 0 = m
  simp only [BitVec.getLsbD_append]
  simp

/-- Fields of 6 + 6 + 6 + 4 operand bits (R44). -/
theorem layout_6_6_6_4 (x0 : BitVec 6) (x1 : BitVec 6) (x2 : BitVec 6) (x3 : BitVec 4) :
    (x0 ++ x1 ++ x2 ++ x3 : BitVec 22).extractLsb' 16 6 = x0 ∧
    (x0 ++ x1 ++ x2 ++ x3 : BitVec 22).extractLsb' 10 6 = x1 ∧
    (x0 ++ x1 ++ x2 ++ x3 : BitVec 22).extractLsb' 4 6 = x2 ∧
    (x0 ++ x1 ++ x2 ++ x3 : BitVec 22).extractLsb' 0 4 = x3 := by
  refine ⟨?_, ?_, ?_, ?_⟩
  · show BitVec.extractLsb' 16 6 (x0 ++ x1 ++ x2 ++ x3) = x0
    simp (disch := decide) only [BitVec.extractLsb'_append_eq_of_le, BitVec.extractLsb'_append_eq_of_add_le,
      Nat.reduceSub, BitVec.extractLsb'_eq_self]
  · show BitVec.extractLsb' 10 6 (x0 ++ x1 ++ x2 ++ x3) = x1
    simp (disch := decide) only [BitVec.extractLsb'_append_eq_of_le, BitVec.extractLsb'_append_eq_of_add_le,
      Nat.reduceSub, BitVec.extractLsb'_eq_self]
  · show BitVec.extractLsb' 4 6 (x0 ++ x1 ++ x2 ++ x3) = x2
    simp (disch := decide) only [BitVec.extractLsb'_append_eq_of_le, BitVec.extractLsb'_append_eq_of_add_le,
      Nat.reduceSub, BitVec.extractLsb'_eq_self]
  · show BitVec.extractLsb' 0 4 (x0 ++ x1 ++ x2 ++ x3) = x3
    simp (disch := decide) only [BitVec.extractLsb'_append_eq_of_le, BitVec.extractLsb'_append_eq_of_add_le,
      Nat.reduceSub, BitVec.extractLsb'_eq_self]

/-- Fields of 6 + 6 + 8 + 2 operand bits (R44). -/
theorem layout_6_6_8_2 (x0 : BitVec 6) (x1 : BitVec 6) (x2 : BitVec 8) (x3 : BitVec 2) :
    (x0 ++ x1 ++ x2 ++ x3 : BitVec 22).extractLsb' 16 6 = x0 ∧
    (x0 ++ x1 ++ x2 ++ x3 : BitVec 22).extractLsb' 10 6 = x1 ∧
    (x0 ++ x1 ++ x2 ++ x3 : BitVec 22).extractLsb' 2 8 = x2 ∧
    (x0 ++ x1 ++ x2 ++ x3 : BitVec 22).extractLsb' 0 2 = x3 := by
  refine ⟨?_, ?_, ?_, ?_⟩
  · show BitVec.extractLsb' 16 6 (x0 ++ x1 ++ x2 ++ x3) = x0
    simp (disch := decide) only [BitVec.extractLsb'_append_eq_of_le, BitVec.extractLsb'_append_eq_of_add_le,
      Nat.reduceSub, BitVec.extractLsb'_eq_self]
  · show BitVec.extractLsb' 10 6 (x0 ++ x1 ++ x2 ++ x3) = x1
    simp (disch := decide) only [BitVec.extractLsb'_append_eq_of_le, BitVec.extractLsb'_append_eq_of_add_le,
      Nat.reduceSub, BitVec.extractLsb'_eq_self]
  · show BitVec.extractLsb' 2 8 (x0 ++ x1 ++ x2 ++ x3) = x2
    simp (disch := decide) only [BitVec.extractLsb'_append_eq_of_le, BitVec.extractLsb'_append_eq_of_add_le,
      Nat.reduceSub, BitVec.extractLsb'_eq_self]
  · show BitVec.extractLsb' 0 2 (x0 ++ x1 ++ x2 ++ x3) = x3
    simp (disch := decide) only [BitVec.extractLsb'_append_eq_of_le, BitVec.extractLsb'_append_eq_of_add_le,
      Nat.reduceSub, BitVec.extractLsb'_eq_self]

/-- Fields of 6 + 6 + 10 operand bits (R44). -/
theorem layout_6_6_10 (x0 : BitVec 6) (x1 : BitVec 6) (x2 : BitVec 10) :
    (x0 ++ x1 ++ x2 : BitVec 22).extractLsb' 16 6 = x0 ∧
    (x0 ++ x1 ++ x2 : BitVec 22).extractLsb' 10 6 = x1 ∧
    (x0 ++ x1 ++ x2 : BitVec 22).extractLsb' 0 10 = x2 := by
  refine ⟨?_, ?_, ?_⟩
  · show BitVec.extractLsb' 16 6 (x0 ++ x1 ++ x2) = x0
    simp (disch := decide) only [BitVec.extractLsb'_append_eq_of_le, BitVec.extractLsb'_append_eq_of_add_le,
      Nat.reduceSub, BitVec.extractLsb'_eq_self]
  · show BitVec.extractLsb' 10 6 (x0 ++ x1 ++ x2) = x1
    simp (disch := decide) only [BitVec.extractLsb'_append_eq_of_le, BitVec.extractLsb'_append_eq_of_add_le,
      Nat.reduceSub, BitVec.extractLsb'_eq_self]
  · show BitVec.extractLsb' 0 10 (x0 ++ x1 ++ x2) = x2
    simp (disch := decide) only [BitVec.extractLsb'_append_eq_of_le, BitVec.extractLsb'_append_eq_of_add_le,
      Nat.reduceSub, BitVec.extractLsb'_eq_self]

/-- Fields of 6 + 16 operand bits (R44). -/
theorem layout_6_16 (x0 : BitVec 6) (x1 : BitVec 16) :
    (x0 ++ x1 : BitVec 22).extractLsb' 16 6 = x0 ∧
    (x0 ++ x1 : BitVec 22).extractLsb' 0 16 = x1 := by
  refine ⟨?_, ?_⟩
  · show BitVec.extractLsb' 16 6 (x0 ++ x1) = x0
    simp (disch := decide) only [BitVec.extractLsb'_append_eq_of_le, BitVec.extractLsb'_append_eq_of_add_le,
      Nat.reduceSub, BitVec.extractLsb'_eq_self]
  · show BitVec.extractLsb' 0 16 (x0 ++ x1) = x1
    simp (disch := decide) only [BitVec.extractLsb'_append_eq_of_le, BitVec.extractLsb'_append_eq_of_add_le,
      Nat.reduceSub, BitVec.extractLsb'_eq_self]

/-- Fields of 7 + 3 + 6 + 6 operand bits (R44). -/
theorem layout_7_3_6_6 (x0 : BitVec 7) (x1 : BitVec 3) (x2 : BitVec 6) (x3 : BitVec 6) :
    (x0 ++ x1 ++ x2 ++ x3 : BitVec 22).extractLsb' 15 7 = x0 ∧
    (x0 ++ x1 ++ x2 ++ x3 : BitVec 22).extractLsb' 12 3 = x1 ∧
    (x0 ++ x1 ++ x2 ++ x3 : BitVec 22).extractLsb' 6 6 = x2 ∧
    (x0 ++ x1 ++ x2 ++ x3 : BitVec 22).extractLsb' 0 6 = x3 := by
  refine ⟨?_, ?_, ?_, ?_⟩
  · show BitVec.extractLsb' 15 7 (x0 ++ x1 ++ x2 ++ x3) = x0
    simp (disch := decide) only [BitVec.extractLsb'_append_eq_of_le, BitVec.extractLsb'_append_eq_of_add_le,
      Nat.reduceSub, BitVec.extractLsb'_eq_self]
  · show BitVec.extractLsb' 12 3 (x0 ++ x1 ++ x2 ++ x3) = x1
    simp (disch := decide) only [BitVec.extractLsb'_append_eq_of_le, BitVec.extractLsb'_append_eq_of_add_le,
      Nat.reduceSub, BitVec.extractLsb'_eq_self]
  · show BitVec.extractLsb' 6 6 (x0 ++ x1 ++ x2 ++ x3) = x2
    simp (disch := decide) only [BitVec.extractLsb'_append_eq_of_le, BitVec.extractLsb'_append_eq_of_add_le,
      Nat.reduceSub, BitVec.extractLsb'_eq_self]
  · show BitVec.extractLsb' 0 6 (x0 ++ x1 ++ x2 ++ x3) = x3
    simp (disch := decide) only [BitVec.extractLsb'_append_eq_of_le, BitVec.extractLsb'_append_eq_of_add_le,
      Nat.reduceSub, BitVec.extractLsb'_eq_self]

/-- Fields of 9 + 9 + 3 + 1 operand bits (R44). -/
theorem layout_9_9_3_1 (x0 : BitVec 9) (x1 : BitVec 9) (x2 : BitVec 3) (x3 : BitVec 1) :
    (x0 ++ x1 ++ x2 ++ x3 : BitVec 22).extractLsb' 13 9 = x0 ∧
    (x0 ++ x1 ++ x2 ++ x3 : BitVec 22).extractLsb' 4 9 = x1 ∧
    (x0 ++ x1 ++ x2 ++ x3 : BitVec 22).extractLsb' 1 3 = x2 ∧
    (x0 ++ x1 ++ x2 ++ x3 : BitVec 22).extractLsb' 0 1 = x3 := by
  refine ⟨?_, ?_, ?_, ?_⟩
  · show BitVec.extractLsb' 13 9 (x0 ++ x1 ++ x2 ++ x3) = x0
    simp (disch := decide) only [BitVec.extractLsb'_append_eq_of_le, BitVec.extractLsb'_append_eq_of_add_le,
      Nat.reduceSub, BitVec.extractLsb'_eq_self]
  · show BitVec.extractLsb' 4 9 (x0 ++ x1 ++ x2 ++ x3) = x1
    simp (disch := decide) only [BitVec.extractLsb'_append_eq_of_le, BitVec.extractLsb'_append_eq_of_add_le,
      Nat.reduceSub, BitVec.extractLsb'_eq_self]
  · show BitVec.extractLsb' 1 3 (x0 ++ x1 ++ x2 ++ x3) = x2
    simp (disch := decide) only [BitVec.extractLsb'_append_eq_of_le, BitVec.extractLsb'_append_eq_of_add_le,
      Nat.reduceSub, BitVec.extractLsb'_eq_self]
  · show BitVec.extractLsb' 0 1 (x0 ++ x1 ++ x2 ++ x3) = x3
    simp (disch := decide) only [BitVec.extractLsb'_append_eq_of_le, BitVec.extractLsb'_append_eq_of_add_le,
      Nat.reduceSub, BitVec.extractLsb'_eq_self]

/-- The last bit of those operand bits (R44). -/
theorem layout_9_9_3_1_bit (x0 : BitVec 9) (x1 : BitVec 9) (x2 : BitVec 3) (m : Bool) :
    (x0 ++ x1 ++ x2 ++ BitVec.ofBool m : BitVec 22)[0] = m := by
  rw [← BitVec.getLsbD_eq_getElem]
  show BitVec.getLsbD (x0 ++ x1 ++ x2 ++ BitVec.ofBool m) 0 = m
  simp only [BitVec.getLsbD_append]
  simp

/-- Bits above the operands of a fence (R195). -/
theorem layout_fence (x1 : BitVec 3) (x2 : BitVec 6) (x3 : BitVec 6) :
    (0#7 ++ x1 ++ x2 ++ x3 : BitVec 22).extractLsb' 16 6 = 0#6 ∧ (0#7 ++ x1 ++ x2 ++ x3 : BitVec 22)[15] = false := by
  constructor
  · show BitVec.extractLsb' 16 6 (0#7 ++ x1 ++ x2 ++ x3) = 0#6
    simp (disch := decide) only [BitVec.extractLsb'_append_eq_of_le, Nat.reduceSub]
    decide
  · rw [← BitVec.getLsbD_eq_getElem]
    show BitVec.getLsbD (0#7 ++ x1 ++ x2 ++ x3) 15 = false
    simp only [BitVec.getLsbD_append]
    simp

/-- Fields of the three words of a lane instruction (R47). -/
theorem laneWords_fields (cls : BitVec 4) (op : BitVec 6) (f : Lane) :
    laneFields ((laneWords cls op f).getD 0 0) ((laneWords cls op f).getD 1 0) ((laneWords cls op f).getD 2 0) = f := by
  obtain ⟨guard, neg, nwb, keep, ty, mod, dst, a, b, kd, c, imm⟩ := f
  have h0 : BitVec.extractLsb' 14 3 ((1 : BitVec 1) ++ cls ++ op ++ ty ++ guard ++ BitVec.ofBool neg ++ BitVec.ofBool nwb ++
      keep ++ mod) = guard := by
    simp (disch := decide) only [BitVec.extractLsb'_append_eq_of_le, BitVec.extractLsb'_append_eq_of_add_le,
      Nat.reduceSub, BitVec.extractLsb'_eq_self]
  have h1 : BitVec.getLsbD ((1 : BitVec 1) ++ cls ++ op ++ ty ++ guard ++ BitVec.ofBool neg ++ BitVec.ofBool nwb ++
      keep ++ mod) 13 = neg := by
    simp only [BitVec.getLsbD_append]; simp
  have h2 : BitVec.getLsbD ((1 : BitVec 1) ++ cls ++ op ++ ty ++ guard ++ BitVec.ofBool neg ++ BitVec.ofBool nwb ++
      keep ++ mod) 12 = nwb := by
    simp only [BitVec.getLsbD_append]; simp
  have h3 : BitVec.extractLsb' 10 2 ((1 : BitVec 1) ++ cls ++ op ++ ty ++ guard ++ BitVec.ofBool neg ++ BitVec.ofBool nwb ++
      keep ++ mod) = keep := by
    simp (disch := decide) only [BitVec.extractLsb'_append_eq_of_le, BitVec.extractLsb'_append_eq_of_add_le,
      Nat.reduceSub, BitVec.extractLsb'_eq_self]
  have h4 : BitVec.extractLsb' 17 4 ((1 : BitVec 1) ++ cls ++ op ++ ty ++ guard ++ BitVec.ofBool neg ++ BitVec.ofBool nwb ++
      keep ++ mod) = ty := by
    simp (disch := decide) only [BitVec.extractLsb'_append_eq_of_le, BitVec.extractLsb'_append_eq_of_add_le,
      Nat.reduceSub, BitVec.extractLsb'_eq_self]
  have h5 : BitVec.extractLsb' 0 10 ((1 : BitVec 1) ++ cls ++ op ++ ty ++ guard ++ BitVec.ofBool neg ++ BitVec.ofBool nwb ++
      keep ++ mod) = mod := by
    simp (disch := decide) only [BitVec.extractLsb'_append_eq_of_le, BitVec.extractLsb'_append_eq_of_add_le,
      Nat.reduceSub, BitVec.extractLsb'_eq_self]
  have h6 : BitVec.extractLsb' 23 9 (dst ++ a ++ b ++ kd) = dst := by
    simp (disch := decide) only [BitVec.extractLsb'_append_eq_of_le, BitVec.extractLsb'_append_eq_of_add_le,
      Nat.reduceSub, BitVec.extractLsb'_eq_self]
  have h7 : BitVec.extractLsb' 13 10 (dst ++ a ++ b ++ kd) = a := by
    simp (disch := decide) only [BitVec.extractLsb'_append_eq_of_le, BitVec.extractLsb'_append_eq_of_add_le,
      Nat.reduceSub, BitVec.extractLsb'_eq_self]
  have h8 : BitVec.extractLsb' 3 10 (dst ++ a ++ b ++ kd) = b := by
    simp (disch := decide) only [BitVec.extractLsb'_append_eq_of_le, BitVec.extractLsb'_append_eq_of_add_le,
      Nat.reduceSub, BitVec.extractLsb'_eq_self]
  have h9 : BitVec.extractLsb' 0 3 (dst ++ a ++ b ++ kd) = kd := by
    simp (disch := decide) only [BitVec.extractLsb'_append_eq_of_le, BitVec.extractLsb'_append_eq_of_add_le,
      Nat.reduceSub, BitVec.extractLsb'_eq_self]
  have h10 : BitVec.extractLsb' 22 10 (c ++ imm) = c := by
    simp (disch := decide) only [BitVec.extractLsb'_append_eq_of_le, Nat.reduceSub, BitVec.extractLsb'_eq_self]
  have h11 : BitVec.extractLsb' 0 22 (c ++ imm) = imm := by
    simp (disch := decide) only [BitVec.extractLsb'_append_eq_of_add_le, BitVec.extractLsb'_eq_self]
  exact Lane.mk.injEq .. ▸ ⟨h0, h1, h2, h3, h4, h5, h6, h7, h8, h9, h10, h11⟩

/-- Class of the first word of a lane instruction (R47). -/
theorem laneWords_cls (cls : BitVec 4) (op : BitVec 6) (f : Lane) : fld ((laneWords cls op f).getD 0 0) 27 4 = cls := by
  show BitVec.extractLsb' 27 4 ((1 : BitVec 1) ++ cls ++ op ++ f.ty ++ f.guard ++ BitVec.ofBool f.neg ++
    BitVec.ofBool f.nwb ++ f.keep ++ f.mod) = cls
  simp (disch := decide) only [BitVec.extractLsb'_append_eq_of_le, BitVec.extractLsb'_append_eq_of_add_le,
    Nat.reduceSub, BitVec.extractLsb'_eq_self]

/-- Op of the first word of a lane instruction (R47). -/
theorem laneWords_op (cls : BitVec 4) (op : BitVec 6) (f : Lane) : fld ((laneWords cls op f).getD 0 0) 21 6 = op := by
  show BitVec.extractLsb' 21 6 ((1 : BitVec 1) ++ cls ++ op ++ f.ty ++ f.guard ++ BitVec.ofBool f.neg ++
    BitVec.ofBool f.nwb ++ f.keep ++ f.mod) = op
  simp (disch := decide) only [BitVec.extractLsb'_append_eq_of_le, BitVec.extractLsb'_append_eq_of_add_le,
    Nat.reduceSub, BitVec.extractLsb'_eq_self]

/-- Bit 31 of the first word of a lane instruction is 1 (R42). -/
theorem laneWords_top (cls : BitVec 4) (op : BitVec 6) (f : Lane) :
    ((laneWords cls op f).getD 0 0).getLsbD 31 = true := by
  show BitVec.getLsbD ((1 : BitVec 1) ++ cls ++ op ++ f.ty ++ f.guard ++ BitVec.ofBool f.neg ++
    BitVec.ofBool f.nwb ++ f.keep ++ f.mod) 31 = true
  simp only [BitVec.getLsbD_append]
  simp

/-- The words of a lane instruction whose fields pass the checks decode to it (R47, R59). -/
theorem decode_lane_of (cls op : Nat) (mk : Lane → Instr) (row : LaneRow) (f : Lane) (hc : cls < 8) (ho : op < 64)
    (hm : laneInstr? cls op = some mk) (hr : laneRow? cls op = some row) (h : laneCheck row f = 0) :
    decodeWords ((laneWords (BitVec.ofNat 4 cls) (BitVec.ofNat 6 op) f).getD 0 0)
      ((laneWords (BitVec.ofNat 4 cls) (BitVec.ofNat 6 op) f).getD 1 0)
      ((laneWords (BitVec.ofNat 4 cls) (BitVec.ofNat 6 op) f).getD 2 0) = .instr (mk f) := by
  rw [decodeWords, laneWords_top, if_pos rfl, decodeLane, laneWords_cls, laneWords_op, laneWords_fields]
  have h1 : (BitVec.ofNat 4 cls).toNat = cls := by simp; omega
  have h2 : (BitVec.ofNat 6 op).toNat = op := by simp; omega
  simp only [h1, h2, hm, hr, h, if_neg (Nat.not_le.mpr hc)]

/-- The bytes of a word make the word again (R4). -/
theorem wordOfBytes_bytesOfWord (w : W32) (r : List Byte) : wordOfBytes (bytesOfWord w ++ r) = w := by
  show BitVec.extractLsb' 24 8 w ++ BitVec.extractLsb' 16 8 w ++ BitVec.extractLsb' 8 8 w ++ BitVec.extractLsb' 0 8 w = w
  apply BitVec.eq_of_getLsbD_eq
  intro i hi
  simp only [BitVec.getLsbD_append, BitVec.getLsbD_extractLsb']
  by_cases h1 : i < 8
  · simp [h1]
  · by_cases h2 : i < 16
    · simp [h1, show i - 8 < 8 by omega, show 8 + (i - 8) = i by omega]
    · by_cases h3 : i < 24
      · simp [h1, show ¬ i - 8 < 8 by omega, show i - 8 - 8 < 8 by omega, show 16 + (i - 8 - 8) = i by omega]
      · simp [h1, show ¬ i - 8 < 8 by omega, show ¬ i - 8 - 8 < 8 by omega, show i - 8 - 8 - 8 < 8 by omega,
          show 24 + (i - 8 - 8 - 8) = i by omega]

end Sys2Proof.Laws
end

