-- ==== Sys2Proof/Laws/Table.lean ====
section
/-! SUPPORT. Laws of tables and of memory: read after write, what a write leaves alone, and the canonical form of memory, which
every memory operation keeps. -/

namespace Sys2Proof.Machine

/-- A key that was put holds the value that was put. -/
@[simp] theorem tabFind_tabPut_same {α : Type} (t : Tab α) (k : Nat) (a : α) : tabFind (tabPut t k a) k = some a := by
  induction t with
  | nil => simp [tabPut, tabFind]
  | cons e r ih =>
    obtain ⟨j, b⟩ := e
    simp only [tabPut]
    split
    · next h => simp [tabFind, Nat.ne_of_lt h, ih]
    · split <;> simp [tabFind]

/-- Putting one key leaves the others alone. -/
theorem tabFind_tabPut_other {α : Type} (t : Tab α) (k j : Nat) (a : α) (h : j ≠ k) :
    tabFind (tabPut t k a) j = tabFind t j := by
  induction t with
  | nil => simp [tabPut, tabFind, h.symm]
  | cons e r ih =>
    obtain ⟨i, b⟩ := e
    simp only [tabPut]
    split
    · simp only [tabFind]; split <;> simp [ih]
    · split
      · next hi => subst hi; simp [tabFind, h.symm]
      · simp [tabFind, h.symm]

/-- What a table holds after one key is put. -/
theorem tabFind_tabPut {α : Type} (t : Tab α) (k j : Nat) (a : α) :
    tabFind (tabPut t k a) j = if j = k then some a else tabFind t j := by
  by_cases h : j = k
  · simp [h]
  · simp [h, tabFind_tabPut_other t k j a h]

/-- A deleted key is absent. -/
@[simp] theorem tabFind_tabDel_same {α : Type} (t : Tab α) (k : Nat) : tabFind (tabDel t k) k = none := by
  induction t with
  | nil => rfl
  | cons e r ih =>
    obtain ⟨i, b⟩ := e
    simp only [tabDel]
    split
    · exact ih
    · next h => simp [tabFind, h, ih]

/-- Deleting one key leaves the others alone. -/
theorem tabFind_tabDel_other {α : Type} (t : Tab α) (k j : Nat) (h : j ≠ k) : tabFind (tabDel t k) j = tabFind t j := by
  induction t with
  | nil => rfl
  | cons e r ih =>
    obtain ⟨i, b⟩ := e
    simp only [tabDel]
    split
    · next hi => subst hi; simp [tabFind, h.symm, ih]
    · simp only [tabFind]; split <;> simp [ih]

/-- What a table holds after one key is changed. -/
theorem tabFind_tabUpd {α : Type} (t : Tab α) (k j : Nat) (f : α → α) :
    tabFind (tabUpd t k f) j = if j = k then (tabFind t k).map f else tabFind t j := by
  unfold tabUpd
  cases h : tabFind t k with
  | none => by_cases hj : j = k <;> simp [hj, h]
  | some a => simp [tabFind_tabPut]

/-- What a table holds after every value is changed. -/
theorem tabFind_tabMap {α : Type} (t : Tab α) (f : α → α) (k : Nat) : tabFind (tabMap t f) k = (tabFind t k).map f := by
  induction t with
  | nil => rfl
  | cons e r ih =>
    obtain ⟨i, b⟩ := e
    simp only [tabMap, List.map_cons, tabFind] at ih ⊢
    split <;> simp [ih]

/-- A byte that was stored reads back, and every other byte reads as before. -/
theorem memByte_memPut (m : List Host.Cell) (a x : Nat) (b : Byte) :
    memByte (memPut m a b) x = if x = a then b else memByte m x := by
  unfold memByte memPut tabGet
  split
  · next hb =>
    by_cases h : x = a
    · simp [h, hb]
    · simp [h, tabFind_tabDel_other m a x h]
  · by_cases h : x = a <;> simp [h, tabFind_tabPut]

/-- Keys that rise from a bound, with no zero byte: the canonical form from there on. -/
def risesFrom (n : Nat) (m : List Host.Cell) : Bool :=
  match m with
  | [] => true
  | (a, b) :: r => decide (n ≤ a) && b != 0 && risesFrom (a + 1) r

/-- The canonical form is the one whose keys rise from 0. -/
theorem wf_iff_rises (m : List Host.Cell) : Memory.wf m = risesFrom 0 m := by
  have key : ∀ (m : List Host.Cell) (a : Nat) (b : Byte),
      Memory.wf ((a, b) :: m) = (b != 0 && risesFrom (a + 1) m) := by
    intro m
    induction m with
    | nil => intro a b; simp [Memory.wf, risesFrom]
    | cons e r ih =>
      intro a b
      obtain ⟨c, d⟩ := e
      simp only [Memory.wf, ih, risesFrom]
      have : decide (a < c) = decide (a + 1 ≤ c) := rfl
      rw [this]
      cases decide (a + 1 ≤ c) <;> cases (b != 0) <;> rfl
  cases m with
  | nil => rfl
  | cons e r => obtain ⟨a, b⟩ := e; simp [key, risesFrom]

/-- A weaker bound. -/
theorem risesFrom_mono {n k : Nat} {m : List Host.Cell} (h : n ≤ k) (hm : risesFrom k m = true) : risesFrom n m = true := by
  cases m with
  | nil => rfl
  | cons e r =>
    obtain ⟨a, b⟩ := e
    simp only [risesFrom, Bool.and_eq_true, decide_eq_true_eq] at hm ⊢
    exact ⟨⟨by omega, hm.1.2⟩, hm.2⟩

/-- Putting a byte that is not zero keeps the rise. -/
theorem risesFrom_tabPut {n k : Nat} {b : Byte} (hb : (b != 0) = true) (hk : n ≤ k) (m : List Host.Cell)
    (hm : risesFrom n m = true) : risesFrom n (tabPut m k b) = true := by
  induction m generalizing n with
  | nil => simp [tabPut, risesFrom, hk]; simpa using hb
  | cons e r ih =>
    obtain ⟨a, c⟩ := e
    simp only [risesFrom, Bool.and_eq_true, decide_eq_true_eq] at hm
    simp only [tabPut]
    split
    · next h =>
      simp only [risesFrom, Bool.and_eq_true, decide_eq_true_eq]
      exact ⟨hm.1, ih (by omega) hm.2⟩
    · split
      · next h1 h =>
        subst h
        simp only [risesFrom, Bool.and_eq_true, decide_eq_true_eq]
        exact ⟨⟨hk, hb⟩, hm.2⟩
      · next h1 h2 =>
        simp only [risesFrom, Bool.and_eq_true, decide_eq_true_eq]
        exact ⟨⟨hk, hb⟩, ⟨by omega, hm.1.2⟩, hm.2⟩

/-- Deleting a key keeps the rise. -/
theorem risesFrom_tabDel {n : Nat} (k : Nat) (m : List Host.Cell) (hm : risesFrom n m = true) :
    risesFrom n (tabDel m k) = true := by
  induction m generalizing n with
  | nil => rfl
  | cons e r ih =>
    obtain ⟨a, c⟩ := e
    simp only [risesFrom, Bool.and_eq_true, decide_eq_true_eq] at hm
    simp only [tabDel]
    split
    · exact ih (risesFrom_mono (by omega) hm.2)
    · simp only [risesFrom, Bool.and_eq_true, decide_eq_true_eq]
      exact ⟨hm.1, ih hm.2⟩

/-- Storing a byte keeps the canonical form. -/
theorem wf_memPut {m : List Host.Cell} (a : Nat) (b : Byte) (h : Memory.wf m = true) : Memory.wf (memPut m a b) = true := by
  rw [wf_iff_rises] at h ⊢
  unfold memPut
  split
  · exact risesFrom_tabDel a m h
  · next hb => exact risesFrom_tabPut (by simpa using hb) (Nat.zero_le a) m h

/-- Storing bytes keeps the canonical form. -/
theorem wf_memPuts {m : List Host.Cell} (a : Nat) (bs : List Byte) (h : Memory.wf m = true) :
    Memory.wf (memPuts m a bs) = true := by
  induction bs generalizing m a with
  | nil => exact h
  | cons b r ih => exact ih (a + 1) (wf_memPut a b h)

/-- What a byte reads after bytes are stored. -/
theorem memByte_memPuts (m : List Host.Cell) (a x : Nat) (bs : List Byte) :
    memByte (memPuts m a bs) x = if a ≤ x ∧ x < a + bs.length then bs.getD (x - a) 0 else memByte m x := by
  induction bs generalizing m a with
  | nil => rw [if_neg (by simp only [List.length_nil]; omega)]; rfl
  | cons b r ih =>
    rw [memPuts, ih, memByte_memPut]
    simp only [List.length_cons]
    by_cases hx : x = a
    · subst hx
      rw [if_neg (by omega), if_pos rfl, if_pos (by omega), Nat.sub_self]
      rfl
    · by_cases h : a ≤ x ∧ x < a + (r.length + 1)
      · have h2 : x - a = (x - (a + 1)) + 1 := by omega
        rw [if_pos (by omega), if_pos h, h2]
        rfl
      · rw [if_neg (by omega), if_neg hx, if_neg h]

end Sys2Proof.Machine
end

