-- ==== Sys2Proof/Laws/State.lean ====
section
/-! SUPPORT. Fields of the state and of a gang after each named update: one lemma per field and update. -/

namespace Sys2Proof.Machine

/-! Fields of a state after putGang. -/

@[simp] theorem putGang_cycle (s : State) (k : Nat) (g : Gang) : (putGang s k g).cycle = s.cycle := rfl
@[simp] theorem putGang_tick (s : State) (k : Nat) (g : Gang) : (putGang s k g).tick = s.tick := rfl
@[simp] theorem putGang_agenda (s : State) (k : Nat) (g : Gang) : (putGang s k g).agenda = s.agenda := rfl
@[simp] theorem putGang_turns (s : State) (k : Nat) (g : Gang) : (putGang s k g).turns = s.turns := rfl
@[simp] theorem putGang_cur (s : State) (k : Nat) (g : Gang) : (putGang s k g).cur = s.cur := rfl
@[simp] theorem putGang_mem (s : State) (k : Nat) (g : Gang) : (putGang s k g).mem = s.mem := rfl
@[simp] theorem putGang_blocks (s : State) (k : Nat) (g : Gang) : (putGang s k g).blocks = s.blocks := rfl
@[simp] theorem putGang_savedGangs (s : State) (k : Nat) (g : Gang) : (putGang s k g).savedGangs = s.savedGangs := rfl
@[simp] theorem putGang_savedBlocks (s : State) (k : Nat) (g : Gang) : (putGang s k g).savedBlocks = s.savedBlocks := rfl
@[simp] theorem putGang_accs (s : State) (k : Nat) (g : Gang) : (putGang s k g).accs = s.accs := rfl
@[simp] theorem putGang_reqs (s : State) (k : Nat) (g : Gang) : (putGang s k g).reqs = s.reqs := rfl
@[simp] theorem putGang_nextId (s : State) (k : Nat) (g : Gang) : (putGang s k g).nextId = s.nextId := rfl
@[simp] theorem putGang_sys (s : State) (k : Nat) (g : Gang) : (putGang s k g).sys = s.sys := rfl
@[simp] theorem putGang_caches (s : State) (k : Nat) (g : Gang) : (putGang s k g).caches = s.caches := rfl
@[simp] theorem putGang_parks (s : State) (k : Nat) (g : Gang) : (putGang s k g).parks = s.parks := rfl
@[simp] theorem putGang_cmds (s : State) (k : Nat) (g : Gang) : (putGang s k g).cmds = s.cmds := rfl
@[simp] theorem putGang_groups (s : State) (k : Nat) (g : Gang) : (putGang s k g).groups = s.groups := rfl
@[simp] theorem putGang_claims (s : State) (k : Nat) (g : Gang) : (putGang s k g).claims = s.claims := rfl
@[simp] theorem putGang_mq (s : State) (k : Nat) (g : Gang) : (putGang s k g).mq = s.mq := rfl
@[simp] theorem putGang_dirs (s : State) (k : Nat) (g : Gang) : (putGang s k g).dirs = s.dirs := rfl
@[simp] theorem putGang_solicits (s : State) (k : Nat) (g : Gang) : (putGang s k g).solicits = s.solicits := rfl
@[simp] theorem putGang_handoffs (s : State) (k : Nat) (g : Gang) : (putGang s k g).handoffs = s.handoffs := rfl
@[simp] theorem putGang_censuses (s : State) (k : Nat) (g : Gang) : (putGang s k g).censuses = s.censuses := rfl
@[simp] theorem putGang_asks (s : State) (k : Nat) (g : Gang) : (putGang s k g).asks = s.asks := rfl
@[simp] theorem putGang_nextCensus (s : State) (k : Nat) (g : Gang) : (putGang s k g).nextCensus = s.nextCensus := rfl
@[simp] theorem putGang_deferred (s : State) (k : Nat) (g : Gang) : (putGang s k g).deferred = s.deferred := rfl
@[simp] theorem putGang_disp (s : State) (k : Nat) (g : Gang) : (putGang s k g).disp = s.disp := rfl
@[simp] theorem putGang_ctxs (s : State) (k : Nat) (g : Gang) : (putGang s k g).ctxs = s.ctxs := rfl
@[simp] theorem putGang_dom (s : State) (k : Nat) (g : Gang) : (putGang s k g).dom = s.dom := rfl
@[simp] theorem putGang_tiers (s : State) (k : Nat) (g : Gang) : (putGang s k g).tiers = s.tiers := rfl
@[simp] theorem putGang_links (s : State) (k : Nat) (g : Gang) : (putGang s k g).links = s.links := rfl
@[simp] theorem putGang_island (s : State) (k : Nat) (g : Gang) : (putGang s k g).island = s.island := rfl
@[simp] theorem putGang_mgmt (s : State) (k : Nat) (g : Gang) : (putGang s k g).mgmt = s.mgmt := rfl
@[simp] theorem putGang_events (s : State) (k : Nat) (g : Gang) : (putGang s k g).events = s.events := rfl
@[simp] theorem putGang_stuffing (s : State) (k : Nat) (g : Gang) : (putGang s k g).stuffing = s.stuffing := rfl
@[simp] theorem putGang_dbgSeq (s : State) (k : Nat) (g : Gang) : (putGang s k g).dbgSeq = s.dbgSeq := rfl
@[simp] theorem putGang_dbgNext (s : State) (k : Nat) (g : Gang) : (putGang s k g).dbgNext = s.dbgNext := rfl
@[simp] theorem putGang_dbgLast (s : State) (k : Nat) (g : Gang) : (putGang s k g).dbgLast = s.dbgLast := rfl
@[simp] theorem putGang_hostAccs (s : State) (k : Nat) (g : Gang) : (putGang s k g).hostAccs = s.hostAccs := rfl
@[simp] theorem putGang_hostVals (s : State) (k : Nat) (g : Gang) : (putGang s k g).hostVals = s.hostVals := rfl
@[simp] theorem putGang_hostResv (s : State) (k : Nat) (g : Gang) : (putGang s k g).hostResv = s.hostResv := rfl
@[simp] theorem putGang_out (s : State) (k : Nat) (g : Gang) : (putGang s k g).out = s.out := rfl

/-! Fields of a state after putBlock. -/

@[simp] theorem putBlock_cycle (s : State) (k : Nat) (b : Block) : (putBlock s k b).cycle = s.cycle := rfl
@[simp] theorem putBlock_tick (s : State) (k : Nat) (b : Block) : (putBlock s k b).tick = s.tick := rfl
@[simp] theorem putBlock_agenda (s : State) (k : Nat) (b : Block) : (putBlock s k b).agenda = s.agenda := rfl
@[simp] theorem putBlock_turns (s : State) (k : Nat) (b : Block) : (putBlock s k b).turns = s.turns := rfl
@[simp] theorem putBlock_cur (s : State) (k : Nat) (b : Block) : (putBlock s k b).cur = s.cur := rfl
@[simp] theorem putBlock_mem (s : State) (k : Nat) (b : Block) : (putBlock s k b).mem = s.mem := rfl
@[simp] theorem putBlock_gangs (s : State) (k : Nat) (b : Block) : (putBlock s k b).gangs = s.gangs := rfl
@[simp] theorem putBlock_savedGangs (s : State) (k : Nat) (b : Block) : (putBlock s k b).savedGangs = s.savedGangs := rfl
@[simp] theorem putBlock_savedBlocks (s : State) (k : Nat) (b : Block) : (putBlock s k b).savedBlocks = s.savedBlocks := rfl
@[simp] theorem putBlock_accs (s : State) (k : Nat) (b : Block) : (putBlock s k b).accs = s.accs := rfl
@[simp] theorem putBlock_reqs (s : State) (k : Nat) (b : Block) : (putBlock s k b).reqs = s.reqs := rfl
@[simp] theorem putBlock_nextId (s : State) (k : Nat) (b : Block) : (putBlock s k b).nextId = s.nextId := rfl
@[simp] theorem putBlock_sys (s : State) (k : Nat) (b : Block) : (putBlock s k b).sys = s.sys := rfl
@[simp] theorem putBlock_caches (s : State) (k : Nat) (b : Block) : (putBlock s k b).caches = s.caches := rfl
@[simp] theorem putBlock_parks (s : State) (k : Nat) (b : Block) : (putBlock s k b).parks = s.parks := rfl
@[simp] theorem putBlock_cmds (s : State) (k : Nat) (b : Block) : (putBlock s k b).cmds = s.cmds := rfl
@[simp] theorem putBlock_groups (s : State) (k : Nat) (b : Block) : (putBlock s k b).groups = s.groups := rfl
@[simp] theorem putBlock_claims (s : State) (k : Nat) (b : Block) : (putBlock s k b).claims = s.claims := rfl
@[simp] theorem putBlock_mq (s : State) (k : Nat) (b : Block) : (putBlock s k b).mq = s.mq := rfl
@[simp] theorem putBlock_dirs (s : State) (k : Nat) (b : Block) : (putBlock s k b).dirs = s.dirs := rfl
@[simp] theorem putBlock_solicits (s : State) (k : Nat) (b : Block) : (putBlock s k b).solicits = s.solicits := rfl
@[simp] theorem putBlock_handoffs (s : State) (k : Nat) (b : Block) : (putBlock s k b).handoffs = s.handoffs := rfl
@[simp] theorem putBlock_censuses (s : State) (k : Nat) (b : Block) : (putBlock s k b).censuses = s.censuses := rfl
@[simp] theorem putBlock_asks (s : State) (k : Nat) (b : Block) : (putBlock s k b).asks = s.asks := rfl
@[simp] theorem putBlock_nextCensus (s : State) (k : Nat) (b : Block) : (putBlock s k b).nextCensus = s.nextCensus := rfl
@[simp] theorem putBlock_deferred (s : State) (k : Nat) (b : Block) : (putBlock s k b).deferred = s.deferred := rfl
@[simp] theorem putBlock_disp (s : State) (k : Nat) (b : Block) : (putBlock s k b).disp = s.disp := rfl
@[simp] theorem putBlock_ctxs (s : State) (k : Nat) (b : Block) : (putBlock s k b).ctxs = s.ctxs := rfl
@[simp] theorem putBlock_dom (s : State) (k : Nat) (b : Block) : (putBlock s k b).dom = s.dom := rfl
@[simp] theorem putBlock_tiers (s : State) (k : Nat) (b : Block) : (putBlock s k b).tiers = s.tiers := rfl
@[simp] theorem putBlock_links (s : State) (k : Nat) (b : Block) : (putBlock s k b).links = s.links := rfl
@[simp] theorem putBlock_island (s : State) (k : Nat) (b : Block) : (putBlock s k b).island = s.island := rfl
@[simp] theorem putBlock_mgmt (s : State) (k : Nat) (b : Block) : (putBlock s k b).mgmt = s.mgmt := rfl
@[simp] theorem putBlock_events (s : State) (k : Nat) (b : Block) : (putBlock s k b).events = s.events := rfl
@[simp] theorem putBlock_stuffing (s : State) (k : Nat) (b : Block) : (putBlock s k b).stuffing = s.stuffing := rfl
@[simp] theorem putBlock_dbgSeq (s : State) (k : Nat) (b : Block) : (putBlock s k b).dbgSeq = s.dbgSeq := rfl
@[simp] theorem putBlock_dbgNext (s : State) (k : Nat) (b : Block) : (putBlock s k b).dbgNext = s.dbgNext := rfl
@[simp] theorem putBlock_dbgLast (s : State) (k : Nat) (b : Block) : (putBlock s k b).dbgLast = s.dbgLast := rfl
@[simp] theorem putBlock_hostAccs (s : State) (k : Nat) (b : Block) : (putBlock s k b).hostAccs = s.hostAccs := rfl
@[simp] theorem putBlock_hostVals (s : State) (k : Nat) (b : Block) : (putBlock s k b).hostVals = s.hostVals := rfl
@[simp] theorem putBlock_hostResv (s : State) (k : Nat) (b : Block) : (putBlock s k b).hostResv = s.hostResv := rfl
@[simp] theorem putBlock_out (s : State) (k : Nat) (b : Block) : (putBlock s k b).out = s.out := rfl

/-! Fields of a state after setReg. -/

@[simp] theorem setReg_cycle (s : State) (r : SysReg) (v : W64) : (setReg s r v).cycle = s.cycle := rfl
@[simp] theorem setReg_tick (s : State) (r : SysReg) (v : W64) : (setReg s r v).tick = s.tick := rfl
@[simp] theorem setReg_agenda (s : State) (r : SysReg) (v : W64) : (setReg s r v).agenda = s.agenda := rfl
@[simp] theorem setReg_turns (s : State) (r : SysReg) (v : W64) : (setReg s r v).turns = s.turns := rfl
@[simp] theorem setReg_cur (s : State) (r : SysReg) (v : W64) : (setReg s r v).cur = s.cur := rfl
@[simp] theorem setReg_mem (s : State) (r : SysReg) (v : W64) : (setReg s r v).mem = s.mem := rfl
@[simp] theorem setReg_gangs (s : State) (r : SysReg) (v : W64) : (setReg s r v).gangs = s.gangs := rfl
@[simp] theorem setReg_blocks (s : State) (r : SysReg) (v : W64) : (setReg s r v).blocks = s.blocks := rfl
@[simp] theorem setReg_savedGangs (s : State) (r : SysReg) (v : W64) : (setReg s r v).savedGangs = s.savedGangs := rfl
@[simp] theorem setReg_savedBlocks (s : State) (r : SysReg) (v : W64) : (setReg s r v).savedBlocks = s.savedBlocks := rfl
@[simp] theorem setReg_accs (s : State) (r : SysReg) (v : W64) : (setReg s r v).accs = s.accs := rfl
@[simp] theorem setReg_reqs (s : State) (r : SysReg) (v : W64) : (setReg s r v).reqs = s.reqs := rfl
@[simp] theorem setReg_nextId (s : State) (r : SysReg) (v : W64) : (setReg s r v).nextId = s.nextId := rfl
@[simp] theorem setReg_caches (s : State) (r : SysReg) (v : W64) : (setReg s r v).caches = s.caches := rfl
@[simp] theorem setReg_parks (s : State) (r : SysReg) (v : W64) : (setReg s r v).parks = s.parks := rfl
@[simp] theorem setReg_cmds (s : State) (r : SysReg) (v : W64) : (setReg s r v).cmds = s.cmds := rfl
@[simp] theorem setReg_groups (s : State) (r : SysReg) (v : W64) : (setReg s r v).groups = s.groups := rfl
@[simp] theorem setReg_claims (s : State) (r : SysReg) (v : W64) : (setReg s r v).claims = s.claims := rfl
@[simp] theorem setReg_mq (s : State) (r : SysReg) (v : W64) : (setReg s r v).mq = s.mq := rfl
@[simp] theorem setReg_dirs (s : State) (r : SysReg) (v : W64) : (setReg s r v).dirs = s.dirs := rfl
@[simp] theorem setReg_solicits (s : State) (r : SysReg) (v : W64) : (setReg s r v).solicits = s.solicits := rfl
@[simp] theorem setReg_handoffs (s : State) (r : SysReg) (v : W64) : (setReg s r v).handoffs = s.handoffs := rfl
@[simp] theorem setReg_censuses (s : State) (r : SysReg) (v : W64) : (setReg s r v).censuses = s.censuses := rfl
@[simp] theorem setReg_asks (s : State) (r : SysReg) (v : W64) : (setReg s r v).asks = s.asks := rfl
@[simp] theorem setReg_nextCensus (s : State) (r : SysReg) (v : W64) : (setReg s r v).nextCensus = s.nextCensus := rfl
@[simp] theorem setReg_deferred (s : State) (r : SysReg) (v : W64) : (setReg s r v).deferred = s.deferred := rfl
@[simp] theorem setReg_disp (s : State) (r : SysReg) (v : W64) : (setReg s r v).disp = s.disp := rfl
@[simp] theorem setReg_ctxs (s : State) (r : SysReg) (v : W64) : (setReg s r v).ctxs = s.ctxs := rfl
@[simp] theorem setReg_dom (s : State) (r : SysReg) (v : W64) : (setReg s r v).dom = s.dom := rfl
@[simp] theorem setReg_tiers (s : State) (r : SysReg) (v : W64) : (setReg s r v).tiers = s.tiers := rfl
@[simp] theorem setReg_links (s : State) (r : SysReg) (v : W64) : (setReg s r v).links = s.links := rfl
@[simp] theorem setReg_island (s : State) (r : SysReg) (v : W64) : (setReg s r v).island = s.island := rfl
@[simp] theorem setReg_mgmt (s : State) (r : SysReg) (v : W64) : (setReg s r v).mgmt = s.mgmt := rfl
@[simp] theorem setReg_events (s : State) (r : SysReg) (v : W64) : (setReg s r v).events = s.events := rfl
@[simp] theorem setReg_stuffing (s : State) (r : SysReg) (v : W64) : (setReg s r v).stuffing = s.stuffing := rfl
@[simp] theorem setReg_dbgSeq (s : State) (r : SysReg) (v : W64) : (setReg s r v).dbgSeq = s.dbgSeq := rfl
@[simp] theorem setReg_dbgNext (s : State) (r : SysReg) (v : W64) : (setReg s r v).dbgNext = s.dbgNext := rfl
@[simp] theorem setReg_dbgLast (s : State) (r : SysReg) (v : W64) : (setReg s r v).dbgLast = s.dbgLast := rfl
@[simp] theorem setReg_hostAccs (s : State) (r : SysReg) (v : W64) : (setReg s r v).hostAccs = s.hostAccs := rfl
@[simp] theorem setReg_hostVals (s : State) (r : SysReg) (v : W64) : (setReg s r v).hostVals = s.hostVals := rfl
@[simp] theorem setReg_hostResv (s : State) (r : SysReg) (v : W64) : (setReg s r v).hostResv = s.hostResv := rfl
@[simp] theorem setReg_out (s : State) (r : SysReg) (v : W64) : (setReg s r v).out = s.out := rfl

/-! Fields of a state after putReq. -/

@[simp] theorem putReq_cycle (s : State) (r : Req) : (putReq s r).cycle = s.cycle := rfl
@[simp] theorem putReq_tick (s : State) (r : Req) : (putReq s r).tick = s.tick := rfl
@[simp] theorem putReq_agenda (s : State) (r : Req) : (putReq s r).agenda = s.agenda := rfl
@[simp] theorem putReq_turns (s : State) (r : Req) : (putReq s r).turns = s.turns := rfl
@[simp] theorem putReq_cur (s : State) (r : Req) : (putReq s r).cur = s.cur := rfl
@[simp] theorem putReq_mem (s : State) (r : Req) : (putReq s r).mem = s.mem := rfl
@[simp] theorem putReq_gangs (s : State) (r : Req) : (putReq s r).gangs = s.gangs := rfl
@[simp] theorem putReq_blocks (s : State) (r : Req) : (putReq s r).blocks = s.blocks := rfl
@[simp] theorem putReq_savedGangs (s : State) (r : Req) : (putReq s r).savedGangs = s.savedGangs := rfl
@[simp] theorem putReq_savedBlocks (s : State) (r : Req) : (putReq s r).savedBlocks = s.savedBlocks := rfl
@[simp] theorem putReq_accs (s : State) (r : Req) : (putReq s r).accs = s.accs := rfl
@[simp] theorem putReq_sys (s : State) (r : Req) : (putReq s r).sys = s.sys := rfl
@[simp] theorem putReq_caches (s : State) (r : Req) : (putReq s r).caches = s.caches := rfl
@[simp] theorem putReq_parks (s : State) (r : Req) : (putReq s r).parks = s.parks := rfl
@[simp] theorem putReq_cmds (s : State) (r : Req) : (putReq s r).cmds = s.cmds := rfl
@[simp] theorem putReq_groups (s : State) (r : Req) : (putReq s r).groups = s.groups := rfl
@[simp] theorem putReq_claims (s : State) (r : Req) : (putReq s r).claims = s.claims := rfl
@[simp] theorem putReq_mq (s : State) (r : Req) : (putReq s r).mq = s.mq := rfl
@[simp] theorem putReq_dirs (s : State) (r : Req) : (putReq s r).dirs = s.dirs := rfl
@[simp] theorem putReq_solicits (s : State) (r : Req) : (putReq s r).solicits = s.solicits := rfl
@[simp] theorem putReq_handoffs (s : State) (r : Req) : (putReq s r).handoffs = s.handoffs := rfl
@[simp] theorem putReq_censuses (s : State) (r : Req) : (putReq s r).censuses = s.censuses := rfl
@[simp] theorem putReq_asks (s : State) (r : Req) : (putReq s r).asks = s.asks := rfl
@[simp] theorem putReq_nextCensus (s : State) (r : Req) : (putReq s r).nextCensus = s.nextCensus := rfl
@[simp] theorem putReq_deferred (s : State) (r : Req) : (putReq s r).deferred = s.deferred := rfl
@[simp] theorem putReq_disp (s : State) (r : Req) : (putReq s r).disp = s.disp := rfl
@[simp] theorem putReq_ctxs (s : State) (r : Req) : (putReq s r).ctxs = s.ctxs := rfl
@[simp] theorem putReq_dom (s : State) (r : Req) : (putReq s r).dom = s.dom := rfl
@[simp] theorem putReq_tiers (s : State) (r : Req) : (putReq s r).tiers = s.tiers := rfl
@[simp] theorem putReq_links (s : State) (r : Req) : (putReq s r).links = s.links := rfl
@[simp] theorem putReq_island (s : State) (r : Req) : (putReq s r).island = s.island := rfl
@[simp] theorem putReq_mgmt (s : State) (r : Req) : (putReq s r).mgmt = s.mgmt := rfl
@[simp] theorem putReq_events (s : State) (r : Req) : (putReq s r).events = s.events := rfl
@[simp] theorem putReq_stuffing (s : State) (r : Req) : (putReq s r).stuffing = s.stuffing := rfl
@[simp] theorem putReq_dbgSeq (s : State) (r : Req) : (putReq s r).dbgSeq = s.dbgSeq := rfl
@[simp] theorem putReq_dbgNext (s : State) (r : Req) : (putReq s r).dbgNext = s.dbgNext := rfl
@[simp] theorem putReq_dbgLast (s : State) (r : Req) : (putReq s r).dbgLast = s.dbgLast := rfl
@[simp] theorem putReq_hostAccs (s : State) (r : Req) : (putReq s r).hostAccs = s.hostAccs := rfl
@[simp] theorem putReq_hostVals (s : State) (r : Req) : (putReq s r).hostVals = s.hostVals := rfl
@[simp] theorem putReq_hostResv (s : State) (r : Req) : (putReq s r).hostResv = s.hostResv := rfl
@[simp] theorem putReq_out (s : State) (r : Req) : (putReq s r).out = s.out := rfl

/-! Fields of a state after putAccess. -/

@[simp] theorem putAccess_cycle (s : State) (a : Access) : (putAccess s a).cycle = s.cycle := rfl
@[simp] theorem putAccess_tick (s : State) (a : Access) : (putAccess s a).tick = s.tick := rfl
@[simp] theorem putAccess_agenda (s : State) (a : Access) : (putAccess s a).agenda = s.agenda := rfl
@[simp] theorem putAccess_turns (s : State) (a : Access) : (putAccess s a).turns = s.turns := rfl
@[simp] theorem putAccess_cur (s : State) (a : Access) : (putAccess s a).cur = s.cur := rfl
@[simp] theorem putAccess_mem (s : State) (a : Access) : (putAccess s a).mem = s.mem := rfl
@[simp] theorem putAccess_gangs (s : State) (a : Access) : (putAccess s a).gangs = s.gangs := rfl
@[simp] theorem putAccess_blocks (s : State) (a : Access) : (putAccess s a).blocks = s.blocks := rfl
@[simp] theorem putAccess_savedGangs (s : State) (a : Access) : (putAccess s a).savedGangs = s.savedGangs := rfl
@[simp] theorem putAccess_savedBlocks (s : State) (a : Access) : (putAccess s a).savedBlocks = s.savedBlocks := rfl
@[simp] theorem putAccess_reqs (s : State) (a : Access) : (putAccess s a).reqs = s.reqs := rfl
@[simp] theorem putAccess_sys (s : State) (a : Access) : (putAccess s a).sys = s.sys := rfl
@[simp] theorem putAccess_caches (s : State) (a : Access) : (putAccess s a).caches = s.caches := rfl
@[simp] theorem putAccess_parks (s : State) (a : Access) : (putAccess s a).parks = s.parks := rfl
@[simp] theorem putAccess_cmds (s : State) (a : Access) : (putAccess s a).cmds = s.cmds := rfl
@[simp] theorem putAccess_groups (s : State) (a : Access) : (putAccess s a).groups = s.groups := rfl
@[simp] theorem putAccess_claims (s : State) (a : Access) : (putAccess s a).claims = s.claims := rfl
@[simp] theorem putAccess_mq (s : State) (a : Access) : (putAccess s a).mq = s.mq := rfl
@[simp] theorem putAccess_dirs (s : State) (a : Access) : (putAccess s a).dirs = s.dirs := rfl
@[simp] theorem putAccess_solicits (s : State) (a : Access) : (putAccess s a).solicits = s.solicits := rfl
@[simp] theorem putAccess_handoffs (s : State) (a : Access) : (putAccess s a).handoffs = s.handoffs := rfl
@[simp] theorem putAccess_censuses (s : State) (a : Access) : (putAccess s a).censuses = s.censuses := rfl
@[simp] theorem putAccess_asks (s : State) (a : Access) : (putAccess s a).asks = s.asks := rfl
@[simp] theorem putAccess_nextCensus (s : State) (a : Access) : (putAccess s a).nextCensus = s.nextCensus := rfl
@[simp] theorem putAccess_deferred (s : State) (a : Access) : (putAccess s a).deferred = s.deferred := rfl
@[simp] theorem putAccess_disp (s : State) (a : Access) : (putAccess s a).disp = s.disp := rfl
@[simp] theorem putAccess_ctxs (s : State) (a : Access) : (putAccess s a).ctxs = s.ctxs := rfl
@[simp] theorem putAccess_dom (s : State) (a : Access) : (putAccess s a).dom = s.dom := rfl
@[simp] theorem putAccess_tiers (s : State) (a : Access) : (putAccess s a).tiers = s.tiers := rfl
@[simp] theorem putAccess_links (s : State) (a : Access) : (putAccess s a).links = s.links := rfl
@[simp] theorem putAccess_island (s : State) (a : Access) : (putAccess s a).island = s.island := rfl
@[simp] theorem putAccess_mgmt (s : State) (a : Access) : (putAccess s a).mgmt = s.mgmt := rfl
@[simp] theorem putAccess_events (s : State) (a : Access) : (putAccess s a).events = s.events := rfl
@[simp] theorem putAccess_stuffing (s : State) (a : Access) : (putAccess s a).stuffing = s.stuffing := rfl
@[simp] theorem putAccess_dbgSeq (s : State) (a : Access) : (putAccess s a).dbgSeq = s.dbgSeq := rfl
@[simp] theorem putAccess_dbgNext (s : State) (a : Access) : (putAccess s a).dbgNext = s.dbgNext := rfl
@[simp] theorem putAccess_dbgLast (s : State) (a : Access) : (putAccess s a).dbgLast = s.dbgLast := rfl
@[simp] theorem putAccess_hostAccs (s : State) (a : Access) : (putAccess s a).hostAccs = s.hostAccs := rfl
@[simp] theorem putAccess_hostVals (s : State) (a : Access) : (putAccess s a).hostVals = s.hostVals := rfl
@[simp] theorem putAccess_hostResv (s : State) (a : Access) : (putAccess s a).hostResv = s.hostResv := rfl
@[simp] theorem putAccess_out (s : State) (a : Access) : (putAccess s a).out = s.out := rfl

/-! Fields of a state after updReq. -/

@[simp] theorem updReq_cycle (s : State) (id : Nat) (f : Req → Req) : (updReq s id f).cycle = s.cycle := rfl
@[simp] theorem updReq_tick (s : State) (id : Nat) (f : Req → Req) : (updReq s id f).tick = s.tick := rfl
@[simp] theorem updReq_agenda (s : State) (id : Nat) (f : Req → Req) : (updReq s id f).agenda = s.agenda := rfl
@[simp] theorem updReq_turns (s : State) (id : Nat) (f : Req → Req) : (updReq s id f).turns = s.turns := rfl
@[simp] theorem updReq_cur (s : State) (id : Nat) (f : Req → Req) : (updReq s id f).cur = s.cur := rfl
@[simp] theorem updReq_mem (s : State) (id : Nat) (f : Req → Req) : (updReq s id f).mem = s.mem := rfl
@[simp] theorem updReq_gangs (s : State) (id : Nat) (f : Req → Req) : (updReq s id f).gangs = s.gangs := rfl
@[simp] theorem updReq_blocks (s : State) (id : Nat) (f : Req → Req) : (updReq s id f).blocks = s.blocks := rfl
@[simp] theorem updReq_savedGangs (s : State) (id : Nat) (f : Req → Req) : (updReq s id f).savedGangs = s.savedGangs := rfl
@[simp] theorem updReq_savedBlocks (s : State) (id : Nat) (f : Req → Req) : (updReq s id f).savedBlocks = s.savedBlocks := rfl
@[simp] theorem updReq_accs (s : State) (id : Nat) (f : Req → Req) : (updReq s id f).accs = s.accs := rfl
@[simp] theorem updReq_nextId (s : State) (id : Nat) (f : Req → Req) : (updReq s id f).nextId = s.nextId := rfl
@[simp] theorem updReq_sys (s : State) (id : Nat) (f : Req → Req) : (updReq s id f).sys = s.sys := rfl
@[simp] theorem updReq_caches (s : State) (id : Nat) (f : Req → Req) : (updReq s id f).caches = s.caches := rfl
@[simp] theorem updReq_parks (s : State) (id : Nat) (f : Req → Req) : (updReq s id f).parks = s.parks := rfl
@[simp] theorem updReq_cmds (s : State) (id : Nat) (f : Req → Req) : (updReq s id f).cmds = s.cmds := rfl
@[simp] theorem updReq_groups (s : State) (id : Nat) (f : Req → Req) : (updReq s id f).groups = s.groups := rfl
@[simp] theorem updReq_claims (s : State) (id : Nat) (f : Req → Req) : (updReq s id f).claims = s.claims := rfl
@[simp] theorem updReq_mq (s : State) (id : Nat) (f : Req → Req) : (updReq s id f).mq = s.mq := rfl
@[simp] theorem updReq_dirs (s : State) (id : Nat) (f : Req → Req) : (updReq s id f).dirs = s.dirs := rfl
@[simp] theorem updReq_solicits (s : State) (id : Nat) (f : Req → Req) : (updReq s id f).solicits = s.solicits := rfl
@[simp] theorem updReq_handoffs (s : State) (id : Nat) (f : Req → Req) : (updReq s id f).handoffs = s.handoffs := rfl
@[simp] theorem updReq_censuses (s : State) (id : Nat) (f : Req → Req) : (updReq s id f).censuses = s.censuses := rfl
@[simp] theorem updReq_asks (s : State) (id : Nat) (f : Req → Req) : (updReq s id f).asks = s.asks := rfl
@[simp] theorem updReq_nextCensus (s : State) (id : Nat) (f : Req → Req) : (updReq s id f).nextCensus = s.nextCensus := rfl
@[simp] theorem updReq_deferred (s : State) (id : Nat) (f : Req → Req) : (updReq s id f).deferred = s.deferred := rfl
@[simp] theorem updReq_disp (s : State) (id : Nat) (f : Req → Req) : (updReq s id f).disp = s.disp := rfl
@[simp] theorem updReq_ctxs (s : State) (id : Nat) (f : Req → Req) : (updReq s id f).ctxs = s.ctxs := rfl
@[simp] theorem updReq_dom (s : State) (id : Nat) (f : Req → Req) : (updReq s id f).dom = s.dom := rfl
@[simp] theorem updReq_tiers (s : State) (id : Nat) (f : Req → Req) : (updReq s id f).tiers = s.tiers := rfl
@[simp] theorem updReq_links (s : State) (id : Nat) (f : Req → Req) : (updReq s id f).links = s.links := rfl
@[simp] theorem updReq_island (s : State) (id : Nat) (f : Req → Req) : (updReq s id f).island = s.island := rfl
@[simp] theorem updReq_mgmt (s : State) (id : Nat) (f : Req → Req) : (updReq s id f).mgmt = s.mgmt := rfl
@[simp] theorem updReq_events (s : State) (id : Nat) (f : Req → Req) : (updReq s id f).events = s.events := rfl
@[simp] theorem updReq_stuffing (s : State) (id : Nat) (f : Req → Req) : (updReq s id f).stuffing = s.stuffing := rfl
@[simp] theorem updReq_dbgSeq (s : State) (id : Nat) (f : Req → Req) : (updReq s id f).dbgSeq = s.dbgSeq := rfl
@[simp] theorem updReq_dbgNext (s : State) (id : Nat) (f : Req → Req) : (updReq s id f).dbgNext = s.dbgNext := rfl
@[simp] theorem updReq_dbgLast (s : State) (id : Nat) (f : Req → Req) : (updReq s id f).dbgLast = s.dbgLast := rfl
@[simp] theorem updReq_hostAccs (s : State) (id : Nat) (f : Req → Req) : (updReq s id f).hostAccs = s.hostAccs := rfl
@[simp] theorem updReq_hostVals (s : State) (id : Nat) (f : Req → Req) : (updReq s id f).hostVals = s.hostVals := rfl
@[simp] theorem updReq_hostResv (s : State) (id : Nat) (f : Req → Req) : (updReq s id f).hostResv = s.hostResv := rfl
@[simp] theorem updReq_out (s : State) (id : Nat) (f : Req → Req) : (updReq s id f).out = s.out := rfl

/-! Fields of a state after dropReq. -/

@[simp] theorem dropReq_cycle (s : State) (id : Nat) : (dropReq s id).cycle = s.cycle := rfl
@[simp] theorem dropReq_tick (s : State) (id : Nat) : (dropReq s id).tick = s.tick := rfl
@[simp] theorem dropReq_agenda (s : State) (id : Nat) : (dropReq s id).agenda = s.agenda := rfl
@[simp] theorem dropReq_turns (s : State) (id : Nat) : (dropReq s id).turns = s.turns := rfl
@[simp] theorem dropReq_cur (s : State) (id : Nat) : (dropReq s id).cur = s.cur := rfl
@[simp] theorem dropReq_mem (s : State) (id : Nat) : (dropReq s id).mem = s.mem := rfl
@[simp] theorem dropReq_gangs (s : State) (id : Nat) : (dropReq s id).gangs = s.gangs := rfl
@[simp] theorem dropReq_blocks (s : State) (id : Nat) : (dropReq s id).blocks = s.blocks := rfl
@[simp] theorem dropReq_savedGangs (s : State) (id : Nat) : (dropReq s id).savedGangs = s.savedGangs := rfl
@[simp] theorem dropReq_savedBlocks (s : State) (id : Nat) : (dropReq s id).savedBlocks = s.savedBlocks := rfl
@[simp] theorem dropReq_accs (s : State) (id : Nat) : (dropReq s id).accs = s.accs := rfl
@[simp] theorem dropReq_nextId (s : State) (id : Nat) : (dropReq s id).nextId = s.nextId := rfl
@[simp] theorem dropReq_sys (s : State) (id : Nat) : (dropReq s id).sys = s.sys := rfl
@[simp] theorem dropReq_caches (s : State) (id : Nat) : (dropReq s id).caches = s.caches := rfl
@[simp] theorem dropReq_parks (s : State) (id : Nat) : (dropReq s id).parks = s.parks := rfl
@[simp] theorem dropReq_cmds (s : State) (id : Nat) : (dropReq s id).cmds = s.cmds := rfl
@[simp] theorem dropReq_groups (s : State) (id : Nat) : (dropReq s id).groups = s.groups := rfl
@[simp] theorem dropReq_claims (s : State) (id : Nat) : (dropReq s id).claims = s.claims := rfl
@[simp] theorem dropReq_mq (s : State) (id : Nat) : (dropReq s id).mq = s.mq := rfl
@[simp] theorem dropReq_dirs (s : State) (id : Nat) : (dropReq s id).dirs = s.dirs := rfl
@[simp] theorem dropReq_solicits (s : State) (id : Nat) : (dropReq s id).solicits = s.solicits := rfl
@[simp] theorem dropReq_handoffs (s : State) (id : Nat) : (dropReq s id).handoffs = s.handoffs := rfl
@[simp] theorem dropReq_censuses (s : State) (id : Nat) : (dropReq s id).censuses = s.censuses := rfl
@[simp] theorem dropReq_asks (s : State) (id : Nat) : (dropReq s id).asks = s.asks := rfl
@[simp] theorem dropReq_nextCensus (s : State) (id : Nat) : (dropReq s id).nextCensus = s.nextCensus := rfl
@[simp] theorem dropReq_deferred (s : State) (id : Nat) : (dropReq s id).deferred = s.deferred := rfl
@[simp] theorem dropReq_disp (s : State) (id : Nat) : (dropReq s id).disp = s.disp := rfl
@[simp] theorem dropReq_ctxs (s : State) (id : Nat) : (dropReq s id).ctxs = s.ctxs := rfl
@[simp] theorem dropReq_dom (s : State) (id : Nat) : (dropReq s id).dom = s.dom := rfl
@[simp] theorem dropReq_tiers (s : State) (id : Nat) : (dropReq s id).tiers = s.tiers := rfl
@[simp] theorem dropReq_links (s : State) (id : Nat) : (dropReq s id).links = s.links := rfl
@[simp] theorem dropReq_island (s : State) (id : Nat) : (dropReq s id).island = s.island := rfl
@[simp] theorem dropReq_mgmt (s : State) (id : Nat) : (dropReq s id).mgmt = s.mgmt := rfl
@[simp] theorem dropReq_events (s : State) (id : Nat) : (dropReq s id).events = s.events := rfl
@[simp] theorem dropReq_stuffing (s : State) (id : Nat) : (dropReq s id).stuffing = s.stuffing := rfl
@[simp] theorem dropReq_dbgSeq (s : State) (id : Nat) : (dropReq s id).dbgSeq = s.dbgSeq := rfl
@[simp] theorem dropReq_dbgNext (s : State) (id : Nat) : (dropReq s id).dbgNext = s.dbgNext := rfl
@[simp] theorem dropReq_dbgLast (s : State) (id : Nat) : (dropReq s id).dbgLast = s.dbgLast := rfl
@[simp] theorem dropReq_hostAccs (s : State) (id : Nat) : (dropReq s id).hostAccs = s.hostAccs := rfl
@[simp] theorem dropReq_hostVals (s : State) (id : Nat) : (dropReq s id).hostVals = s.hostVals := rfl
@[simp] theorem dropReq_hostResv (s : State) (id : Nat) : (dropReq s id).hostResv = s.hostResv := rfl
@[simp] theorem dropReq_out (s : State) (id : Nat) : (dropReq s id).out = s.out := rfl

/-! The fields that the updates set. -/

@[simp] theorem putGang_gangs (s : State) (k : Nat) (g : Gang) : (putGang s k g).gangs = tabPut s.gangs k g := rfl
@[simp] theorem putBlock_blocks (s : State) (k : Nat) (b : Block) : (putBlock s k b).blocks = tabPut s.blocks k b := rfl
@[simp] theorem setReg_sys (s : State) (r : SysReg) (v : W64) : (setReg s r v).sys = sysSet s.sys r v := rfl
@[simp] theorem putReq_reqs (s : State) (r : Req) : (putReq s r).reqs = tabPut s.reqs s.nextId r := rfl
@[simp] theorem putReq_nextId (s : State) (r : Req) : (putReq s r).nextId = s.nextId + 1 := rfl
@[simp] theorem putAccess_accs (s : State) (a : Access) : (putAccess s a).accs = tabPut s.accs s.nextId a := rfl
@[simp] theorem putAccess_nextId (s : State) (a : Access) : (putAccess s a).nextId = s.nextId + 1 := rfl
@[simp] theorem updReq_reqs (s : State) (id : Nat) (f : Req → Req) : (updReq s id f).reqs = tabUpd s.reqs id f := rfl
@[simp] theorem dropReq_reqs (s : State) (id : Nat) : (dropReq s id).reqs = tabDel s.reqs id := rfl

/-! Fields of a gang after setVreg. -/

@[simp] theorem setVreg_block (g : Gang) (n l : Nat) (x : W32) : (setVreg g n l x).block = g.block := rfl
@[simp] theorem setVreg_gid (g : Gang) (n l : Nat) (x : W32) : (setVreg g n l x).gid = g.gid := rfl
@[simp] theorem setVreg_pipe (g : Gang) (n l : Nat) (x : W32) : (setVreg g n l x).pipe = g.pipe := rfl
@[simp] theorem setVreg_slot (g : Gang) (n l : Nat) (x : W32) : (setVreg g n l x).slot = g.slot := rfl
@[simp] theorem setVreg_created (g : Gang) (n l : Nat) (x : W32) : (setVreg g n l x).created = g.created := rfl
@[simp] theorem setVreg_helper (g : Gang) (n l : Nat) (x : W32) : (setVreg g n l x).helper = g.helper := rfl
@[simp] theorem setVreg_live (g : Gang) (n l : Nat) (x : W32) : (setVreg g n l x).live = g.live := rfl
@[simp] theorem setVreg_k (g : Gang) (n l : Nat) (x : W32) : (setVreg g n l x).k = g.k := rfl
@[simp] theorem setVreg_s (g : Gang) (n l : Nat) (x : W32) : (setVreg g n l x).s = g.s := rfl
@[simp] theorem setVreg_latch (g : Gang) (n l : Nat) (x : W32) : (setVreg g n l x).latch = g.latch := rfl
@[simp] theorem setVreg_latchDue (g : Gang) (n l : Nat) (x : W32) : (setVreg g n l x).latchDue = g.latchDue := rfl
@[simp] theorem setVreg_frags (g : Gang) (n l : Nat) (x : W32) : (setVreg g n l x).frags = g.frags := rfl
@[simp] theorem setVreg_joins (g : Gang) (n l : Nat) (x : W32) : (setVreg g n l x).joins = g.joins := rfl
@[simp] theorem setVreg_cur (g : Gang) (n l : Nat) (x : W32) : (setVreg g n l x).cur = g.cur := rfl
@[simp] theorem setVreg_handover (g : Gang) (n l : Nat) (x : W32) : (setVreg g n l x).handover = g.handover := rfl
@[simp] theorem setVreg_saved (g : Gang) (n l : Nat) (x : W32) : (setVreg g n l x).saved = g.saved := rfl
@[simp] theorem setVreg_paths (g : Gang) (n l : Nat) (x : W32) : (setVreg g n l x).paths = g.paths := rfl
@[simp] theorem setVreg_gstat (g : Gang) (n l : Nat) (x : W32) : (setVreg g n l x).gstat = g.gstat := rfl
@[simp] theorem setVreg_gctl (g : Gang) (n l : Nat) (x : W32) : (setVreg g n l x).gctl = g.gctl := rfl
@[simp] theorem setVreg_tstat (g : Gang) (n l : Nat) (x : W32) : (setVreg g n l x).tstat = g.tstat := rfl
@[simp] theorem setVreg_tval (g : Gang) (n l : Nat) (x : W32) : (setVreg g n l x).tval = g.tval := rfl
@[simp] theorem setVreg_tpc (g : Gang) (n l : Nat) (x : W32) : (setVreg g n l x).tpc = g.tpc := rfl
@[simp] theorem setVreg_cpc (g : Gang) (n l : Nat) (x : W32) : (setVreg g n l x).cpc = g.cpc := rfl
@[simp] theorem setVreg_contv (g : Gang) (n l : Nat) (x : W32) : (setVreg g n l x).contv = g.contv := rfl
@[simp] theorem setVreg_fpctl (g : Gang) (n l : Nat) (x : W32) : (setVreg g n l x).fpctl = g.fpctl := rfl
@[simp] theorem setVreg_stalls (g : Gang) (n l : Nat) (x : W32) : (setVreg g n l x).stalls = g.stalls := rfl
@[simp] theorem setVreg_monitor (g : Gang) (n l : Nat) (x : W32) : (setVreg g n l x).monitor = g.monitor := rfl
@[simp] theorem setVreg_monPa (g : Gang) (n l : Nat) (x : W32) : (setVreg g n l x).monPa = g.monPa := rfl
@[simp] theorem setVreg_woken (g : Gang) (n l : Nat) (x : W32) : (setVreg g n l x).woken = g.woken := rfl
@[simp] theorem setVreg_bn (g : Gang) (n l : Nat) (x : W32) : (setVreg g n l x).bn = g.bn := rfl
@[simp] theorem setVreg_pausing (g : Gang) (n l : Nat) (x : W32) : (setVreg g n l x).pausing = g.pausing := rfl
@[simp] theorem setVreg_pauseLeft (g : Gang) (n l : Nat) (x : W32) : (setVreg g n l x).pauseLeft = g.pauseLeft := rfl
@[simp] theorem setVreg_pend (g : Gang) (n l : Nat) (x : W32) : (setVreg g n l x).pend = g.pend := rfl
@[simp] theorem setVreg_turn (g : Gang) (n l : Nat) (x : W32) : (setVreg g n l x).turn = g.turn := rfl
@[simp] theorem setVreg_issueAt (g : Gang) (n l : Nat) (x : W32) : (setVreg g n l x).issueAt = g.issueAt := rfl
@[simp] theorem setVreg_flagsDue (g : Gang) (n l : Nat) (x : W32) : (setVreg g n l x).flagsDue = g.flagsDue := rfl
@[simp] theorem setVreg_seq (g : Gang) (n l : Nat) (x : W32) : (setVreg g n l x).seq = g.seq := rfl
@[simp] theorem setVreg_fence (g : Gang) (n l : Nat) (x : W32) : (setVreg g n l x).fence = g.fence := rfl
@[simp] theorem setVreg_halted (g : Gang) (n l : Nat) (x : W32) : (setVreg g n l x).halted = g.halted := rfl
@[simp] theorem setVreg_mended (g : Gang) (n l : Nat) (x : W32) : (setVreg g n l x).mended = g.mended := rfl
@[simp] theorem setVreg_atHalt (g : Gang) (n l : Nat) (x : W32) : (setVreg g n l x).atHalt = g.atHalt := rfl
@[simp] theorem setVreg_held (g : Gang) (n l : Nat) (x : W32) : (setVreg g n l x).held = g.held := rfl
@[simp] theorem setVreg_skipBp (g : Gang) (n l : Nat) (x : W32) : (setVreg g n l x).skipBp = g.skipBp := rfl
@[simp] theorem setVreg_stepLeft (g : Gang) (n l : Nat) (x : W32) : (setVreg g n l x).stepLeft = g.stepLeft := rfl
@[simp] theorem setVreg_yieldAck (g : Gang) (n l : Nat) (x : W32) : (setVreg g n l x).yieldAck = g.yieldAck := rfl
@[simp] theorem setVreg_yieldStop (g : Gang) (n l : Nat) (x : W32) : (setVreg g n l x).yieldStop = g.yieldStop := rfl
@[simp] theorem setVreg_lastStall (g : Gang) (n l : Nat) (x : W32) : (setVreg g n l x).lastStall = g.lastStall := rfl
@[simp] theorem setVreg_issued (g : Gang) (n l : Nat) (x : W32) : (setVreg g n l x).issued = g.issued := rfl
@[simp] theorem setVreg_retired (g : Gang) (n l : Nat) (x : W32) : (setVreg g n l x).retired = g.retired := rfl
@[simp] theorem setVreg_heir (g : Gang) (n l : Nat) (x : W32) : (setVreg g n l x).heir = g.heir := rfl

/-! Fields of a gang after setSreg. -/

@[simp] theorem setSreg_block (g : Gang) (n : BitVec 6) (x : W64) : (setSreg g n x).block = g.block := by unfold setSreg; split <;> rfl
@[simp] theorem setSreg_gid (g : Gang) (n : BitVec 6) (x : W64) : (setSreg g n x).gid = g.gid := by unfold setSreg; split <;> rfl
@[simp] theorem setSreg_pipe (g : Gang) (n : BitVec 6) (x : W64) : (setSreg g n x).pipe = g.pipe := by unfold setSreg; split <;> rfl
@[simp] theorem setSreg_slot (g : Gang) (n : BitVec 6) (x : W64) : (setSreg g n x).slot = g.slot := by unfold setSreg; split <;> rfl
@[simp] theorem setSreg_created (g : Gang) (n : BitVec 6) (x : W64) : (setSreg g n x).created = g.created := by unfold setSreg; split <;> rfl
@[simp] theorem setSreg_helper (g : Gang) (n : BitVec 6) (x : W64) : (setSreg g n x).helper = g.helper := by unfold setSreg; split <;> rfl
@[simp] theorem setSreg_live (g : Gang) (n : BitVec 6) (x : W64) : (setSreg g n x).live = g.live := by unfold setSreg; split <;> rfl
@[simp] theorem setSreg_v (g : Gang) (n : BitVec 6) (x : W64) : (setSreg g n x).v = g.v := by unfold setSreg; split <;> rfl
@[simp] theorem setSreg_k (g : Gang) (n : BitVec 6) (x : W64) : (setSreg g n x).k = g.k := by unfold setSreg; split <;> rfl
@[simp] theorem setSreg_latch (g : Gang) (n : BitVec 6) (x : W64) : (setSreg g n x).latch = g.latch := by unfold setSreg; split <;> rfl
@[simp] theorem setSreg_latchDue (g : Gang) (n : BitVec 6) (x : W64) : (setSreg g n x).latchDue = g.latchDue := by unfold setSreg; split <;> rfl
@[simp] theorem setSreg_frags (g : Gang) (n : BitVec 6) (x : W64) : (setSreg g n x).frags = g.frags := by unfold setSreg; split <;> rfl
@[simp] theorem setSreg_joins (g : Gang) (n : BitVec 6) (x : W64) : (setSreg g n x).joins = g.joins := by unfold setSreg; split <;> rfl
@[simp] theorem setSreg_cur (g : Gang) (n : BitVec 6) (x : W64) : (setSreg g n x).cur = g.cur := by unfold setSreg; split <;> rfl
@[simp] theorem setSreg_handover (g : Gang) (n : BitVec 6) (x : W64) : (setSreg g n x).handover = g.handover := by unfold setSreg; split <;> rfl
@[simp] theorem setSreg_saved (g : Gang) (n : BitVec 6) (x : W64) : (setSreg g n x).saved = g.saved := by unfold setSreg; split <;> rfl
@[simp] theorem setSreg_paths (g : Gang) (n : BitVec 6) (x : W64) : (setSreg g n x).paths = g.paths := by unfold setSreg; split <;> rfl
@[simp] theorem setSreg_gstat (g : Gang) (n : BitVec 6) (x : W64) : (setSreg g n x).gstat = g.gstat := by unfold setSreg; split <;> rfl
@[simp] theorem setSreg_gctl (g : Gang) (n : BitVec 6) (x : W64) : (setSreg g n x).gctl = g.gctl := by unfold setSreg; split <;> rfl
@[simp] theorem setSreg_tstat (g : Gang) (n : BitVec 6) (x : W64) : (setSreg g n x).tstat = g.tstat := by unfold setSreg; split <;> rfl
@[simp] theorem setSreg_tval (g : Gang) (n : BitVec 6) (x : W64) : (setSreg g n x).tval = g.tval := by unfold setSreg; split <;> rfl
@[simp] theorem setSreg_tpc (g : Gang) (n : BitVec 6) (x : W64) : (setSreg g n x).tpc = g.tpc := by unfold setSreg; split <;> rfl
@[simp] theorem setSreg_cpc (g : Gang) (n : BitVec 6) (x : W64) : (setSreg g n x).cpc = g.cpc := by unfold setSreg; split <;> rfl
@[simp] theorem setSreg_contv (g : Gang) (n : BitVec 6) (x : W64) : (setSreg g n x).contv = g.contv := by unfold setSreg; split <;> rfl
@[simp] theorem setSreg_fpctl (g : Gang) (n : BitVec 6) (x : W64) : (setSreg g n x).fpctl = g.fpctl := by unfold setSreg; split <;> rfl
@[simp] theorem setSreg_stalls (g : Gang) (n : BitVec 6) (x : W64) : (setSreg g n x).stalls = g.stalls := by unfold setSreg; split <;> rfl
@[simp] theorem setSreg_monitor (g : Gang) (n : BitVec 6) (x : W64) : (setSreg g n x).monitor = g.monitor := by unfold setSreg; split <;> rfl
@[simp] theorem setSreg_monPa (g : Gang) (n : BitVec 6) (x : W64) : (setSreg g n x).monPa = g.monPa := by unfold setSreg; split <;> rfl
@[simp] theorem setSreg_woken (g : Gang) (n : BitVec 6) (x : W64) : (setSreg g n x).woken = g.woken := by unfold setSreg; split <;> rfl
@[simp] theorem setSreg_bn (g : Gang) (n : BitVec 6) (x : W64) : (setSreg g n x).bn = g.bn := by unfold setSreg; split <;> rfl
@[simp] theorem setSreg_pausing (g : Gang) (n : BitVec 6) (x : W64) : (setSreg g n x).pausing = g.pausing := by unfold setSreg; split <;> rfl
@[simp] theorem setSreg_pauseLeft (g : Gang) (n : BitVec 6) (x : W64) : (setSreg g n x).pauseLeft = g.pauseLeft := by unfold setSreg; split <;> rfl
@[simp] theorem setSreg_pend (g : Gang) (n : BitVec 6) (x : W64) : (setSreg g n x).pend = g.pend := by unfold setSreg; split <;> rfl
@[simp] theorem setSreg_turn (g : Gang) (n : BitVec 6) (x : W64) : (setSreg g n x).turn = g.turn := by unfold setSreg; split <;> rfl
@[simp] theorem setSreg_issueAt (g : Gang) (n : BitVec 6) (x : W64) : (setSreg g n x).issueAt = g.issueAt := by unfold setSreg; split <;> rfl
@[simp] theorem setSreg_flagsDue (g : Gang) (n : BitVec 6) (x : W64) : (setSreg g n x).flagsDue = g.flagsDue := by unfold setSreg; split <;> rfl
@[simp] theorem setSreg_seq (g : Gang) (n : BitVec 6) (x : W64) : (setSreg g n x).seq = g.seq := by unfold setSreg; split <;> rfl
@[simp] theorem setSreg_fence (g : Gang) (n : BitVec 6) (x : W64) : (setSreg g n x).fence = g.fence := by unfold setSreg; split <;> rfl
@[simp] theorem setSreg_halted (g : Gang) (n : BitVec 6) (x : W64) : (setSreg g n x).halted = g.halted := by unfold setSreg; split <;> rfl
@[simp] theorem setSreg_mended (g : Gang) (n : BitVec 6) (x : W64) : (setSreg g n x).mended = g.mended := by unfold setSreg; split <;> rfl
@[simp] theorem setSreg_atHalt (g : Gang) (n : BitVec 6) (x : W64) : (setSreg g n x).atHalt = g.atHalt := by unfold setSreg; split <;> rfl
@[simp] theorem setSreg_held (g : Gang) (n : BitVec 6) (x : W64) : (setSreg g n x).held = g.held := by unfold setSreg; split <;> rfl
@[simp] theorem setSreg_skipBp (g : Gang) (n : BitVec 6) (x : W64) : (setSreg g n x).skipBp = g.skipBp := by unfold setSreg; split <;> rfl
@[simp] theorem setSreg_stepLeft (g : Gang) (n : BitVec 6) (x : W64) : (setSreg g n x).stepLeft = g.stepLeft := by unfold setSreg; split <;> rfl
@[simp] theorem setSreg_yieldAck (g : Gang) (n : BitVec 6) (x : W64) : (setSreg g n x).yieldAck = g.yieldAck := by unfold setSreg; split <;> rfl
@[simp] theorem setSreg_yieldStop (g : Gang) (n : BitVec 6) (x : W64) : (setSreg g n x).yieldStop = g.yieldStop := by unfold setSreg; split <;> rfl
@[simp] theorem setSreg_lastStall (g : Gang) (n : BitVec 6) (x : W64) : (setSreg g n x).lastStall = g.lastStall := by unfold setSreg; split <;> rfl
@[simp] theorem setSreg_issued (g : Gang) (n : BitVec 6) (x : W64) : (setSreg g n x).issued = g.issued := by unfold setSreg; split <;> rfl
@[simp] theorem setSreg_retired (g : Gang) (n : BitVec 6) (x : W64) : (setSreg g n x).retired = g.retired := by unfold setSreg; split <;> rfl
@[simp] theorem setSreg_heir (g : Gang) (n : BitVec 6) (x : W64) : (setSreg g n x).heir = g.heir := by unfold setSreg; split <;> rfl

/-! Fields of a gang after setPreds. -/

@[simp] theorem setPreds_block (g : Gang) (n : BitVec 3) (m x : Mask) : (setPreds g n m x).block = g.block := by unfold setPreds; split <;> rfl
@[simp] theorem setPreds_gid (g : Gang) (n : BitVec 3) (m x : Mask) : (setPreds g n m x).gid = g.gid := by unfold setPreds; split <;> rfl
@[simp] theorem setPreds_pipe (g : Gang) (n : BitVec 3) (m x : Mask) : (setPreds g n m x).pipe = g.pipe := by unfold setPreds; split <;> rfl
@[simp] theorem setPreds_slot (g : Gang) (n : BitVec 3) (m x : Mask) : (setPreds g n m x).slot = g.slot := by unfold setPreds; split <;> rfl
@[simp] theorem setPreds_created (g : Gang) (n : BitVec 3) (m x : Mask) : (setPreds g n m x).created = g.created := by unfold setPreds; split <;> rfl
@[simp] theorem setPreds_helper (g : Gang) (n : BitVec 3) (m x : Mask) : (setPreds g n m x).helper = g.helper := by unfold setPreds; split <;> rfl
@[simp] theorem setPreds_live (g : Gang) (n : BitVec 3) (m x : Mask) : (setPreds g n m x).live = g.live := by unfold setPreds; split <;> rfl
@[simp] theorem setPreds_v (g : Gang) (n : BitVec 3) (m x : Mask) : (setPreds g n m x).v = g.v := by unfold setPreds; split <;> rfl
@[simp] theorem setPreds_s (g : Gang) (n : BitVec 3) (m x : Mask) : (setPreds g n m x).s = g.s := by unfold setPreds; split <;> rfl
@[simp] theorem setPreds_latch (g : Gang) (n : BitVec 3) (m x : Mask) : (setPreds g n m x).latch = g.latch := by unfold setPreds; split <;> rfl
@[simp] theorem setPreds_latchDue (g : Gang) (n : BitVec 3) (m x : Mask) : (setPreds g n m x).latchDue = g.latchDue := by unfold setPreds; split <;> rfl
@[simp] theorem setPreds_frags (g : Gang) (n : BitVec 3) (m x : Mask) : (setPreds g n m x).frags = g.frags := by unfold setPreds; split <;> rfl
@[simp] theorem setPreds_joins (g : Gang) (n : BitVec 3) (m x : Mask) : (setPreds g n m x).joins = g.joins := by unfold setPreds; split <;> rfl
@[simp] theorem setPreds_cur (g : Gang) (n : BitVec 3) (m x : Mask) : (setPreds g n m x).cur = g.cur := by unfold setPreds; split <;> rfl
@[simp] theorem setPreds_handover (g : Gang) (n : BitVec 3) (m x : Mask) : (setPreds g n m x).handover = g.handover := by unfold setPreds; split <;> rfl
@[simp] theorem setPreds_saved (g : Gang) (n : BitVec 3) (m x : Mask) : (setPreds g n m x).saved = g.saved := by unfold setPreds; split <;> rfl
@[simp] theorem setPreds_paths (g : Gang) (n : BitVec 3) (m x : Mask) : (setPreds g n m x).paths = g.paths := by unfold setPreds; split <;> rfl
@[simp] theorem setPreds_gstat (g : Gang) (n : BitVec 3) (m x : Mask) : (setPreds g n m x).gstat = g.gstat := by unfold setPreds; split <;> rfl
@[simp] theorem setPreds_gctl (g : Gang) (n : BitVec 3) (m x : Mask) : (setPreds g n m x).gctl = g.gctl := by unfold setPreds; split <;> rfl
@[simp] theorem setPreds_tstat (g : Gang) (n : BitVec 3) (m x : Mask) : (setPreds g n m x).tstat = g.tstat := by unfold setPreds; split <;> rfl
@[simp] theorem setPreds_tval (g : Gang) (n : BitVec 3) (m x : Mask) : (setPreds g n m x).tval = g.tval := by unfold setPreds; split <;> rfl
@[simp] theorem setPreds_tpc (g : Gang) (n : BitVec 3) (m x : Mask) : (setPreds g n m x).tpc = g.tpc := by unfold setPreds; split <;> rfl
@[simp] theorem setPreds_cpc (g : Gang) (n : BitVec 3) (m x : Mask) : (setPreds g n m x).cpc = g.cpc := by unfold setPreds; split <;> rfl
@[simp] theorem setPreds_contv (g : Gang) (n : BitVec 3) (m x : Mask) : (setPreds g n m x).contv = g.contv := by unfold setPreds; split <;> rfl
@[simp] theorem setPreds_fpctl (g : Gang) (n : BitVec 3) (m x : Mask) : (setPreds g n m x).fpctl = g.fpctl := by unfold setPreds; split <;> rfl
@[simp] theorem setPreds_stalls (g : Gang) (n : BitVec 3) (m x : Mask) : (setPreds g n m x).stalls = g.stalls := by unfold setPreds; split <;> rfl
@[simp] theorem setPreds_monitor (g : Gang) (n : BitVec 3) (m x : Mask) : (setPreds g n m x).monitor = g.monitor := by unfold setPreds; split <;> rfl
@[simp] theorem setPreds_monPa (g : Gang) (n : BitVec 3) (m x : Mask) : (setPreds g n m x).monPa = g.monPa := by unfold setPreds; split <;> rfl
@[simp] theorem setPreds_woken (g : Gang) (n : BitVec 3) (m x : Mask) : (setPreds g n m x).woken = g.woken := by unfold setPreds; split <;> rfl
@[simp] theorem setPreds_bn (g : Gang) (n : BitVec 3) (m x : Mask) : (setPreds g n m x).bn = g.bn := by unfold setPreds; split <;> rfl
@[simp] theorem setPreds_pausing (g : Gang) (n : BitVec 3) (m x : Mask) : (setPreds g n m x).pausing = g.pausing := by unfold setPreds; split <;> rfl
@[simp] theorem setPreds_pauseLeft (g : Gang) (n : BitVec 3) (m x : Mask) : (setPreds g n m x).pauseLeft = g.pauseLeft := by unfold setPreds; split <;> rfl
@[simp] theorem setPreds_pend (g : Gang) (n : BitVec 3) (m x : Mask) : (setPreds g n m x).pend = g.pend := by unfold setPreds; split <;> rfl
@[simp] theorem setPreds_turn (g : Gang) (n : BitVec 3) (m x : Mask) : (setPreds g n m x).turn = g.turn := by unfold setPreds; split <;> rfl
@[simp] theorem setPreds_issueAt (g : Gang) (n : BitVec 3) (m x : Mask) : (setPreds g n m x).issueAt = g.issueAt := by unfold setPreds; split <;> rfl
@[simp] theorem setPreds_flagsDue (g : Gang) (n : BitVec 3) (m x : Mask) : (setPreds g n m x).flagsDue = g.flagsDue := by unfold setPreds; split <;> rfl
@[simp] theorem setPreds_seq (g : Gang) (n : BitVec 3) (m x : Mask) : (setPreds g n m x).seq = g.seq := by unfold setPreds; split <;> rfl
@[simp] theorem setPreds_fence (g : Gang) (n : BitVec 3) (m x : Mask) : (setPreds g n m x).fence = g.fence := by unfold setPreds; split <;> rfl
@[simp] theorem setPreds_halted (g : Gang) (n : BitVec 3) (m x : Mask) : (setPreds g n m x).halted = g.halted := by unfold setPreds; split <;> rfl
@[simp] theorem setPreds_mended (g : Gang) (n : BitVec 3) (m x : Mask) : (setPreds g n m x).mended = g.mended := by unfold setPreds; split <;> rfl
@[simp] theorem setPreds_atHalt (g : Gang) (n : BitVec 3) (m x : Mask) : (setPreds g n m x).atHalt = g.atHalt := by unfold setPreds; split <;> rfl
@[simp] theorem setPreds_held (g : Gang) (n : BitVec 3) (m x : Mask) : (setPreds g n m x).held = g.held := by unfold setPreds; split <;> rfl
@[simp] theorem setPreds_skipBp (g : Gang) (n : BitVec 3) (m x : Mask) : (setPreds g n m x).skipBp = g.skipBp := by unfold setPreds; split <;> rfl
@[simp] theorem setPreds_stepLeft (g : Gang) (n : BitVec 3) (m x : Mask) : (setPreds g n m x).stepLeft = g.stepLeft := by unfold setPreds; split <;> rfl
@[simp] theorem setPreds_yieldAck (g : Gang) (n : BitVec 3) (m x : Mask) : (setPreds g n m x).yieldAck = g.yieldAck := by unfold setPreds; split <;> rfl
@[simp] theorem setPreds_yieldStop (g : Gang) (n : BitVec 3) (m x : Mask) : (setPreds g n m x).yieldStop = g.yieldStop := by unfold setPreds; split <;> rfl
@[simp] theorem setPreds_lastStall (g : Gang) (n : BitVec 3) (m x : Mask) : (setPreds g n m x).lastStall = g.lastStall := by unfold setPreds; split <;> rfl
@[simp] theorem setPreds_issued (g : Gang) (n : BitVec 3) (m x : Mask) : (setPreds g n m x).issued = g.issued := by unfold setPreds; split <;> rfl
@[simp] theorem setPreds_retired (g : Gang) (n : BitVec 3) (m x : Mask) : (setPreds g n m x).retired = g.retired := by unfold setPreds; split <;> rfl
@[simp] theorem setPreds_heir (g : Gang) (n : BitVec 3) (m x : Mask) : (setPreds g n m x).heir = g.heir := by unfold setPreds; split <;> rfl

/-! Fields of a gang after setPath. -/

@[simp] theorem setPath_block (g : Gang) (p n : Nat) : (setPath g p n).block = g.block := rfl
@[simp] theorem setPath_gid (g : Gang) (p n : Nat) : (setPath g p n).gid = g.gid := rfl
@[simp] theorem setPath_pipe (g : Gang) (p n : Nat) : (setPath g p n).pipe = g.pipe := rfl
@[simp] theorem setPath_slot (g : Gang) (p n : Nat) : (setPath g p n).slot = g.slot := rfl
@[simp] theorem setPath_created (g : Gang) (p n : Nat) : (setPath g p n).created = g.created := rfl
@[simp] theorem setPath_helper (g : Gang) (p n : Nat) : (setPath g p n).helper = g.helper := rfl
@[simp] theorem setPath_live (g : Gang) (p n : Nat) : (setPath g p n).live = g.live := rfl
@[simp] theorem setPath_v (g : Gang) (p n : Nat) : (setPath g p n).v = g.v := rfl
@[simp] theorem setPath_k (g : Gang) (p n : Nat) : (setPath g p n).k = g.k := rfl
@[simp] theorem setPath_s (g : Gang) (p n : Nat) : (setPath g p n).s = g.s := rfl
@[simp] theorem setPath_latch (g : Gang) (p n : Nat) : (setPath g p n).latch = g.latch := rfl
@[simp] theorem setPath_latchDue (g : Gang) (p n : Nat) : (setPath g p n).latchDue = g.latchDue := rfl
@[simp] theorem setPath_frags (g : Gang) (p n : Nat) : (setPath g p n).frags = g.frags := rfl
@[simp] theorem setPath_joins (g : Gang) (p n : Nat) : (setPath g p n).joins = g.joins := rfl
@[simp] theorem setPath_cur (g : Gang) (p n : Nat) : (setPath g p n).cur = g.cur := rfl
@[simp] theorem setPath_handover (g : Gang) (p n : Nat) : (setPath g p n).handover = g.handover := rfl
@[simp] theorem setPath_saved (g : Gang) (p n : Nat) : (setPath g p n).saved = g.saved := rfl
@[simp] theorem setPath_gstat (g : Gang) (p n : Nat) : (setPath g p n).gstat = g.gstat := rfl
@[simp] theorem setPath_gctl (g : Gang) (p n : Nat) : (setPath g p n).gctl = g.gctl := rfl
@[simp] theorem setPath_tstat (g : Gang) (p n : Nat) : (setPath g p n).tstat = g.tstat := rfl
@[simp] theorem setPath_tval (g : Gang) (p n : Nat) : (setPath g p n).tval = g.tval := rfl
@[simp] theorem setPath_tpc (g : Gang) (p n : Nat) : (setPath g p n).tpc = g.tpc := rfl
@[simp] theorem setPath_cpc (g : Gang) (p n : Nat) : (setPath g p n).cpc = g.cpc := rfl
@[simp] theorem setPath_contv (g : Gang) (p n : Nat) : (setPath g p n).contv = g.contv := rfl
@[simp] theorem setPath_fpctl (g : Gang) (p n : Nat) : (setPath g p n).fpctl = g.fpctl := rfl
@[simp] theorem setPath_stalls (g : Gang) (p n : Nat) : (setPath g p n).stalls = g.stalls := rfl
@[simp] theorem setPath_monitor (g : Gang) (p n : Nat) : (setPath g p n).monitor = g.monitor := rfl
@[simp] theorem setPath_monPa (g : Gang) (p n : Nat) : (setPath g p n).monPa = g.monPa := rfl
@[simp] theorem setPath_woken (g : Gang) (p n : Nat) : (setPath g p n).woken = g.woken := rfl
@[simp] theorem setPath_bn (g : Gang) (p n : Nat) : (setPath g p n).bn = g.bn := rfl
@[simp] theorem setPath_pausing (g : Gang) (p n : Nat) : (setPath g p n).pausing = g.pausing := rfl
@[simp] theorem setPath_pauseLeft (g : Gang) (p n : Nat) : (setPath g p n).pauseLeft = g.pauseLeft := rfl
@[simp] theorem setPath_pend (g : Gang) (p n : Nat) : (setPath g p n).pend = g.pend := rfl
@[simp] theorem setPath_turn (g : Gang) (p n : Nat) : (setPath g p n).turn = g.turn := rfl
@[simp] theorem setPath_issueAt (g : Gang) (p n : Nat) : (setPath g p n).issueAt = g.issueAt := rfl
@[simp] theorem setPath_flagsDue (g : Gang) (p n : Nat) : (setPath g p n).flagsDue = g.flagsDue := rfl
@[simp] theorem setPath_seq (g : Gang) (p n : Nat) : (setPath g p n).seq = g.seq := rfl
@[simp] theorem setPath_fence (g : Gang) (p n : Nat) : (setPath g p n).fence = g.fence := rfl
@[simp] theorem setPath_halted (g : Gang) (p n : Nat) : (setPath g p n).halted = g.halted := rfl
@[simp] theorem setPath_mended (g : Gang) (p n : Nat) : (setPath g p n).mended = g.mended := rfl
@[simp] theorem setPath_atHalt (g : Gang) (p n : Nat) : (setPath g p n).atHalt = g.atHalt := rfl
@[simp] theorem setPath_held (g : Gang) (p n : Nat) : (setPath g p n).held = g.held := rfl
@[simp] theorem setPath_skipBp (g : Gang) (p n : Nat) : (setPath g p n).skipBp = g.skipBp := rfl
@[simp] theorem setPath_stepLeft (g : Gang) (p n : Nat) : (setPath g p n).stepLeft = g.stepLeft := rfl
@[simp] theorem setPath_yieldAck (g : Gang) (p n : Nat) : (setPath g p n).yieldAck = g.yieldAck := rfl
@[simp] theorem setPath_yieldStop (g : Gang) (p n : Nat) : (setPath g p n).yieldStop = g.yieldStop := rfl
@[simp] theorem setPath_lastStall (g : Gang) (p n : Nat) : (setPath g p n).lastStall = g.lastStall := rfl
@[simp] theorem setPath_issued (g : Gang) (p n : Nat) : (setPath g p n).issued = g.issued := rfl
@[simp] theorem setPath_retired (g : Gang) (p n : Nat) : (setPath g p n).retired = g.retired := rfl
@[simp] theorem setPath_heir (g : Gang) (p n : Nat) : (setPath g p n).heir = g.heir := rfl

/-! Fields of a gang after raiseGstat. -/

@[simp] theorem raiseGstat_block (g : Gang) (m : W64) : (raiseGstat g m).block = g.block := rfl
@[simp] theorem raiseGstat_gid (g : Gang) (m : W64) : (raiseGstat g m).gid = g.gid := rfl
@[simp] theorem raiseGstat_pipe (g : Gang) (m : W64) : (raiseGstat g m).pipe = g.pipe := rfl
@[simp] theorem raiseGstat_slot (g : Gang) (m : W64) : (raiseGstat g m).slot = g.slot := rfl
@[simp] theorem raiseGstat_created (g : Gang) (m : W64) : (raiseGstat g m).created = g.created := rfl
@[simp] theorem raiseGstat_helper (g : Gang) (m : W64) : (raiseGstat g m).helper = g.helper := rfl
@[simp] theorem raiseGstat_live (g : Gang) (m : W64) : (raiseGstat g m).live = g.live := rfl
@[simp] theorem raiseGstat_v (g : Gang) (m : W64) : (raiseGstat g m).v = g.v := rfl
@[simp] theorem raiseGstat_k (g : Gang) (m : W64) : (raiseGstat g m).k = g.k := rfl
@[simp] theorem raiseGstat_s (g : Gang) (m : W64) : (raiseGstat g m).s = g.s := rfl
@[simp] theorem raiseGstat_latch (g : Gang) (m : W64) : (raiseGstat g m).latch = g.latch := rfl
@[simp] theorem raiseGstat_latchDue (g : Gang) (m : W64) : (raiseGstat g m).latchDue = g.latchDue := rfl
@[simp] theorem raiseGstat_frags (g : Gang) (m : W64) : (raiseGstat g m).frags = g.frags := rfl
@[simp] theorem raiseGstat_joins (g : Gang) (m : W64) : (raiseGstat g m).joins = g.joins := rfl
@[simp] theorem raiseGstat_cur (g : Gang) (m : W64) : (raiseGstat g m).cur = g.cur := rfl
@[simp] theorem raiseGstat_handover (g : Gang) (m : W64) : (raiseGstat g m).handover = g.handover := rfl
@[simp] theorem raiseGstat_saved (g : Gang) (m : W64) : (raiseGstat g m).saved = g.saved := rfl
@[simp] theorem raiseGstat_paths (g : Gang) (m : W64) : (raiseGstat g m).paths = g.paths := rfl
@[simp] theorem raiseGstat_gctl (g : Gang) (m : W64) : (raiseGstat g m).gctl = g.gctl := rfl
@[simp] theorem raiseGstat_tstat (g : Gang) (m : W64) : (raiseGstat g m).tstat = g.tstat := rfl
@[simp] theorem raiseGstat_tval (g : Gang) (m : W64) : (raiseGstat g m).tval = g.tval := rfl
@[simp] theorem raiseGstat_tpc (g : Gang) (m : W64) : (raiseGstat g m).tpc = g.tpc := rfl
@[simp] theorem raiseGstat_cpc (g : Gang) (m : W64) : (raiseGstat g m).cpc = g.cpc := rfl
@[simp] theorem raiseGstat_contv (g : Gang) (m : W64) : (raiseGstat g m).contv = g.contv := rfl
@[simp] theorem raiseGstat_fpctl (g : Gang) (m : W64) : (raiseGstat g m).fpctl = g.fpctl := rfl
@[simp] theorem raiseGstat_stalls (g : Gang) (m : W64) : (raiseGstat g m).stalls = g.stalls := rfl
@[simp] theorem raiseGstat_monitor (g : Gang) (m : W64) : (raiseGstat g m).monitor = g.monitor := rfl
@[simp] theorem raiseGstat_monPa (g : Gang) (m : W64) : (raiseGstat g m).monPa = g.monPa := rfl
@[simp] theorem raiseGstat_woken (g : Gang) (m : W64) : (raiseGstat g m).woken = g.woken := rfl
@[simp] theorem raiseGstat_bn (g : Gang) (m : W64) : (raiseGstat g m).bn = g.bn := rfl
@[simp] theorem raiseGstat_pausing (g : Gang) (m : W64) : (raiseGstat g m).pausing = g.pausing := rfl
@[simp] theorem raiseGstat_pauseLeft (g : Gang) (m : W64) : (raiseGstat g m).pauseLeft = g.pauseLeft := rfl
@[simp] theorem raiseGstat_pend (g : Gang) (m : W64) : (raiseGstat g m).pend = g.pend := rfl
@[simp] theorem raiseGstat_turn (g : Gang) (m : W64) : (raiseGstat g m).turn = g.turn := rfl
@[simp] theorem raiseGstat_issueAt (g : Gang) (m : W64) : (raiseGstat g m).issueAt = g.issueAt := rfl
@[simp] theorem raiseGstat_flagsDue (g : Gang) (m : W64) : (raiseGstat g m).flagsDue = g.flagsDue := rfl
@[simp] theorem raiseGstat_seq (g : Gang) (m : W64) : (raiseGstat g m).seq = g.seq := rfl
@[simp] theorem raiseGstat_fence (g : Gang) (m : W64) : (raiseGstat g m).fence = g.fence := rfl
@[simp] theorem raiseGstat_halted (g : Gang) (m : W64) : (raiseGstat g m).halted = g.halted := rfl
@[simp] theorem raiseGstat_mended (g : Gang) (m : W64) : (raiseGstat g m).mended = g.mended := rfl
@[simp] theorem raiseGstat_atHalt (g : Gang) (m : W64) : (raiseGstat g m).atHalt = g.atHalt := rfl
@[simp] theorem raiseGstat_held (g : Gang) (m : W64) : (raiseGstat g m).held = g.held := rfl
@[simp] theorem raiseGstat_skipBp (g : Gang) (m : W64) : (raiseGstat g m).skipBp = g.skipBp := rfl
@[simp] theorem raiseGstat_stepLeft (g : Gang) (m : W64) : (raiseGstat g m).stepLeft = g.stepLeft := rfl
@[simp] theorem raiseGstat_yieldAck (g : Gang) (m : W64) : (raiseGstat g m).yieldAck = g.yieldAck := rfl
@[simp] theorem raiseGstat_yieldStop (g : Gang) (m : W64) : (raiseGstat g m).yieldStop = g.yieldStop := rfl
@[simp] theorem raiseGstat_lastStall (g : Gang) (m : W64) : (raiseGstat g m).lastStall = g.lastStall := rfl
@[simp] theorem raiseGstat_issued (g : Gang) (m : W64) : (raiseGstat g m).issued = g.issued := rfl
@[simp] theorem raiseGstat_retired (g : Gang) (m : W64) : (raiseGstat g m).retired = g.retired := rfl
@[simp] theorem raiseGstat_heir (g : Gang) (m : W64) : (raiseGstat g m).heir = g.heir := rfl

/-! Fields of a gang after loseLatches. -/

@[simp] theorem loseLatches_block (g : Gang) : (loseLatches g).block = g.block := rfl
@[simp] theorem loseLatches_gid (g : Gang) : (loseLatches g).gid = g.gid := rfl
@[simp] theorem loseLatches_pipe (g : Gang) : (loseLatches g).pipe = g.pipe := rfl
@[simp] theorem loseLatches_slot (g : Gang) : (loseLatches g).slot = g.slot := rfl
@[simp] theorem loseLatches_created (g : Gang) : (loseLatches g).created = g.created := rfl
@[simp] theorem loseLatches_helper (g : Gang) : (loseLatches g).helper = g.helper := rfl
@[simp] theorem loseLatches_live (g : Gang) : (loseLatches g).live = g.live := rfl
@[simp] theorem loseLatches_v (g : Gang) : (loseLatches g).v = g.v := rfl
@[simp] theorem loseLatches_k (g : Gang) : (loseLatches g).k = g.k := rfl
@[simp] theorem loseLatches_s (g : Gang) : (loseLatches g).s = g.s := rfl
@[simp] theorem loseLatches_frags (g : Gang) : (loseLatches g).frags = g.frags := rfl
@[simp] theorem loseLatches_joins (g : Gang) : (loseLatches g).joins = g.joins := rfl
@[simp] theorem loseLatches_cur (g : Gang) : (loseLatches g).cur = g.cur := rfl
@[simp] theorem loseLatches_handover (g : Gang) : (loseLatches g).handover = g.handover := rfl
@[simp] theorem loseLatches_saved (g : Gang) : (loseLatches g).saved = g.saved := rfl
@[simp] theorem loseLatches_paths (g : Gang) : (loseLatches g).paths = g.paths := rfl
@[simp] theorem loseLatches_gstat (g : Gang) : (loseLatches g).gstat = g.gstat := rfl
@[simp] theorem loseLatches_gctl (g : Gang) : (loseLatches g).gctl = g.gctl := rfl
@[simp] theorem loseLatches_tstat (g : Gang) : (loseLatches g).tstat = g.tstat := rfl
@[simp] theorem loseLatches_tval (g : Gang) : (loseLatches g).tval = g.tval := rfl
@[simp] theorem loseLatches_tpc (g : Gang) : (loseLatches g).tpc = g.tpc := rfl
@[simp] theorem loseLatches_cpc (g : Gang) : (loseLatches g).cpc = g.cpc := rfl
@[simp] theorem loseLatches_contv (g : Gang) : (loseLatches g).contv = g.contv := rfl
@[simp] theorem loseLatches_fpctl (g : Gang) : (loseLatches g).fpctl = g.fpctl := rfl
@[simp] theorem loseLatches_stalls (g : Gang) : (loseLatches g).stalls = g.stalls := rfl
@[simp] theorem loseLatches_monitor (g : Gang) : (loseLatches g).monitor = g.monitor := rfl
@[simp] theorem loseLatches_monPa (g : Gang) : (loseLatches g).monPa = g.monPa := rfl
@[simp] theorem loseLatches_woken (g : Gang) : (loseLatches g).woken = g.woken := rfl
@[simp] theorem loseLatches_bn (g : Gang) : (loseLatches g).bn = g.bn := rfl
@[simp] theorem loseLatches_pausing (g : Gang) : (loseLatches g).pausing = g.pausing := rfl
@[simp] theorem loseLatches_pauseLeft (g : Gang) : (loseLatches g).pauseLeft = g.pauseLeft := rfl
@[simp] theorem loseLatches_pend (g : Gang) : (loseLatches g).pend = g.pend := rfl
@[simp] theorem loseLatches_turn (g : Gang) : (loseLatches g).turn = g.turn := rfl
@[simp] theorem loseLatches_issueAt (g : Gang) : (loseLatches g).issueAt = g.issueAt := rfl
@[simp] theorem loseLatches_flagsDue (g : Gang) : (loseLatches g).flagsDue = g.flagsDue := rfl
@[simp] theorem loseLatches_seq (g : Gang) : (loseLatches g).seq = g.seq := rfl
@[simp] theorem loseLatches_fence (g : Gang) : (loseLatches g).fence = g.fence := rfl
@[simp] theorem loseLatches_halted (g : Gang) : (loseLatches g).halted = g.halted := rfl
@[simp] theorem loseLatches_mended (g : Gang) : (loseLatches g).mended = g.mended := rfl
@[simp] theorem loseLatches_atHalt (g : Gang) : (loseLatches g).atHalt = g.atHalt := rfl
@[simp] theorem loseLatches_held (g : Gang) : (loseLatches g).held = g.held := rfl
@[simp] theorem loseLatches_skipBp (g : Gang) : (loseLatches g).skipBp = g.skipBp := rfl
@[simp] theorem loseLatches_stepLeft (g : Gang) : (loseLatches g).stepLeft = g.stepLeft := rfl
@[simp] theorem loseLatches_yieldAck (g : Gang) : (loseLatches g).yieldAck = g.yieldAck := rfl
@[simp] theorem loseLatches_yieldStop (g : Gang) : (loseLatches g).yieldStop = g.yieldStop := rfl
@[simp] theorem loseLatches_lastStall (g : Gang) : (loseLatches g).lastStall = g.lastStall := rfl
@[simp] theorem loseLatches_issued (g : Gang) : (loseLatches g).issued = g.issued := rfl
@[simp] theorem loseLatches_retired (g : Gang) : (loseLatches g).retired = g.retired := rfl
@[simp] theorem loseLatches_heir (g : Gang) : (loseLatches g).heir = g.heir := rfl

/-! Fields of a gang after pushLatch. -/

@[simp] theorem pushLatch_block (g : Gang) (m : Mask) (d : Nat) (r : Nat → Option W64) : (pushLatch g m d r).block = g.block := rfl
@[simp] theorem pushLatch_gid (g : Gang) (m : Mask) (d : Nat) (r : Nat → Option W64) : (pushLatch g m d r).gid = g.gid := rfl
@[simp] theorem pushLatch_pipe (g : Gang) (m : Mask) (d : Nat) (r : Nat → Option W64) : (pushLatch g m d r).pipe = g.pipe := rfl
@[simp] theorem pushLatch_slot (g : Gang) (m : Mask) (d : Nat) (r : Nat → Option W64) : (pushLatch g m d r).slot = g.slot := rfl
@[simp] theorem pushLatch_created (g : Gang) (m : Mask) (d : Nat) (r : Nat → Option W64) : (pushLatch g m d r).created = g.created := rfl
@[simp] theorem pushLatch_helper (g : Gang) (m : Mask) (d : Nat) (r : Nat → Option W64) : (pushLatch g m d r).helper = g.helper := rfl
@[simp] theorem pushLatch_live (g : Gang) (m : Mask) (d : Nat) (r : Nat → Option W64) : (pushLatch g m d r).live = g.live := rfl
@[simp] theorem pushLatch_v (g : Gang) (m : Mask) (d : Nat) (r : Nat → Option W64) : (pushLatch g m d r).v = g.v := rfl
@[simp] theorem pushLatch_k (g : Gang) (m : Mask) (d : Nat) (r : Nat → Option W64) : (pushLatch g m d r).k = g.k := rfl
@[simp] theorem pushLatch_s (g : Gang) (m : Mask) (d : Nat) (r : Nat → Option W64) : (pushLatch g m d r).s = g.s := rfl
@[simp] theorem pushLatch_frags (g : Gang) (m : Mask) (d : Nat) (r : Nat → Option W64) : (pushLatch g m d r).frags = g.frags := rfl
@[simp] theorem pushLatch_joins (g : Gang) (m : Mask) (d : Nat) (r : Nat → Option W64) : (pushLatch g m d r).joins = g.joins := rfl
@[simp] theorem pushLatch_cur (g : Gang) (m : Mask) (d : Nat) (r : Nat → Option W64) : (pushLatch g m d r).cur = g.cur := rfl
@[simp] theorem pushLatch_handover (g : Gang) (m : Mask) (d : Nat) (r : Nat → Option W64) : (pushLatch g m d r).handover = g.handover := rfl
@[simp] theorem pushLatch_saved (g : Gang) (m : Mask) (d : Nat) (r : Nat → Option W64) : (pushLatch g m d r).saved = g.saved := rfl
@[simp] theorem pushLatch_paths (g : Gang) (m : Mask) (d : Nat) (r : Nat → Option W64) : (pushLatch g m d r).paths = g.paths := rfl
@[simp] theorem pushLatch_gstat (g : Gang) (m : Mask) (d : Nat) (r : Nat → Option W64) : (pushLatch g m d r).gstat = g.gstat := rfl
@[simp] theorem pushLatch_gctl (g : Gang) (m : Mask) (d : Nat) (r : Nat → Option W64) : (pushLatch g m d r).gctl = g.gctl := rfl
@[simp] theorem pushLatch_tstat (g : Gang) (m : Mask) (d : Nat) (r : Nat → Option W64) : (pushLatch g m d r).tstat = g.tstat := rfl
@[simp] theorem pushLatch_tval (g : Gang) (m : Mask) (d : Nat) (r : Nat → Option W64) : (pushLatch g m d r).tval = g.tval := rfl
@[simp] theorem pushLatch_tpc (g : Gang) (m : Mask) (d : Nat) (r : Nat → Option W64) : (pushLatch g m d r).tpc = g.tpc := rfl
@[simp] theorem pushLatch_cpc (g : Gang) (m : Mask) (d : Nat) (r : Nat → Option W64) : (pushLatch g m d r).cpc = g.cpc := rfl
@[simp] theorem pushLatch_contv (g : Gang) (m : Mask) (d : Nat) (r : Nat → Option W64) : (pushLatch g m d r).contv = g.contv := rfl
@[simp] theorem pushLatch_fpctl (g : Gang) (m : Mask) (d : Nat) (r : Nat → Option W64) : (pushLatch g m d r).fpctl = g.fpctl := rfl
@[simp] theorem pushLatch_stalls (g : Gang) (m : Mask) (d : Nat) (r : Nat → Option W64) : (pushLatch g m d r).stalls = g.stalls := rfl
@[simp] theorem pushLatch_monitor (g : Gang) (m : Mask) (d : Nat) (r : Nat → Option W64) : (pushLatch g m d r).monitor = g.monitor := rfl
@[simp] theorem pushLatch_monPa (g : Gang) (m : Mask) (d : Nat) (r : Nat → Option W64) : (pushLatch g m d r).monPa = g.monPa := rfl
@[simp] theorem pushLatch_woken (g : Gang) (m : Mask) (d : Nat) (r : Nat → Option W64) : (pushLatch g m d r).woken = g.woken := rfl
@[simp] theorem pushLatch_bn (g : Gang) (m : Mask) (d : Nat) (r : Nat → Option W64) : (pushLatch g m d r).bn = g.bn := rfl
@[simp] theorem pushLatch_pausing (g : Gang) (m : Mask) (d : Nat) (r : Nat → Option W64) : (pushLatch g m d r).pausing = g.pausing := rfl
@[simp] theorem pushLatch_pauseLeft (g : Gang) (m : Mask) (d : Nat) (r : Nat → Option W64) : (pushLatch g m d r).pauseLeft = g.pauseLeft := rfl
@[simp] theorem pushLatch_pend (g : Gang) (m : Mask) (d : Nat) (r : Nat → Option W64) : (pushLatch g m d r).pend = g.pend := rfl
@[simp] theorem pushLatch_turn (g : Gang) (m : Mask) (d : Nat) (r : Nat → Option W64) : (pushLatch g m d r).turn = g.turn := rfl
@[simp] theorem pushLatch_issueAt (g : Gang) (m : Mask) (d : Nat) (r : Nat → Option W64) : (pushLatch g m d r).issueAt = g.issueAt := rfl
@[simp] theorem pushLatch_flagsDue (g : Gang) (m : Mask) (d : Nat) (r : Nat → Option W64) : (pushLatch g m d r).flagsDue = g.flagsDue := rfl
@[simp] theorem pushLatch_seq (g : Gang) (m : Mask) (d : Nat) (r : Nat → Option W64) : (pushLatch g m d r).seq = g.seq := rfl
@[simp] theorem pushLatch_fence (g : Gang) (m : Mask) (d : Nat) (r : Nat → Option W64) : (pushLatch g m d r).fence = g.fence := rfl
@[simp] theorem pushLatch_halted (g : Gang) (m : Mask) (d : Nat) (r : Nat → Option W64) : (pushLatch g m d r).halted = g.halted := rfl
@[simp] theorem pushLatch_mended (g : Gang) (m : Mask) (d : Nat) (r : Nat → Option W64) : (pushLatch g m d r).mended = g.mended := rfl
@[simp] theorem pushLatch_atHalt (g : Gang) (m : Mask) (d : Nat) (r : Nat → Option W64) : (pushLatch g m d r).atHalt = g.atHalt := rfl
@[simp] theorem pushLatch_held (g : Gang) (m : Mask) (d : Nat) (r : Nat → Option W64) : (pushLatch g m d r).held = g.held := rfl
@[simp] theorem pushLatch_skipBp (g : Gang) (m : Mask) (d : Nat) (r : Nat → Option W64) : (pushLatch g m d r).skipBp = g.skipBp := rfl
@[simp] theorem pushLatch_stepLeft (g : Gang) (m : Mask) (d : Nat) (r : Nat → Option W64) : (pushLatch g m d r).stepLeft = g.stepLeft := rfl
@[simp] theorem pushLatch_yieldAck (g : Gang) (m : Mask) (d : Nat) (r : Nat → Option W64) : (pushLatch g m d r).yieldAck = g.yieldAck := rfl
@[simp] theorem pushLatch_yieldStop (g : Gang) (m : Mask) (d : Nat) (r : Nat → Option W64) : (pushLatch g m d r).yieldStop = g.yieldStop := rfl
@[simp] theorem pushLatch_lastStall (g : Gang) (m : Mask) (d : Nat) (r : Nat → Option W64) : (pushLatch g m d r).lastStall = g.lastStall := rfl
@[simp] theorem pushLatch_issued (g : Gang) (m : Mask) (d : Nat) (r : Nat → Option W64) : (pushLatch g m d r).issued = g.issued := rfl
@[simp] theorem pushLatch_retired (g : Gang) (m : Mask) (d : Nat) (r : Nat → Option W64) : (pushLatch g m d r).retired = g.retired := rfl
@[simp] theorem pushLatch_heir (g : Gang) (m : Mask) (d : Nat) (r : Nat → Option W64) : (pushLatch g m d r).heir = g.heir := rfl

/-! Fields of a gang after switchPoint. -/

@[simp] theorem switchPoint_block (g : Gang) : (switchPoint g).block = g.block := rfl
@[simp] theorem switchPoint_gid (g : Gang) : (switchPoint g).gid = g.gid := rfl
@[simp] theorem switchPoint_pipe (g : Gang) : (switchPoint g).pipe = g.pipe := rfl
@[simp] theorem switchPoint_slot (g : Gang) : (switchPoint g).slot = g.slot := rfl
@[simp] theorem switchPoint_created (g : Gang) : (switchPoint g).created = g.created := rfl
@[simp] theorem switchPoint_helper (g : Gang) : (switchPoint g).helper = g.helper := rfl
@[simp] theorem switchPoint_live (g : Gang) : (switchPoint g).live = g.live := rfl
@[simp] theorem switchPoint_v (g : Gang) : (switchPoint g).v = g.v := rfl
@[simp] theorem switchPoint_k (g : Gang) : (switchPoint g).k = g.k := rfl
@[simp] theorem switchPoint_s (g : Gang) : (switchPoint g).s = g.s := rfl
@[simp] theorem switchPoint_frags (g : Gang) : (switchPoint g).frags = g.frags := rfl
@[simp] theorem switchPoint_joins (g : Gang) : (switchPoint g).joins = g.joins := rfl
@[simp] theorem switchPoint_cur (g : Gang) : (switchPoint g).cur = g.cur := rfl
@[simp] theorem switchPoint_saved (g : Gang) : (switchPoint g).saved = g.saved := rfl
@[simp] theorem switchPoint_paths (g : Gang) : (switchPoint g).paths = g.paths := rfl
@[simp] theorem switchPoint_gstat (g : Gang) : (switchPoint g).gstat = g.gstat := rfl
@[simp] theorem switchPoint_gctl (g : Gang) : (switchPoint g).gctl = g.gctl := rfl
@[simp] theorem switchPoint_tstat (g : Gang) : (switchPoint g).tstat = g.tstat := rfl
@[simp] theorem switchPoint_tval (g : Gang) : (switchPoint g).tval = g.tval := rfl
@[simp] theorem switchPoint_tpc (g : Gang) : (switchPoint g).tpc = g.tpc := rfl
@[simp] theorem switchPoint_cpc (g : Gang) : (switchPoint g).cpc = g.cpc := rfl
@[simp] theorem switchPoint_contv (g : Gang) : (switchPoint g).contv = g.contv := rfl
@[simp] theorem switchPoint_fpctl (g : Gang) : (switchPoint g).fpctl = g.fpctl := rfl
@[simp] theorem switchPoint_stalls (g : Gang) : (switchPoint g).stalls = g.stalls := rfl
@[simp] theorem switchPoint_monitor (g : Gang) : (switchPoint g).monitor = g.monitor := rfl
@[simp] theorem switchPoint_monPa (g : Gang) : (switchPoint g).monPa = g.monPa := rfl
@[simp] theorem switchPoint_woken (g : Gang) : (switchPoint g).woken = g.woken := rfl
@[simp] theorem switchPoint_bn (g : Gang) : (switchPoint g).bn = g.bn := rfl
@[simp] theorem switchPoint_pausing (g : Gang) : (switchPoint g).pausing = g.pausing := rfl
@[simp] theorem switchPoint_pauseLeft (g : Gang) : (switchPoint g).pauseLeft = g.pauseLeft := rfl
@[simp] theorem switchPoint_pend (g : Gang) : (switchPoint g).pend = g.pend := rfl
@[simp] theorem switchPoint_turn (g : Gang) : (switchPoint g).turn = g.turn := rfl
@[simp] theorem switchPoint_issueAt (g : Gang) : (switchPoint g).issueAt = g.issueAt := rfl
@[simp] theorem switchPoint_flagsDue (g : Gang) : (switchPoint g).flagsDue = g.flagsDue := rfl
@[simp] theorem switchPoint_seq (g : Gang) : (switchPoint g).seq = g.seq := rfl
@[simp] theorem switchPoint_fence (g : Gang) : (switchPoint g).fence = g.fence := rfl
@[simp] theorem switchPoint_halted (g : Gang) : (switchPoint g).halted = g.halted := rfl
@[simp] theorem switchPoint_mended (g : Gang) : (switchPoint g).mended = g.mended := rfl
@[simp] theorem switchPoint_atHalt (g : Gang) : (switchPoint g).atHalt = g.atHalt := rfl
@[simp] theorem switchPoint_held (g : Gang) : (switchPoint g).held = g.held := rfl
@[simp] theorem switchPoint_skipBp (g : Gang) : (switchPoint g).skipBp = g.skipBp := rfl
@[simp] theorem switchPoint_stepLeft (g : Gang) : (switchPoint g).stepLeft = g.stepLeft := rfl
@[simp] theorem switchPoint_yieldAck (g : Gang) : (switchPoint g).yieldAck = g.yieldAck := rfl
@[simp] theorem switchPoint_yieldStop (g : Gang) : (switchPoint g).yieldStop = g.yieldStop := rfl
@[simp] theorem switchPoint_lastStall (g : Gang) : (switchPoint g).lastStall = g.lastStall := rfl
@[simp] theorem switchPoint_issued (g : Gang) : (switchPoint g).issued = g.issued := rfl
@[simp] theorem switchPoint_retired (g : Gang) : (switchPoint g).retired = g.retired := rfl
@[simp] theorem switchPoint_heir (g : Gang) : (switchPoint g).heir = g.heir := rfl

/-! Fields of a gang after switchAt. -/

@[simp] theorem switchAt_block (i : Issue) (g : Gang) : (switchAt i g).block = g.block := by unfold switchAt; split <;> rfl
@[simp] theorem switchAt_gid (i : Issue) (g : Gang) : (switchAt i g).gid = g.gid := by unfold switchAt; split <;> rfl
@[simp] theorem switchAt_pipe (i : Issue) (g : Gang) : (switchAt i g).pipe = g.pipe := by unfold switchAt; split <;> rfl
@[simp] theorem switchAt_slot (i : Issue) (g : Gang) : (switchAt i g).slot = g.slot := by unfold switchAt; split <;> rfl
@[simp] theorem switchAt_created (i : Issue) (g : Gang) : (switchAt i g).created = g.created := by unfold switchAt; split <;> rfl
@[simp] theorem switchAt_helper (i : Issue) (g : Gang) : (switchAt i g).helper = g.helper := by unfold switchAt; split <;> rfl
@[simp] theorem switchAt_live (i : Issue) (g : Gang) : (switchAt i g).live = g.live := by unfold switchAt; split <;> rfl
@[simp] theorem switchAt_v (i : Issue) (g : Gang) : (switchAt i g).v = g.v := by unfold switchAt; split <;> rfl
@[simp] theorem switchAt_k (i : Issue) (g : Gang) : (switchAt i g).k = g.k := by unfold switchAt; split <;> rfl
@[simp] theorem switchAt_s (i : Issue) (g : Gang) : (switchAt i g).s = g.s := by unfold switchAt; split <;> rfl
@[simp] theorem switchAt_frags (i : Issue) (g : Gang) : (switchAt i g).frags = g.frags := by unfold switchAt; split <;> rfl
@[simp] theorem switchAt_joins (i : Issue) (g : Gang) : (switchAt i g).joins = g.joins := by unfold switchAt; split <;> rfl
@[simp] theorem switchAt_cur (i : Issue) (g : Gang) : (switchAt i g).cur = g.cur := by unfold switchAt; split <;> rfl
@[simp] theorem switchAt_saved (i : Issue) (g : Gang) : (switchAt i g).saved = g.saved := by unfold switchAt; split <;> rfl
@[simp] theorem switchAt_paths (i : Issue) (g : Gang) : (switchAt i g).paths = g.paths := by unfold switchAt; split <;> rfl
@[simp] theorem switchAt_gstat (i : Issue) (g : Gang) : (switchAt i g).gstat = g.gstat := by unfold switchAt; split <;> rfl
@[simp] theorem switchAt_gctl (i : Issue) (g : Gang) : (switchAt i g).gctl = g.gctl := by unfold switchAt; split <;> rfl
@[simp] theorem switchAt_tstat (i : Issue) (g : Gang) : (switchAt i g).tstat = g.tstat := by unfold switchAt; split <;> rfl
@[simp] theorem switchAt_tval (i : Issue) (g : Gang) : (switchAt i g).tval = g.tval := by unfold switchAt; split <;> rfl
@[simp] theorem switchAt_tpc (i : Issue) (g : Gang) : (switchAt i g).tpc = g.tpc := by unfold switchAt; split <;> rfl
@[simp] theorem switchAt_cpc (i : Issue) (g : Gang) : (switchAt i g).cpc = g.cpc := by unfold switchAt; split <;> rfl
@[simp] theorem switchAt_contv (i : Issue) (g : Gang) : (switchAt i g).contv = g.contv := by unfold switchAt; split <;> rfl
@[simp] theorem switchAt_fpctl (i : Issue) (g : Gang) : (switchAt i g).fpctl = g.fpctl := by unfold switchAt; split <;> rfl
@[simp] theorem switchAt_stalls (i : Issue) (g : Gang) : (switchAt i g).stalls = g.stalls := by unfold switchAt; split <;> rfl
@[simp] theorem switchAt_monitor (i : Issue) (g : Gang) : (switchAt i g).monitor = g.monitor := by unfold switchAt; split <;> rfl
@[simp] theorem switchAt_monPa (i : Issue) (g : Gang) : (switchAt i g).monPa = g.monPa := by unfold switchAt; split <;> rfl
@[simp] theorem switchAt_woken (i : Issue) (g : Gang) : (switchAt i g).woken = g.woken := by unfold switchAt; split <;> rfl
@[simp] theorem switchAt_bn (i : Issue) (g : Gang) : (switchAt i g).bn = g.bn := by unfold switchAt; split <;> rfl
@[simp] theorem switchAt_pausing (i : Issue) (g : Gang) : (switchAt i g).pausing = g.pausing := by unfold switchAt; split <;> rfl
@[simp] theorem switchAt_pauseLeft (i : Issue) (g : Gang) : (switchAt i g).pauseLeft = g.pauseLeft := by unfold switchAt; split <;> rfl
@[simp] theorem switchAt_pend (i : Issue) (g : Gang) : (switchAt i g).pend = g.pend := by unfold switchAt; split <;> rfl
@[simp] theorem switchAt_turn (i : Issue) (g : Gang) : (switchAt i g).turn = g.turn := by unfold switchAt; split <;> rfl
@[simp] theorem switchAt_issueAt (i : Issue) (g : Gang) : (switchAt i g).issueAt = g.issueAt := by unfold switchAt; split <;> rfl
@[simp] theorem switchAt_flagsDue (i : Issue) (g : Gang) : (switchAt i g).flagsDue = g.flagsDue := by unfold switchAt; split <;> rfl
@[simp] theorem switchAt_seq (i : Issue) (g : Gang) : (switchAt i g).seq = g.seq := by unfold switchAt; split <;> rfl
@[simp] theorem switchAt_fence (i : Issue) (g : Gang) : (switchAt i g).fence = g.fence := by unfold switchAt; split <;> rfl
@[simp] theorem switchAt_halted (i : Issue) (g : Gang) : (switchAt i g).halted = g.halted := by unfold switchAt; split <;> rfl
@[simp] theorem switchAt_mended (i : Issue) (g : Gang) : (switchAt i g).mended = g.mended := by unfold switchAt; split <;> rfl
@[simp] theorem switchAt_atHalt (i : Issue) (g : Gang) : (switchAt i g).atHalt = g.atHalt := by unfold switchAt; split <;> rfl
@[simp] theorem switchAt_held (i : Issue) (g : Gang) : (switchAt i g).held = g.held := by unfold switchAt; split <;> rfl
@[simp] theorem switchAt_skipBp (i : Issue) (g : Gang) : (switchAt i g).skipBp = g.skipBp := by unfold switchAt; split <;> rfl
@[simp] theorem switchAt_stepLeft (i : Issue) (g : Gang) : (switchAt i g).stepLeft = g.stepLeft := by unfold switchAt; split <;> rfl
@[simp] theorem switchAt_yieldAck (i : Issue) (g : Gang) : (switchAt i g).yieldAck = g.yieldAck := by unfold switchAt; split <;> rfl
@[simp] theorem switchAt_yieldStop (i : Issue) (g : Gang) : (switchAt i g).yieldStop = g.yieldStop := by unfold switchAt; split <;> rfl
@[simp] theorem switchAt_lastStall (i : Issue) (g : Gang) : (switchAt i g).lastStall = g.lastStall := by unfold switchAt; split <;> rfl
@[simp] theorem switchAt_issued (i : Issue) (g : Gang) : (switchAt i g).issued = g.issued := by unfold switchAt; split <;> rfl
@[simp] theorem switchAt_retired (i : Issue) (g : Gang) : (switchAt i g).retired = g.retired := by unfold switchAt; split <;> rfl
@[simp] theorem switchAt_heir (i : Issue) (g : Gang) : (switchAt i g).heir = g.heir := by unfold switchAt; split <;> rfl

/-! Fields of a gang after tickIssue. -/

@[simp] theorem tickIssue_block (g : Gang) (n : Nat) : (tickIssue g n).block = g.block := rfl
@[simp] theorem tickIssue_gid (g : Gang) (n : Nat) : (tickIssue g n).gid = g.gid := rfl
@[simp] theorem tickIssue_pipe (g : Gang) (n : Nat) : (tickIssue g n).pipe = g.pipe := rfl
@[simp] theorem tickIssue_slot (g : Gang) (n : Nat) : (tickIssue g n).slot = g.slot := rfl
@[simp] theorem tickIssue_created (g : Gang) (n : Nat) : (tickIssue g n).created = g.created := rfl
@[simp] theorem tickIssue_helper (g : Gang) (n : Nat) : (tickIssue g n).helper = g.helper := rfl
@[simp] theorem tickIssue_live (g : Gang) (n : Nat) : (tickIssue g n).live = g.live := rfl
@[simp] theorem tickIssue_v (g : Gang) (n : Nat) : (tickIssue g n).v = g.v := rfl
@[simp] theorem tickIssue_k (g : Gang) (n : Nat) : (tickIssue g n).k = g.k := rfl
@[simp] theorem tickIssue_s (g : Gang) (n : Nat) : (tickIssue g n).s = g.s := rfl
@[simp] theorem tickIssue_latch (g : Gang) (n : Nat) : (tickIssue g n).latch = g.latch := rfl
@[simp] theorem tickIssue_latchDue (g : Gang) (n : Nat) : (tickIssue g n).latchDue = g.latchDue := rfl
@[simp] theorem tickIssue_frags (g : Gang) (n : Nat) : (tickIssue g n).frags = g.frags := rfl
@[simp] theorem tickIssue_joins (g : Gang) (n : Nat) : (tickIssue g n).joins = g.joins := rfl
@[simp] theorem tickIssue_cur (g : Gang) (n : Nat) : (tickIssue g n).cur = g.cur := rfl
@[simp] theorem tickIssue_saved (g : Gang) (n : Nat) : (tickIssue g n).saved = g.saved := rfl
@[simp] theorem tickIssue_paths (g : Gang) (n : Nat) : (tickIssue g n).paths = g.paths := rfl
@[simp] theorem tickIssue_gstat (g : Gang) (n : Nat) : (tickIssue g n).gstat = g.gstat := rfl
@[simp] theorem tickIssue_gctl (g : Gang) (n : Nat) : (tickIssue g n).gctl = g.gctl := rfl
@[simp] theorem tickIssue_tstat (g : Gang) (n : Nat) : (tickIssue g n).tstat = g.tstat := rfl
@[simp] theorem tickIssue_tval (g : Gang) (n : Nat) : (tickIssue g n).tval = g.tval := rfl
@[simp] theorem tickIssue_tpc (g : Gang) (n : Nat) : (tickIssue g n).tpc = g.tpc := rfl
@[simp] theorem tickIssue_cpc (g : Gang) (n : Nat) : (tickIssue g n).cpc = g.cpc := rfl
@[simp] theorem tickIssue_contv (g : Gang) (n : Nat) : (tickIssue g n).contv = g.contv := rfl
@[simp] theorem tickIssue_fpctl (g : Gang) (n : Nat) : (tickIssue g n).fpctl = g.fpctl := rfl
@[simp] theorem tickIssue_stalls (g : Gang) (n : Nat) : (tickIssue g n).stalls = g.stalls := rfl
@[simp] theorem tickIssue_monitor (g : Gang) (n : Nat) : (tickIssue g n).monitor = g.monitor := rfl
@[simp] theorem tickIssue_monPa (g : Gang) (n : Nat) : (tickIssue g n).monPa = g.monPa := rfl
@[simp] theorem tickIssue_woken (g : Gang) (n : Nat) : (tickIssue g n).woken = g.woken := rfl
@[simp] theorem tickIssue_bn (g : Gang) (n : Nat) : (tickIssue g n).bn = g.bn := rfl
@[simp] theorem tickIssue_pausing (g : Gang) (n : Nat) : (tickIssue g n).pausing = g.pausing := rfl
@[simp] theorem tickIssue_pauseLeft (g : Gang) (n : Nat) : (tickIssue g n).pauseLeft = g.pauseLeft := rfl
@[simp] theorem tickIssue_turn (g : Gang) (n : Nat) : (tickIssue g n).turn = g.turn := rfl
@[simp] theorem tickIssue_flagsDue (g : Gang) (n : Nat) : (tickIssue g n).flagsDue = g.flagsDue := rfl
@[simp] theorem tickIssue_fence (g : Gang) (n : Nat) : (tickIssue g n).fence = g.fence := rfl
@[simp] theorem tickIssue_halted (g : Gang) (n : Nat) : (tickIssue g n).halted = g.halted := rfl
@[simp] theorem tickIssue_mended (g : Gang) (n : Nat) : (tickIssue g n).mended = g.mended := rfl
@[simp] theorem tickIssue_atHalt (g : Gang) (n : Nat) : (tickIssue g n).atHalt = g.atHalt := rfl
@[simp] theorem tickIssue_held (g : Gang) (n : Nat) : (tickIssue g n).held = g.held := rfl
@[simp] theorem tickIssue_yieldAck (g : Gang) (n : Nat) : (tickIssue g n).yieldAck = g.yieldAck := rfl
@[simp] theorem tickIssue_yieldStop (g : Gang) (n : Nat) : (tickIssue g n).yieldStop = g.yieldStop := rfl
@[simp] theorem tickIssue_lastStall (g : Gang) (n : Nat) : (tickIssue g n).lastStall = g.lastStall := rfl
@[simp] theorem tickIssue_retired (g : Gang) (n : Nat) : (tickIssue g n).retired = g.retired := rfl
@[simp] theorem tickIssue_heir (g : Gang) (n : Nat) : (tickIssue g n).heir = g.heir := rfl

/-! Fields of a gang after setPc. -/

@[simp] theorem setPc_block (i : Issue) (g : Gang) (pc : W64) : (setPc i g pc).block = g.block := by unfold setPc; split <;> rfl
@[simp] theorem setPc_gid (i : Issue) (g : Gang) (pc : W64) : (setPc i g pc).gid = g.gid := by unfold setPc; split <;> rfl
@[simp] theorem setPc_pipe (i : Issue) (g : Gang) (pc : W64) : (setPc i g pc).pipe = g.pipe := by unfold setPc; split <;> rfl
@[simp] theorem setPc_slot (i : Issue) (g : Gang) (pc : W64) : (setPc i g pc).slot = g.slot := by unfold setPc; split <;> rfl
@[simp] theorem setPc_created (i : Issue) (g : Gang) (pc : W64) : (setPc i g pc).created = g.created := by unfold setPc; split <;> rfl
@[simp] theorem setPc_helper (i : Issue) (g : Gang) (pc : W64) : (setPc i g pc).helper = g.helper := by unfold setPc; split <;> rfl
@[simp] theorem setPc_live (i : Issue) (g : Gang) (pc : W64) : (setPc i g pc).live = g.live := by unfold setPc; split <;> rfl
@[simp] theorem setPc_v (i : Issue) (g : Gang) (pc : W64) : (setPc i g pc).v = g.v := by unfold setPc; split <;> rfl
@[simp] theorem setPc_k (i : Issue) (g : Gang) (pc : W64) : (setPc i g pc).k = g.k := by unfold setPc; split <;> rfl
@[simp] theorem setPc_s (i : Issue) (g : Gang) (pc : W64) : (setPc i g pc).s = g.s := by unfold setPc; split <;> rfl
@[simp] theorem setPc_latch (i : Issue) (g : Gang) (pc : W64) : (setPc i g pc).latch = g.latch := by unfold setPc; split <;> rfl
@[simp] theorem setPc_latchDue (i : Issue) (g : Gang) (pc : W64) : (setPc i g pc).latchDue = g.latchDue := by unfold setPc; split <;> rfl
@[simp] theorem setPc_joins (i : Issue) (g : Gang) (pc : W64) : (setPc i g pc).joins = g.joins := by unfold setPc; split <;> rfl
@[simp] theorem setPc_cur (i : Issue) (g : Gang) (pc : W64) : (setPc i g pc).cur = g.cur := by unfold setPc; split <;> rfl
@[simp] theorem setPc_saved (i : Issue) (g : Gang) (pc : W64) : (setPc i g pc).saved = g.saved := by unfold setPc; split <;> rfl
@[simp] theorem setPc_paths (i : Issue) (g : Gang) (pc : W64) : (setPc i g pc).paths = g.paths := by unfold setPc; split <;> rfl
@[simp] theorem setPc_gstat (i : Issue) (g : Gang) (pc : W64) : (setPc i g pc).gstat = g.gstat := by unfold setPc; split <;> rfl
@[simp] theorem setPc_gctl (i : Issue) (g : Gang) (pc : W64) : (setPc i g pc).gctl = g.gctl := by unfold setPc; split <;> rfl
@[simp] theorem setPc_tstat (i : Issue) (g : Gang) (pc : W64) : (setPc i g pc).tstat = g.tstat := by unfold setPc; split <;> rfl
@[simp] theorem setPc_tval (i : Issue) (g : Gang) (pc : W64) : (setPc i g pc).tval = g.tval := by unfold setPc; split <;> rfl
@[simp] theorem setPc_tpc (i : Issue) (g : Gang) (pc : W64) : (setPc i g pc).tpc = g.tpc := by unfold setPc; split <;> rfl
@[simp] theorem setPc_cpc (i : Issue) (g : Gang) (pc : W64) : (setPc i g pc).cpc = g.cpc := by unfold setPc; split <;> rfl
@[simp] theorem setPc_contv (i : Issue) (g : Gang) (pc : W64) : (setPc i g pc).contv = g.contv := by unfold setPc; split <;> rfl
@[simp] theorem setPc_fpctl (i : Issue) (g : Gang) (pc : W64) : (setPc i g pc).fpctl = g.fpctl := by unfold setPc; split <;> rfl
@[simp] theorem setPc_stalls (i : Issue) (g : Gang) (pc : W64) : (setPc i g pc).stalls = g.stalls := by unfold setPc; split <;> rfl
@[simp] theorem setPc_monitor (i : Issue) (g : Gang) (pc : W64) : (setPc i g pc).monitor = g.monitor := by unfold setPc; split <;> rfl
@[simp] theorem setPc_monPa (i : Issue) (g : Gang) (pc : W64) : (setPc i g pc).monPa = g.monPa := by unfold setPc; split <;> rfl
@[simp] theorem setPc_woken (i : Issue) (g : Gang) (pc : W64) : (setPc i g pc).woken = g.woken := by unfold setPc; split <;> rfl
@[simp] theorem setPc_bn (i : Issue) (g : Gang) (pc : W64) : (setPc i g pc).bn = g.bn := by unfold setPc; split <;> rfl
@[simp] theorem setPc_pausing (i : Issue) (g : Gang) (pc : W64) : (setPc i g pc).pausing = g.pausing := by unfold setPc; split <;> rfl
@[simp] theorem setPc_pauseLeft (i : Issue) (g : Gang) (pc : W64) : (setPc i g pc).pauseLeft = g.pauseLeft := by unfold setPc; split <;> rfl
@[simp] theorem setPc_pend (i : Issue) (g : Gang) (pc : W64) : (setPc i g pc).pend = g.pend := by unfold setPc; split <;> rfl
@[simp] theorem setPc_turn (i : Issue) (g : Gang) (pc : W64) : (setPc i g pc).turn = g.turn := by unfold setPc; split <;> rfl
@[simp] theorem setPc_issueAt (i : Issue) (g : Gang) (pc : W64) : (setPc i g pc).issueAt = g.issueAt := by unfold setPc; split <;> rfl
@[simp] theorem setPc_flagsDue (i : Issue) (g : Gang) (pc : W64) : (setPc i g pc).flagsDue = g.flagsDue := by unfold setPc; split <;> rfl
@[simp] theorem setPc_seq (i : Issue) (g : Gang) (pc : W64) : (setPc i g pc).seq = g.seq := by unfold setPc; split <;> rfl
@[simp] theorem setPc_fence (i : Issue) (g : Gang) (pc : W64) : (setPc i g pc).fence = g.fence := by unfold setPc; split <;> rfl
@[simp] theorem setPc_halted (i : Issue) (g : Gang) (pc : W64) : (setPc i g pc).halted = g.halted := by unfold setPc; split <;> rfl
@[simp] theorem setPc_mended (i : Issue) (g : Gang) (pc : W64) : (setPc i g pc).mended = g.mended := by unfold setPc; split <;> rfl
@[simp] theorem setPc_atHalt (i : Issue) (g : Gang) (pc : W64) : (setPc i g pc).atHalt = g.atHalt := by unfold setPc; split <;> rfl
@[simp] theorem setPc_held (i : Issue) (g : Gang) (pc : W64) : (setPc i g pc).held = g.held := by unfold setPc; split <;> rfl
@[simp] theorem setPc_skipBp (i : Issue) (g : Gang) (pc : W64) : (setPc i g pc).skipBp = g.skipBp := by unfold setPc; split <;> rfl
@[simp] theorem setPc_stepLeft (i : Issue) (g : Gang) (pc : W64) : (setPc i g pc).stepLeft = g.stepLeft := by unfold setPc; split <;> rfl
@[simp] theorem setPc_yieldAck (i : Issue) (g : Gang) (pc : W64) : (setPc i g pc).yieldAck = g.yieldAck := by unfold setPc; split <;> rfl
@[simp] theorem setPc_yieldStop (i : Issue) (g : Gang) (pc : W64) : (setPc i g pc).yieldStop = g.yieldStop := by unfold setPc; split <;> rfl
@[simp] theorem setPc_lastStall (i : Issue) (g : Gang) (pc : W64) : (setPc i g pc).lastStall = g.lastStall := by unfold setPc; split <;> rfl
@[simp] theorem setPc_issued (i : Issue) (g : Gang) (pc : W64) : (setPc i g pc).issued = g.issued := by unfold setPc; split <;> rfl
@[simp] theorem setPc_retired (i : Issue) (g : Gang) (pc : W64) : (setPc i g pc).retired = g.retired := by unfold setPc; split <;> rfl
@[simp] theorem setPc_heir (i : Issue) (g : Gang) (pc : W64) : (setPc i g pc).heir = g.heir := by unfold setPc; split <;> rfl

/-! Fields of a gang after setWait. -/

@[simp] theorem setWait_block (i : Issue) (g : Gang) (w : Wait) : (setWait i g w).block = g.block := rfl
@[simp] theorem setWait_gid (i : Issue) (g : Gang) (w : Wait) : (setWait i g w).gid = g.gid := rfl
@[simp] theorem setWait_pipe (i : Issue) (g : Gang) (w : Wait) : (setWait i g w).pipe = g.pipe := rfl
@[simp] theorem setWait_slot (i : Issue) (g : Gang) (w : Wait) : (setWait i g w).slot = g.slot := rfl
@[simp] theorem setWait_created (i : Issue) (g : Gang) (w : Wait) : (setWait i g w).created = g.created := rfl
@[simp] theorem setWait_helper (i : Issue) (g : Gang) (w : Wait) : (setWait i g w).helper = g.helper := rfl
@[simp] theorem setWait_live (i : Issue) (g : Gang) (w : Wait) : (setWait i g w).live = g.live := rfl
@[simp] theorem setWait_v (i : Issue) (g : Gang) (w : Wait) : (setWait i g w).v = g.v := rfl
@[simp] theorem setWait_k (i : Issue) (g : Gang) (w : Wait) : (setWait i g w).k = g.k := rfl
@[simp] theorem setWait_s (i : Issue) (g : Gang) (w : Wait) : (setWait i g w).s = g.s := rfl
@[simp] theorem setWait_latch (i : Issue) (g : Gang) (w : Wait) : (setWait i g w).latch = g.latch := rfl
@[simp] theorem setWait_latchDue (i : Issue) (g : Gang) (w : Wait) : (setWait i g w).latchDue = g.latchDue := rfl
@[simp] theorem setWait_joins (i : Issue) (g : Gang) (w : Wait) : (setWait i g w).joins = g.joins := rfl
@[simp] theorem setWait_cur (i : Issue) (g : Gang) (w : Wait) : (setWait i g w).cur = g.cur := rfl
@[simp] theorem setWait_handover (i : Issue) (g : Gang) (w : Wait) : (setWait i g w).handover = g.handover := rfl
@[simp] theorem setWait_saved (i : Issue) (g : Gang) (w : Wait) : (setWait i g w).saved = g.saved := rfl
@[simp] theorem setWait_paths (i : Issue) (g : Gang) (w : Wait) : (setWait i g w).paths = g.paths := rfl
@[simp] theorem setWait_gstat (i : Issue) (g : Gang) (w : Wait) : (setWait i g w).gstat = g.gstat := rfl
@[simp] theorem setWait_gctl (i : Issue) (g : Gang) (w : Wait) : (setWait i g w).gctl = g.gctl := rfl
@[simp] theorem setWait_tstat (i : Issue) (g : Gang) (w : Wait) : (setWait i g w).tstat = g.tstat := rfl
@[simp] theorem setWait_tval (i : Issue) (g : Gang) (w : Wait) : (setWait i g w).tval = g.tval := rfl
@[simp] theorem setWait_tpc (i : Issue) (g : Gang) (w : Wait) : (setWait i g w).tpc = g.tpc := rfl
@[simp] theorem setWait_cpc (i : Issue) (g : Gang) (w : Wait) : (setWait i g w).cpc = g.cpc := rfl
@[simp] theorem setWait_contv (i : Issue) (g : Gang) (w : Wait) : (setWait i g w).contv = g.contv := rfl
@[simp] theorem setWait_fpctl (i : Issue) (g : Gang) (w : Wait) : (setWait i g w).fpctl = g.fpctl := rfl
@[simp] theorem setWait_stalls (i : Issue) (g : Gang) (w : Wait) : (setWait i g w).stalls = g.stalls := rfl
@[simp] theorem setWait_monitor (i : Issue) (g : Gang) (w : Wait) : (setWait i g w).monitor = g.monitor := rfl
@[simp] theorem setWait_monPa (i : Issue) (g : Gang) (w : Wait) : (setWait i g w).monPa = g.monPa := rfl
@[simp] theorem setWait_woken (i : Issue) (g : Gang) (w : Wait) : (setWait i g w).woken = g.woken := rfl
@[simp] theorem setWait_bn (i : Issue) (g : Gang) (w : Wait) : (setWait i g w).bn = g.bn := rfl
@[simp] theorem setWait_pausing (i : Issue) (g : Gang) (w : Wait) : (setWait i g w).pausing = g.pausing := rfl
@[simp] theorem setWait_pauseLeft (i : Issue) (g : Gang) (w : Wait) : (setWait i g w).pauseLeft = g.pauseLeft := rfl
@[simp] theorem setWait_pend (i : Issue) (g : Gang) (w : Wait) : (setWait i g w).pend = g.pend := rfl
@[simp] theorem setWait_turn (i : Issue) (g : Gang) (w : Wait) : (setWait i g w).turn = g.turn := rfl
@[simp] theorem setWait_issueAt (i : Issue) (g : Gang) (w : Wait) : (setWait i g w).issueAt = g.issueAt := rfl
@[simp] theorem setWait_flagsDue (i : Issue) (g : Gang) (w : Wait) : (setWait i g w).flagsDue = g.flagsDue := rfl
@[simp] theorem setWait_seq (i : Issue) (g : Gang) (w : Wait) : (setWait i g w).seq = g.seq := rfl
@[simp] theorem setWait_fence (i : Issue) (g : Gang) (w : Wait) : (setWait i g w).fence = g.fence := rfl
@[simp] theorem setWait_halted (i : Issue) (g : Gang) (w : Wait) : (setWait i g w).halted = g.halted := rfl
@[simp] theorem setWait_mended (i : Issue) (g : Gang) (w : Wait) : (setWait i g w).mended = g.mended := rfl
@[simp] theorem setWait_atHalt (i : Issue) (g : Gang) (w : Wait) : (setWait i g w).atHalt = g.atHalt := rfl
@[simp] theorem setWait_held (i : Issue) (g : Gang) (w : Wait) : (setWait i g w).held = g.held := rfl
@[simp] theorem setWait_skipBp (i : Issue) (g : Gang) (w : Wait) : (setWait i g w).skipBp = g.skipBp := rfl
@[simp] theorem setWait_stepLeft (i : Issue) (g : Gang) (w : Wait) : (setWait i g w).stepLeft = g.stepLeft := rfl
@[simp] theorem setWait_yieldAck (i : Issue) (g : Gang) (w : Wait) : (setWait i g w).yieldAck = g.yieldAck := rfl
@[simp] theorem setWait_yieldStop (i : Issue) (g : Gang) (w : Wait) : (setWait i g w).yieldStop = g.yieldStop := rfl
@[simp] theorem setWait_lastStall (i : Issue) (g : Gang) (w : Wait) : (setWait i g w).lastStall = g.lastStall := rfl
@[simp] theorem setWait_issued (i : Issue) (g : Gang) (w : Wait) : (setWait i g w).issued = g.issued := rfl
@[simp] theorem setWait_retired (i : Issue) (g : Gang) (w : Wait) : (setWait i g w).retired = g.retired := rfl
@[simp] theorem setWait_heir (i : Issue) (g : Gang) (w : Wait) : (setWait i g w).heir = g.heir := rfl

/-! Fields of a gang after pendUntil. -/

@[simp] theorem pendUntil_block (g : Gang) (rs : List RegName) (n : Nat) : (pendUntil g rs n).block = g.block := by unfold pendUntil; split <;> rfl
@[simp] theorem pendUntil_gid (g : Gang) (rs : List RegName) (n : Nat) : (pendUntil g rs n).gid = g.gid := by unfold pendUntil; split <;> rfl
@[simp] theorem pendUntil_pipe (g : Gang) (rs : List RegName) (n : Nat) : (pendUntil g rs n).pipe = g.pipe := by unfold pendUntil; split <;> rfl
@[simp] theorem pendUntil_slot (g : Gang) (rs : List RegName) (n : Nat) : (pendUntil g rs n).slot = g.slot := by unfold pendUntil; split <;> rfl
@[simp] theorem pendUntil_created (g : Gang) (rs : List RegName) (n : Nat) : (pendUntil g rs n).created = g.created := by unfold pendUntil; split <;> rfl
@[simp] theorem pendUntil_helper (g : Gang) (rs : List RegName) (n : Nat) : (pendUntil g rs n).helper = g.helper := by unfold pendUntil; split <;> rfl
@[simp] theorem pendUntil_live (g : Gang) (rs : List RegName) (n : Nat) : (pendUntil g rs n).live = g.live := by unfold pendUntil; split <;> rfl
@[simp] theorem pendUntil_v (g : Gang) (rs : List RegName) (n : Nat) : (pendUntil g rs n).v = g.v := by unfold pendUntil; split <;> rfl
@[simp] theorem pendUntil_k (g : Gang) (rs : List RegName) (n : Nat) : (pendUntil g rs n).k = g.k := by unfold pendUntil; split <;> rfl
@[simp] theorem pendUntil_s (g : Gang) (rs : List RegName) (n : Nat) : (pendUntil g rs n).s = g.s := by unfold pendUntil; split <;> rfl
@[simp] theorem pendUntil_latch (g : Gang) (rs : List RegName) (n : Nat) : (pendUntil g rs n).latch = g.latch := by unfold pendUntil; split <;> rfl
@[simp] theorem pendUntil_latchDue (g : Gang) (rs : List RegName) (n : Nat) : (pendUntil g rs n).latchDue = g.latchDue := by unfold pendUntil; split <;> rfl
@[simp] theorem pendUntil_frags (g : Gang) (rs : List RegName) (n : Nat) : (pendUntil g rs n).frags = g.frags := by unfold pendUntil; split <;> rfl
@[simp] theorem pendUntil_joins (g : Gang) (rs : List RegName) (n : Nat) : (pendUntil g rs n).joins = g.joins := by unfold pendUntil; split <;> rfl
@[simp] theorem pendUntil_cur (g : Gang) (rs : List RegName) (n : Nat) : (pendUntil g rs n).cur = g.cur := by unfold pendUntil; split <;> rfl
@[simp] theorem pendUntil_handover (g : Gang) (rs : List RegName) (n : Nat) : (pendUntil g rs n).handover = g.handover := by unfold pendUntil; split <;> rfl
@[simp] theorem pendUntil_saved (g : Gang) (rs : List RegName) (n : Nat) : (pendUntil g rs n).saved = g.saved := by unfold pendUntil; split <;> rfl
@[simp] theorem pendUntil_paths (g : Gang) (rs : List RegName) (n : Nat) : (pendUntil g rs n).paths = g.paths := by unfold pendUntil; split <;> rfl
@[simp] theorem pendUntil_gstat (g : Gang) (rs : List RegName) (n : Nat) : (pendUntil g rs n).gstat = g.gstat := by unfold pendUntil; split <;> rfl
@[simp] theorem pendUntil_gctl (g : Gang) (rs : List RegName) (n : Nat) : (pendUntil g rs n).gctl = g.gctl := by unfold pendUntil; split <;> rfl
@[simp] theorem pendUntil_tstat (g : Gang) (rs : List RegName) (n : Nat) : (pendUntil g rs n).tstat = g.tstat := by unfold pendUntil; split <;> rfl
@[simp] theorem pendUntil_tval (g : Gang) (rs : List RegName) (n : Nat) : (pendUntil g rs n).tval = g.tval := by unfold pendUntil; split <;> rfl
@[simp] theorem pendUntil_tpc (g : Gang) (rs : List RegName) (n : Nat) : (pendUntil g rs n).tpc = g.tpc := by unfold pendUntil; split <;> rfl
@[simp] theorem pendUntil_cpc (g : Gang) (rs : List RegName) (n : Nat) : (pendUntil g rs n).cpc = g.cpc := by unfold pendUntil; split <;> rfl
@[simp] theorem pendUntil_contv (g : Gang) (rs : List RegName) (n : Nat) : (pendUntil g rs n).contv = g.contv := by unfold pendUntil; split <;> rfl
@[simp] theorem pendUntil_fpctl (g : Gang) (rs : List RegName) (n : Nat) : (pendUntil g rs n).fpctl = g.fpctl := by unfold pendUntil; split <;> rfl
@[simp] theorem pendUntil_stalls (g : Gang) (rs : List RegName) (n : Nat) : (pendUntil g rs n).stalls = g.stalls := by unfold pendUntil; split <;> rfl
@[simp] theorem pendUntil_monitor (g : Gang) (rs : List RegName) (n : Nat) : (pendUntil g rs n).monitor = g.monitor := by unfold pendUntil; split <;> rfl
@[simp] theorem pendUntil_monPa (g : Gang) (rs : List RegName) (n : Nat) : (pendUntil g rs n).monPa = g.monPa := by unfold pendUntil; split <;> rfl
@[simp] theorem pendUntil_woken (g : Gang) (rs : List RegName) (n : Nat) : (pendUntil g rs n).woken = g.woken := by unfold pendUntil; split <;> rfl
@[simp] theorem pendUntil_bn (g : Gang) (rs : List RegName) (n : Nat) : (pendUntil g rs n).bn = g.bn := by unfold pendUntil; split <;> rfl
@[simp] theorem pendUntil_pausing (g : Gang) (rs : List RegName) (n : Nat) : (pendUntil g rs n).pausing = g.pausing := by unfold pendUntil; split <;> rfl
@[simp] theorem pendUntil_pauseLeft (g : Gang) (rs : List RegName) (n : Nat) : (pendUntil g rs n).pauseLeft = g.pauseLeft := by unfold pendUntil; split <;> rfl
@[simp] theorem pendUntil_turn (g : Gang) (rs : List RegName) (n : Nat) : (pendUntil g rs n).turn = g.turn := by unfold pendUntil; split <;> rfl
@[simp] theorem pendUntil_issueAt (g : Gang) (rs : List RegName) (n : Nat) : (pendUntil g rs n).issueAt = g.issueAt := by unfold pendUntil; split <;> rfl
@[simp] theorem pendUntil_seq (g : Gang) (rs : List RegName) (n : Nat) : (pendUntil g rs n).seq = g.seq := by unfold pendUntil; split <;> rfl
@[simp] theorem pendUntil_fence (g : Gang) (rs : List RegName) (n : Nat) : (pendUntil g rs n).fence = g.fence := by unfold pendUntil; split <;> rfl
@[simp] theorem pendUntil_halted (g : Gang) (rs : List RegName) (n : Nat) : (pendUntil g rs n).halted = g.halted := by unfold pendUntil; split <;> rfl
@[simp] theorem pendUntil_mended (g : Gang) (rs : List RegName) (n : Nat) : (pendUntil g rs n).mended = g.mended := by unfold pendUntil; split <;> rfl
@[simp] theorem pendUntil_atHalt (g : Gang) (rs : List RegName) (n : Nat) : (pendUntil g rs n).atHalt = g.atHalt := by unfold pendUntil; split <;> rfl
@[simp] theorem pendUntil_held (g : Gang) (rs : List RegName) (n : Nat) : (pendUntil g rs n).held = g.held := by unfold pendUntil; split <;> rfl
@[simp] theorem pendUntil_skipBp (g : Gang) (rs : List RegName) (n : Nat) : (pendUntil g rs n).skipBp = g.skipBp := by unfold pendUntil; split <;> rfl
@[simp] theorem pendUntil_stepLeft (g : Gang) (rs : List RegName) (n : Nat) : (pendUntil g rs n).stepLeft = g.stepLeft := by unfold pendUntil; split <;> rfl
@[simp] theorem pendUntil_yieldAck (g : Gang) (rs : List RegName) (n : Nat) : (pendUntil g rs n).yieldAck = g.yieldAck := by unfold pendUntil; split <;> rfl
@[simp] theorem pendUntil_yieldStop (g : Gang) (rs : List RegName) (n : Nat) : (pendUntil g rs n).yieldStop = g.yieldStop := by unfold pendUntil; split <;> rfl
@[simp] theorem pendUntil_lastStall (g : Gang) (rs : List RegName) (n : Nat) : (pendUntil g rs n).lastStall = g.lastStall := by unfold pendUntil; split <;> rfl
@[simp] theorem pendUntil_issued (g : Gang) (rs : List RegName) (n : Nat) : (pendUntil g rs n).issued = g.issued := by unfold pendUntil; split <;> rfl
@[simp] theorem pendUntil_retired (g : Gang) (rs : List RegName) (n : Nat) : (pendUntil g rs n).retired = g.retired := by unfold pendUntil; split <;> rfl
@[simp] theorem pendUntil_heir (g : Gang) (rs : List RegName) (n : Nat) : (pendUntil g rs n).heir = g.heir := by unfold pendUntil; split <;> rfl

/-! Fields of a gang after pendOn. -/

@[simp] theorem pendOn_block (g : Gang) (d : Dest) (id : Nat) : (pendOn g d id).block = g.block := rfl
@[simp] theorem pendOn_gid (g : Gang) (d : Dest) (id : Nat) : (pendOn g d id).gid = g.gid := rfl
@[simp] theorem pendOn_pipe (g : Gang) (d : Dest) (id : Nat) : (pendOn g d id).pipe = g.pipe := rfl
@[simp] theorem pendOn_slot (g : Gang) (d : Dest) (id : Nat) : (pendOn g d id).slot = g.slot := rfl
@[simp] theorem pendOn_created (g : Gang) (d : Dest) (id : Nat) : (pendOn g d id).created = g.created := rfl
@[simp] theorem pendOn_helper (g : Gang) (d : Dest) (id : Nat) : (pendOn g d id).helper = g.helper := rfl
@[simp] theorem pendOn_live (g : Gang) (d : Dest) (id : Nat) : (pendOn g d id).live = g.live := rfl
@[simp] theorem pendOn_v (g : Gang) (d : Dest) (id : Nat) : (pendOn g d id).v = g.v := rfl
@[simp] theorem pendOn_k (g : Gang) (d : Dest) (id : Nat) : (pendOn g d id).k = g.k := rfl
@[simp] theorem pendOn_s (g : Gang) (d : Dest) (id : Nat) : (pendOn g d id).s = g.s := rfl
@[simp] theorem pendOn_latch (g : Gang) (d : Dest) (id : Nat) : (pendOn g d id).latch = g.latch := rfl
@[simp] theorem pendOn_latchDue (g : Gang) (d : Dest) (id : Nat) : (pendOn g d id).latchDue = g.latchDue := rfl
@[simp] theorem pendOn_frags (g : Gang) (d : Dest) (id : Nat) : (pendOn g d id).frags = g.frags := rfl
@[simp] theorem pendOn_joins (g : Gang) (d : Dest) (id : Nat) : (pendOn g d id).joins = g.joins := rfl
@[simp] theorem pendOn_cur (g : Gang) (d : Dest) (id : Nat) : (pendOn g d id).cur = g.cur := rfl
@[simp] theorem pendOn_handover (g : Gang) (d : Dest) (id : Nat) : (pendOn g d id).handover = g.handover := rfl
@[simp] theorem pendOn_saved (g : Gang) (d : Dest) (id : Nat) : (pendOn g d id).saved = g.saved := rfl
@[simp] theorem pendOn_paths (g : Gang) (d : Dest) (id : Nat) : (pendOn g d id).paths = g.paths := rfl
@[simp] theorem pendOn_gstat (g : Gang) (d : Dest) (id : Nat) : (pendOn g d id).gstat = g.gstat := rfl
@[simp] theorem pendOn_gctl (g : Gang) (d : Dest) (id : Nat) : (pendOn g d id).gctl = g.gctl := rfl
@[simp] theorem pendOn_tstat (g : Gang) (d : Dest) (id : Nat) : (pendOn g d id).tstat = g.tstat := rfl
@[simp] theorem pendOn_tval (g : Gang) (d : Dest) (id : Nat) : (pendOn g d id).tval = g.tval := rfl
@[simp] theorem pendOn_tpc (g : Gang) (d : Dest) (id : Nat) : (pendOn g d id).tpc = g.tpc := rfl
@[simp] theorem pendOn_cpc (g : Gang) (d : Dest) (id : Nat) : (pendOn g d id).cpc = g.cpc := rfl
@[simp] theorem pendOn_contv (g : Gang) (d : Dest) (id : Nat) : (pendOn g d id).contv = g.contv := rfl
@[simp] theorem pendOn_fpctl (g : Gang) (d : Dest) (id : Nat) : (pendOn g d id).fpctl = g.fpctl := rfl
@[simp] theorem pendOn_stalls (g : Gang) (d : Dest) (id : Nat) : (pendOn g d id).stalls = g.stalls := rfl
@[simp] theorem pendOn_monitor (g : Gang) (d : Dest) (id : Nat) : (pendOn g d id).monitor = g.monitor := rfl
@[simp] theorem pendOn_monPa (g : Gang) (d : Dest) (id : Nat) : (pendOn g d id).monPa = g.monPa := rfl
@[simp] theorem pendOn_woken (g : Gang) (d : Dest) (id : Nat) : (pendOn g d id).woken = g.woken := rfl
@[simp] theorem pendOn_bn (g : Gang) (d : Dest) (id : Nat) : (pendOn g d id).bn = g.bn := rfl
@[simp] theorem pendOn_pausing (g : Gang) (d : Dest) (id : Nat) : (pendOn g d id).pausing = g.pausing := rfl
@[simp] theorem pendOn_pauseLeft (g : Gang) (d : Dest) (id : Nat) : (pendOn g d id).pauseLeft = g.pauseLeft := rfl
@[simp] theorem pendOn_turn (g : Gang) (d : Dest) (id : Nat) : (pendOn g d id).turn = g.turn := rfl
@[simp] theorem pendOn_issueAt (g : Gang) (d : Dest) (id : Nat) : (pendOn g d id).issueAt = g.issueAt := rfl
@[simp] theorem pendOn_flagsDue (g : Gang) (d : Dest) (id : Nat) : (pendOn g d id).flagsDue = g.flagsDue := rfl
@[simp] theorem pendOn_seq (g : Gang) (d : Dest) (id : Nat) : (pendOn g d id).seq = g.seq := rfl
@[simp] theorem pendOn_fence (g : Gang) (d : Dest) (id : Nat) : (pendOn g d id).fence = g.fence := rfl
@[simp] theorem pendOn_halted (g : Gang) (d : Dest) (id : Nat) : (pendOn g d id).halted = g.halted := rfl
@[simp] theorem pendOn_mended (g : Gang) (d : Dest) (id : Nat) : (pendOn g d id).mended = g.mended := rfl
@[simp] theorem pendOn_atHalt (g : Gang) (d : Dest) (id : Nat) : (pendOn g d id).atHalt = g.atHalt := rfl
@[simp] theorem pendOn_held (g : Gang) (d : Dest) (id : Nat) : (pendOn g d id).held = g.held := rfl
@[simp] theorem pendOn_skipBp (g : Gang) (d : Dest) (id : Nat) : (pendOn g d id).skipBp = g.skipBp := rfl
@[simp] theorem pendOn_stepLeft (g : Gang) (d : Dest) (id : Nat) : (pendOn g d id).stepLeft = g.stepLeft := rfl
@[simp] theorem pendOn_yieldAck (g : Gang) (d : Dest) (id : Nat) : (pendOn g d id).yieldAck = g.yieldAck := rfl
@[simp] theorem pendOn_yieldStop (g : Gang) (d : Dest) (id : Nat) : (pendOn g d id).yieldStop = g.yieldStop := rfl
@[simp] theorem pendOn_lastStall (g : Gang) (d : Dest) (id : Nat) : (pendOn g d id).lastStall = g.lastStall := rfl
@[simp] theorem pendOn_issued (g : Gang) (d : Dest) (id : Nat) : (pendOn g d id).issued = g.issued := rfl
@[simp] theorem pendOn_retired (g : Gang) (d : Dest) (id : Nat) : (pendOn g d id).retired = g.retired := rfl
@[simp] theorem pendOn_heir (g : Gang) (d : Dest) (id : Nat) : (pendOn g d id).heir = g.heir := rfl

/-! Fields of a gang after raisePath. -/

@[simp] theorem raisePath_block (g : Gang) (p : Option Nat) : (raisePath g p).block = g.block := by cases p <;> rfl
@[simp] theorem raisePath_gid (g : Gang) (p : Option Nat) : (raisePath g p).gid = g.gid := by cases p <;> rfl
@[simp] theorem raisePath_pipe (g : Gang) (p : Option Nat) : (raisePath g p).pipe = g.pipe := by cases p <;> rfl
@[simp] theorem raisePath_slot (g : Gang) (p : Option Nat) : (raisePath g p).slot = g.slot := by cases p <;> rfl
@[simp] theorem raisePath_created (g : Gang) (p : Option Nat) : (raisePath g p).created = g.created := by cases p <;> rfl
@[simp] theorem raisePath_helper (g : Gang) (p : Option Nat) : (raisePath g p).helper = g.helper := by cases p <;> rfl
@[simp] theorem raisePath_live (g : Gang) (p : Option Nat) : (raisePath g p).live = g.live := by cases p <;> rfl
@[simp] theorem raisePath_v (g : Gang) (p : Option Nat) : (raisePath g p).v = g.v := by cases p <;> rfl
@[simp] theorem raisePath_k (g : Gang) (p : Option Nat) : (raisePath g p).k = g.k := by cases p <;> rfl
@[simp] theorem raisePath_s (g : Gang) (p : Option Nat) : (raisePath g p).s = g.s := by cases p <;> rfl
@[simp] theorem raisePath_latch (g : Gang) (p : Option Nat) : (raisePath g p).latch = g.latch := by cases p <;> rfl
@[simp] theorem raisePath_latchDue (g : Gang) (p : Option Nat) : (raisePath g p).latchDue = g.latchDue := by cases p <;> rfl
@[simp] theorem raisePath_frags (g : Gang) (p : Option Nat) : (raisePath g p).frags = g.frags := by cases p <;> rfl
@[simp] theorem raisePath_joins (g : Gang) (p : Option Nat) : (raisePath g p).joins = g.joins := by cases p <;> rfl
@[simp] theorem raisePath_cur (g : Gang) (p : Option Nat) : (raisePath g p).cur = g.cur := by cases p <;> rfl
@[simp] theorem raisePath_handover (g : Gang) (p : Option Nat) : (raisePath g p).handover = g.handover := by cases p <;> rfl
@[simp] theorem raisePath_saved (g : Gang) (p : Option Nat) : (raisePath g p).saved = g.saved := by cases p <;> rfl
@[simp] theorem raisePath_gstat (g : Gang) (p : Option Nat) : (raisePath g p).gstat = g.gstat := by cases p <;> rfl
@[simp] theorem raisePath_gctl (g : Gang) (p : Option Nat) : (raisePath g p).gctl = g.gctl := by cases p <;> rfl
@[simp] theorem raisePath_tstat (g : Gang) (p : Option Nat) : (raisePath g p).tstat = g.tstat := by cases p <;> rfl
@[simp] theorem raisePath_tval (g : Gang) (p : Option Nat) : (raisePath g p).tval = g.tval := by cases p <;> rfl
@[simp] theorem raisePath_tpc (g : Gang) (p : Option Nat) : (raisePath g p).tpc = g.tpc := by cases p <;> rfl
@[simp] theorem raisePath_cpc (g : Gang) (p : Option Nat) : (raisePath g p).cpc = g.cpc := by cases p <;> rfl
@[simp] theorem raisePath_contv (g : Gang) (p : Option Nat) : (raisePath g p).contv = g.contv := by cases p <;> rfl
@[simp] theorem raisePath_fpctl (g : Gang) (p : Option Nat) : (raisePath g p).fpctl = g.fpctl := by cases p <;> rfl
@[simp] theorem raisePath_stalls (g : Gang) (p : Option Nat) : (raisePath g p).stalls = g.stalls := by cases p <;> rfl
@[simp] theorem raisePath_monitor (g : Gang) (p : Option Nat) : (raisePath g p).monitor = g.monitor := by cases p <;> rfl
@[simp] theorem raisePath_monPa (g : Gang) (p : Option Nat) : (raisePath g p).monPa = g.monPa := by cases p <;> rfl
@[simp] theorem raisePath_woken (g : Gang) (p : Option Nat) : (raisePath g p).woken = g.woken := by cases p <;> rfl
@[simp] theorem raisePath_bn (g : Gang) (p : Option Nat) : (raisePath g p).bn = g.bn := by cases p <;> rfl
@[simp] theorem raisePath_pausing (g : Gang) (p : Option Nat) : (raisePath g p).pausing = g.pausing := by cases p <;> rfl
@[simp] theorem raisePath_pauseLeft (g : Gang) (p : Option Nat) : (raisePath g p).pauseLeft = g.pauseLeft := by cases p <;> rfl
@[simp] theorem raisePath_pend (g : Gang) (p : Option Nat) : (raisePath g p).pend = g.pend := by cases p <;> rfl
@[simp] theorem raisePath_turn (g : Gang) (p : Option Nat) : (raisePath g p).turn = g.turn := by cases p <;> rfl
@[simp] theorem raisePath_issueAt (g : Gang) (p : Option Nat) : (raisePath g p).issueAt = g.issueAt := by cases p <;> rfl
@[simp] theorem raisePath_flagsDue (g : Gang) (p : Option Nat) : (raisePath g p).flagsDue = g.flagsDue := by cases p <;> rfl
@[simp] theorem raisePath_seq (g : Gang) (p : Option Nat) : (raisePath g p).seq = g.seq := by cases p <;> rfl
@[simp] theorem raisePath_fence (g : Gang) (p : Option Nat) : (raisePath g p).fence = g.fence := by cases p <;> rfl
@[simp] theorem raisePath_halted (g : Gang) (p : Option Nat) : (raisePath g p).halted = g.halted := by cases p <;> rfl
@[simp] theorem raisePath_mended (g : Gang) (p : Option Nat) : (raisePath g p).mended = g.mended := by cases p <;> rfl
@[simp] theorem raisePath_atHalt (g : Gang) (p : Option Nat) : (raisePath g p).atHalt = g.atHalt := by cases p <;> rfl
@[simp] theorem raisePath_held (g : Gang) (p : Option Nat) : (raisePath g p).held = g.held := by cases p <;> rfl
@[simp] theorem raisePath_skipBp (g : Gang) (p : Option Nat) : (raisePath g p).skipBp = g.skipBp := by cases p <;> rfl
@[simp] theorem raisePath_stepLeft (g : Gang) (p : Option Nat) : (raisePath g p).stepLeft = g.stepLeft := by cases p <;> rfl
@[simp] theorem raisePath_yieldAck (g : Gang) (p : Option Nat) : (raisePath g p).yieldAck = g.yieldAck := by cases p <;> rfl
@[simp] theorem raisePath_yieldStop (g : Gang) (p : Option Nat) : (raisePath g p).yieldStop = g.yieldStop := by cases p <;> rfl
@[simp] theorem raisePath_lastStall (g : Gang) (p : Option Nat) : (raisePath g p).lastStall = g.lastStall := by cases p <;> rfl
@[simp] theorem raisePath_issued (g : Gang) (p : Option Nat) : (raisePath g p).issued = g.issued := by cases p <;> rfl
@[simp] theorem raisePath_retired (g : Gang) (p : Option Nat) : (raisePath g p).retired = g.retired := by cases p <;> rfl
@[simp] theorem raisePath_heir (g : Gang) (p : Option Nat) : (raisePath g p).heir = g.heir := by cases p <;> rfl

/-! The fields that the updates of a gang set. -/

@[simp] theorem setVreg_v (g : Gang) (n l : Nat) (x : W32) : (setVreg g n l x).v = tabPut g.v (32 * n + l) x := rfl
@[simp] theorem setPath_paths (g : Gang) (p n : Nat) : (setPath g p n).paths = tabPut g.paths p n := rfl
@[simp] theorem raiseGstat_gstat (g : Gang) (m : W64) : (raiseGstat g m).gstat = g.gstat ||| m := rfl
@[simp] theorem loseLatches_latch (g : Gang) : (loseLatches g).latch = [] := rfl
@[simp] theorem switchPoint_latch (g : Gang) : (switchPoint g).latch = [] := rfl
@[simp] theorem switchAt_latch (i : Issue) (g : Gang) : (switchAt i g).latch = [] := by unfold switchAt; split <;> rfl
@[simp] theorem tickIssue_seq (g : Gang) (n : Nat) : (tickIssue g n).seq = g.seq + 1 := rfl
@[simp] theorem tickIssue_issueAt (g : Gang) (n : Nat) : (tickIssue g n).issueAt = g.turn + n := rfl

end Sys2Proof.Machine
end

