-- ==== Sys2Proof/Laws/Home.lean ====
section
/-! SUPPORT. What the homes of memory can change: memory, caches, tiers and the count of free choices, and a write besides wakes
monitors and ends reservations. -/

namespace Sys2Proof.Machine

/-- Two states agree but for memory, caches, tiers and the count of free choices. -/
def SameOutside (s t : State) : Prop := { t with mem := s.mem, caches := s.caches, tiers := s.tiers, tick := s.tick } = s

theorem sameOutside_refl (s : State) : SameOutside s s := rfl

theorem sameOutside_trans {s t u : State} (h : SameOutside s t) (k : SameOutside t u) : SameOutside s u := by
  unfold SameOutside at *
  calc { u with mem := s.mem, caches := s.caches, tiers := s.tiers, tick := s.tick }
      = { { u with mem := t.mem, caches := t.caches, tiers := t.tiers, tick := t.tick } with
          mem := s.mem, caches := s.caches, tiers := s.tiers, tick := s.tick } := rfl
    _ = s := by rw [k]; exact h

theorem sameOutside_of {s t : State} (m : List Host.Cell) (c : Caches) (u : Tiers) (n : Nat)
    (h : t = { s with mem := m, caches := c, tiers := u, tick := n }) : SameOutside s t := by
  subst h; rfl

theorem putMemLine_same (s : State) (pa : Nat) (x : Line) (p : Bool) : SameOutside s (putMemLine s pa x p) := rfl

theorem countLine_same (s : State) (pa : Nat) : SameOutside s (countLine s pa) := by
  unfold countLine
  dsimp only
  split <;> rfl

theorem countTierWrite_same (s : State) (pa : Nat) : SameOutside s (countTierWrite s pa) := by
  unfold countTierWrite
  split
  · exact countLine_same s pa
  · rfl

theorem evictBasin_same (s : State) (key : Nat) : SameOutside s (evictBasin s key) := by
  unfold evictBasin
  split
  · split <;> rfl
  · rfl

theorem putBasin_same (s : State) (key : Nat) (c : CacheLine) : SameOutside s (putBasin s key c) := by
  unfold putBasin
  dsimp only
  split
  · rfl
  · split
    · exact sameOutside_trans (sameOutside_trans (t := { s with tick := s.tick + 1 }) rfl (evictBasin_same _ _)) rfl
    · rfl

theorem writeBack_same (s : State) (pa : Nat) (c : CacheLine) : SameOutside s (writeBack s pa c) := by
  unfold writeBack
  dsimp only
  split
  · rfl
  · split
    · exact putBasin_same _ _ _
    · split
      · exact putBasin_same _ _ _
      · exact sameOutside_trans (countTierWrite_same s pa) (putMemLine_same _ _ _ _)

theorem cleanSlice_same (s : State) (slice pa : Nat) : SameOutside s (cleanSlice s slice pa) := by
  unfold cleanSlice
  split
  · split
    · rfl
    · split
      · exact sameOutside_trans (writeBack_same s pa _) rfl
      · rfl
  · rfl

theorem dropSlice_same (s : State) (slice pa : Nat) : SameOutside s (dropSlice s slice pa) := by
  unfold dropSlice
  split
  · exact cleanSlice_same s slice pa
  · exact sameOutside_trans (cleanSlice_same s slice pa) rfl

theorem l2Room_same (s : State) (slice pa : Nat) : SameOutside s (l2Room s slice pa) := by
  unfold l2Room
  dsimp only
  split
  · rfl
  · split
    · exact sameOutside_trans (t := { s with tick := s.tick + 1 }) rfl (dropSlice_same _ _ _)
    · rfl

/-- Gangs as a write leaves them: those whose monitor reads a written line are woken. -/
def wokenBy (pa : Nat) (g : Gang) : Gang := if g.monPa == some (pa / 64) then { g with woken := true } else g

/-- What a write at a home can change. -/
theorem writeHome_same (s : State) (slice pa off : Nat) (bs : List Byte) (dom basin : Nat) (world : BitVec 16) :
    ∃ t c, SameOutside s t ∧ writeHome s slice pa off bs dom basin world =
      { t with caches := c, gangs := tabMap s.gangs (wokenBy pa), hostResv := s.hostResv.filter fun e => e.2 != pa / 64 } := by
  have h := l2Room_same s slice pa
  unfold writeHome
  generalize l2Room s slice pa = u at h ⊢
  have hg : u.gangs = s.gangs := by unfold SameOutside at h; rw [← h]
  have hr : u.hostResv = s.hostResv := by unfold SameOutside at h; rw [← h]
  dsimp only
  unfold wakeMonitors
  dsimp only
  rw [hg, hr]
  exact ⟨u, _, h, rfl⟩

/-- Two states agree but for what writes at homes change: memory, caches, tiers, the count of free choices, gangs that wake and
reservations that end. -/
def SameButWrites (s t : State) : Prop :=
  { t with mem := s.mem, caches := s.caches, tiers := s.tiers, tick := s.tick, gangs := s.gangs, hostResv := s.hostResv } = s

theorem sameButWrites_refl (s : State) : SameButWrites s s := rfl

theorem sameButWrites_trans {s t u : State} (h : SameButWrites s t) (k : SameButWrites t u) : SameButWrites s u := by
  unfold SameButWrites at *
  calc { u with mem := s.mem, caches := s.caches, tiers := s.tiers, tick := s.tick, gangs := s.gangs, hostResv := s.hostResv }
      = { { u with mem := t.mem, caches := t.caches, tiers := t.tiers, tick := t.tick, gangs := t.gangs, hostResv := t.hostResv } with
          mem := s.mem, caches := s.caches, tiers := s.tiers, tick := s.tick, gangs := s.gangs, hostResv := s.hostResv } := rfl
    _ = s := by rw [k]; exact h

/-- Such a state, written out. -/
theorem sameButWrites_eq {s t : State} (h : SameButWrites s t) :
    ∃ m c u n g r, t = { s with mem := m, caches := c, tiers := u, tick := n, gangs := g, hostResv := r } := by
  unfold SameButWrites at h
  exact ⟨t.mem, t.caches, t.tiers, t.tick, t.gangs, t.hostResv, by rw [← h]⟩

/-- A write at a home. -/
theorem writeHome_frame (s : State) (slice pa off : Nat) (bs : List Byte) (dom basin : Nat) (world : BitVec 16) :
    SameButWrites s (writeHome s slice pa off bs dom basin world) := by
  obtain ⟨u, c, h, e⟩ := writeHome_same s slice pa off bs dom basin world
  rw [e]
  unfold SameOutside at h
  rw [← h]
  rfl

/-- Writes at physical addresses. -/
theorem physWrite_frame (s : State) (pa : Nat) (bs : List Byte) (world : BitVec 16) :
    SameButWrites s (physWrite s pa bs world) := by
  induction bs generalizing s pa with
  | nil => rfl
  | cons b r ih => exact sameButWrites_trans (writeHome_frame s _ _ _ _ _ _ _) (ih _ _)

/-- The registers of windows after them. -/
theorem sameButWrites_reg {s t : State} (h : SameButWrites s t) (r : SysReg) : reg t r = reg s r := by
  unfold SameButWrites at h
  rw [← h]
  rfl

/-- A slice with room replaces no line. -/
theorem l2Room_of_room {s : State} {slice : Nat}
    (h : (s.caches.l2.filter fun e => e.1 / 2 ^ 50 == slice).length < sliceLines s slice) (pa : Nat) : l2Room s slice pa = s := by
  refine if_pos ?_
  rw [Bool.or_eq_true, decide_eq_true_eq]
  exact .inr h

/-- A table that gains a key gains at most one entry that a filter keeps. -/
theorem filter_tabPut_length {α : Type} (p : Nat × α → Bool) (t : Tab α) (k : Nat) (x : α) :
    ((tabPut t k x).filter p).length ≤ (t.filter p).length + 1 := by
  induction t with
  | nil => by_cases h : p (k, x) <;> simp [tabPut, h]
  | cons e r ih =>
    obtain ⟨j, y⟩ := e
    unfold tabPut
    by_cases hx : p (k, x) <;> by_cases hy : p (j, y) <;> (split; · simp [hy]; omega) <;> split <;> simp [hx, hy] <;> omega

/-- A write at a home with room leaves memory as it is, and takes at most one line. -/
theorem writeHome_room {s : State} {k : Nat} (h : RoomFor s (k + 1)) (slice pa off : Nat) (bs : List Byte) (dom basin : Nat)
    (world : BitVec 16) :
    (writeHome s slice pa off bs dom basin world).mem = s.mem ∧ RoomFor (writeHome s slice pa off bs dom basin world) k := by
  have e : l2Room s slice pa = s := l2Room_of_room (by have := h slice; omega) pa
  unfold writeHome
  rw [e]
  refine ⟨rfl, fun n => ?_⟩
  have hn := h n
  have hl := filter_tabPut_length (fun e => e.1 / 2 ^ 50 == n) s.caches.l2 (lineKey slice pa)
    { data := linePuts (homeLine s slice pa).1 off bs, dirty := true, poison := (homeLine s slice pa).2, world := world,
      dom := dom, basin := basin }
  show (List.filter _ (tabPut s.caches.l2 _ _)).length + k ≤ sliceLines s n
  omega

/-- So do writes at physical addresses: a line for each byte at most. -/
theorem physWrite_room (bs : List Byte) (world : BitVec 16) : ∀ {s : State} {k : Nat}, RoomFor s (k + bs.length) → ∀ pa : Nat,
    (physWrite s pa bs world).mem = s.mem ∧ RoomFor (physWrite s pa bs world) k := by
  induction bs with
  | nil => exact fun h _ => ⟨rfl, h⟩
  | cons b r ih =>
    intro s k h pa
    have w := writeHome_room (s := s) (k := k + r.length) (by simpa [Nat.add_assoc] using h) (homeZero s pa) (pa / 64 * 64)
      (pa % 64) [b] 0 2 world
    have t := ih w.2 (pa + 1)
    exact ⟨t.1.trans w.1, t.2⟩

end Sys2Proof.Machine
end

