-- ==== Sys2Proof/Laws/Issue.lean ====
section
/-! SUPPORT. Laws of issuing: what the shared forms of scalar instructions, branches and lane instructions do once their checks
pass. -/

namespace Sys2Proof.Machine

/-- A meaning runs on what issues it. -/
theorem onIssue_of {s : State} {i : Issue} (h : issuing s = some i) (k : Issue → Answer) : onIssue s k = k i := by
  simp [onIssue, h]

/-- The gang and the fragment that issue stand in the state. -/
theorem issuing_parts {s : State} {i : Issue} (h : issuing s = some i) :
    s.cur = some i.cur ∧ tabFind s.gangs i.cur.gang = some i.g ∧ tabFind s.blocks i.g.block = some i.b ∧
      tabFind i.g.frags i.cur.entry = some i.f := by
  unfold issuing at h
  split at h
  · cases h
  · next c hc =>
    split at h
    · cases h
    · next g hg =>
      split at h
      · next b f hb hf => cases h; exact ⟨hc, hg, hb, hf⟩
      · cases h

/-- A state whose gang was set differs in that gang only. -/
theorem onlyGang_put (s : State) (key : Nat) (g : Gang) : OnlyGang s (putGang s key g) key :=
  ⟨rfl, fun k hk => tabFind_tabPut_other s.gangs key k g hk⟩

/-- The gang that was set. -/
theorem gang_put (s : State) (key : Nat) (g : Gang) : tabFind (putGang s key g).gangs key = some g :=
  tabFind_tabPut_same s.gangs key g

/-- Scalar registers after one is set. -/
theorem sreg_setSreg (g : Gang) (sd n : BitVec 6) (x : W64) :
    sreg (setSreg g sd x) n = if n = sd ∧ n ≠ 0 then x else sreg g n := by
  unfold sreg
  by_cases h0 : n = 0
  · rw [if_pos h0, if_pos h0, if_neg (fun h => h.2 h0)]
  · rw [if_neg h0, if_neg h0]
    unfold setSreg
    by_cases hd : sd = 0
    · rw [if_pos hd, if_neg (fun h => h0 (h.1.trans hd))]
    · rw [if_neg hd]
      simp only [tabGet, tabFind_tabPut]
      by_cases hn : n = sd
      · rw [if_pos (by rw [hn]), if_pos ⟨hn, h0⟩]; rfl
      · rw [if_neg (fun e => hn (BitVec.eq_of_toNat_eq e)), if_neg (fun h => hn h.1)]

/-- Setting the PC: where the fragment goes. -/
theorem goesTo_setPc {s : State} {i : Issue} (h : issuing s = some i) (g : Gang) (pc : W64) (hg : g.frags = i.g.frags) :
    GoesTo i (setPc i g pc) pc := by
  have hf := (issuing_parts h).2.2.2
  intro e
  unfold setPc
  cases hs : i.cur.stuffed with
  | some m =>
    by_cases he : e = i.cur.entry
    · subst he; simp [hg, hf]
    · simp [he, hg]
  | none =>
    simp only [hg, tabFind_tabUpd]
    by_cases he : e = i.cur.entry
    · subst he; simp [hf]
    · simp [he]

/-- The PC aside, setting it changes the handover at most. -/
theorem sameIssue_setPc (i : Issue) (g h : Gang) (pc : W64) : (setPc i g pc).sameIssue h = g.sameIssue h := by
  unfold setPc Gang.sameIssue; split <;> rfl

/-- A scalar instruction that finishes with one register written is done. -/
theorem finish_scalar {s : State} {i : Issue} (h : issuing s = some i) (sd : BitVec 6) (x : W64) :
    ScalarDone s i sd x (finish s i (setSreg i.g sd x) 4) := by
  refine ⟨_, _, rfl, onlyGang_put s _ _, gang_put s _ _, ?_, goesTo_setPc h _ _ (by simp), by simp, ?_⟩
  · intro n
    rw [← sreg_setSreg]
    simp [sreg]
  · simp [Gang.sameIssue]

/-- A scalar op is done with its value. -/
theorem scalarOp_done {s : State} {i : Issue} (h : issuing s = some i) (sd : BitVec 6) (value : Issue → W64) :
    ScalarDone s i sd (value i) (scalarOp s sd value) := by
  rw [scalarOp, onIssue_of h]; exact finish_scalar h sd (value i)

/-- A jump is done. -/
theorem jump_done {s : State} {i : Issue} (h : issuing s = some i) (link : BitVec 6) (pc : W64) (taken : Bool) :
    JumpDone s i link pc taken (jump s i (setSreg i.g link (i.f.pc + 4)) pc taken) := by
  unfold jump
  by_cases hb : taken = true ∧ pc.toNat ≤ i.f.pc.toNat
  · have hc : (taken && decide (pc.toNat ≤ i.f.pc.toNat)) = true := by simp [hb.1, hb.2]
    simp only [hc, if_true]
    refine ⟨_, _, rfl, onlyGang_put s _ _, gang_put s _ _, ?_, goesTo_setPc h _ _ (by simp), by simp, ?_, ?_⟩
    · intro n
      rw [← sreg_setSreg]
      simp [sreg]
    · intro k
      rw [if_pos hb]
      simp [tabFind]
    · simp [Gang.sameIssue]
  · have hc : (taken && decide (pc.toNat ≤ i.f.pc.toNat)) = false := by
      cases taken <;> simp_all
    simp only [hc, Bool.false_eq_true, if_false]
    refine ⟨_, _, rfl, onlyGang_put s _ _, gang_put s _ _, ?_, goesTo_setPc h _ _ (by simp), by simp, ?_, ?_⟩
    · intro n
      rw [← sreg_setSreg]
      simp [sreg]
    · intro k
      rw [if_neg hb]
      simp
    · simp [Gang.sameIssue]

/-- A jump that links nothing. -/
theorem jump_done_zero {s : State} {i : Issue} (h : issuing s = some i) (pc : W64) (taken : Bool) :
    JumpDone s i 0 pc taken (jump s i i.g pc taken) := jump_done h 0 pc taken

/-- A conditional branch is done: to its target when its condition holds, else behind it. -/
theorem condBranch_done {s : State} {i : Issue} (h : issuing s = some i) (off : BitVec 10) (cond : Issue → Bool) :
    JumpDone s i 0 (if cond i then i.f.pc + 4 * off.signExtend 64 else i.f.pc + 4) (cond i) (condBranch s off cond) := by
  rw [condBranch, onIssue_of h]
  cases cond i
  · exact jump_done_zero h _ _
  · exact jump_done_zero h _ _

/-- An instruction that finishes with a gang is done: what it left, apart from what every issue changes. -/
theorem finish_done {s : State} {i : Issue} (h : issuing s = some i) (g : Gang) (len : Nat) (hf : g.frags = i.g.frags)
    (hs : g.seq = i.g.seq) :
    GangDone s i (g.sameIssue i.g) (BitVec.ofNat 64 len) (finish s i g len) := by
  refine ⟨_, _, rfl, onlyGang_put s _ _, gang_put s _ _, goesTo_setPc h _ _ (by simpa using hf), by simp [hs], ?_⟩
  rw [sameIssue_setPc]
  rfl

/-- A fragment waits at its instruction. -/
theorem waitHere_done {s : State} {i : Issue} (h : issuing s = some i) (w : Wait) :
    WaitsAt s i w i.g (.next (putGang s i.cur.gang (waitHere i w))) := by
  have hf := (issuing_parts h).2.2.2
  refine ⟨_, _, rfl, onlyGang_put s _ _, gang_put s _ _, ?_, ?_, ?_⟩
  · intro e
    have : (waitHere i w).frags = tabUpd i.g.frags i.cur.entry fun f => { f with wait := w } := by
      unfold waitHere setWait switchAt; split <;> rfl
    rw [this, tabFind_tabUpd]
    by_cases he : e = i.cur.entry
    · subst he; simp [hf]
    · simp [he]
  · unfold waitHere setWait switchAt; split <;> rfl
  · unfold waitHere setWait switchAt; split <;> rfl

/-- Taking a trap outside the program buffer. -/
theorem takeTrap_traps {s : State} {i : Issue} (h : issuing s = some i) (cause step field : Nat) (value : W64)
    (hst : i.cur.stuffed = none) (htm : gstatTm i.g = false) (hv : trapVector s i ≠ 0) :
    TrapDone s i cause step field value (.next (takeTrap s i cause step field value)) := by
  have hc : (gstatTm i.g || trapVector s i == 0) = false := by
    simp only [htm, Bool.false_or, beq_eq_false_iff_ne, ne_eq]; exact hv
  have ht : takeTrap s i cause step field value = putGang s i.cur.gang (setPc i { i.g with
        tpc := if cause = causeTrap ∨ cause = causeDbgb then i.f.pc + 4 else i.f.pc
        tstat := trapStatus cause step field i.cur.entry
        tval := value
        gstat := i.g.gstat ||| 0x100
        issueAt := i.g.turn + 1
        handover := .closed
        skipBp := false
        issued := true
        stepLeft := i.g.stepLeft.map (· - 1) } (trapVector s i)) := by
    unfold takeTrap
    rw [hst]
    simp only [hc, Bool.false_eq_true, if_false]
  rw [ht]
  refine ⟨_, _, rfl, onlyGang_put s _ _, gang_put s _ _, ?_, ?_, ?_, ?_, goesTo_setPc h _ _ rfl, ?_, ?_, ?_⟩
  · rw [setPc_tpc]; rfl
  all_goals simp [trapStatus, Gang.sameIssue]

/-- Delivering bytes to physical addresses wakes monitors at most, as far as gangs go, and leaves blocks, accesses, requests and
sequence numbers. -/
theorem physWrite_parts (bs : List Byte) (s : State) (a : Nat) (world : BitVec 16) :
    (∃ w : Gang → Bool, (physWrite s a bs world).gangs = tabMap s.gangs fun g => { g with woken := w g }) ∧
    (physWrite s a bs world).blocks = s.blocks ∧ (physWrite s a bs world).accs = s.accs ∧
    (physWrite s a bs world).reqs = s.reqs ∧ (physWrite s a bs world).events = s.events := by
  induction bs generalizing s a with
  | nil =>
    refine ⟨⟨fun g => g.woken, ?_⟩, rfl, rfl, rfl, rfl⟩
    simp [physWrite, tabMap]
  | cons b r ih =>
    obtain ⟨u, c, hu, hw⟩ := writeHome_same s (homeZero s a) (a / 64 * 64) (a % 64) [b] 0 2 world
    rw [physWrite, hw]
    obtain ⟨⟨w, hg⟩, h1, h2, h3, h4⟩ := ih { u with
      caches := c, gangs := tabMap s.gangs (wokenBy (a / 64 * 64))
      hostResv := s.hostResv.filter fun e => e.2 != a / 64 * 64 / 64 } (a + 1)
    unfold SameOutside at hu
    refine ⟨⟨fun g => w (wokenBy (a / 64 * 64) g), ?_⟩, by rw [h1, ← hu], by rw [h2, ← hu], by rw [h3, ← hu], by rw [h4, ← hu]⟩
    rw [hg]
    unfold tabMap
    simp only [List.map_map]
    apply List.map_congr_left
    intro e _
    simp only [Function.comp, wokenBy]
    by_cases hc : e.2.monPa == some (a / 64 * 64 / 64)
    · rw [if_pos hc]
    · rw [if_neg hc]

/-- Delivering a record to an event ring. -/
theorem deliverEvent_parts (s : State) (e : Event) (base size : Nat) :
    (∃ w : Gang → Bool, (deliverEvent s e base size).gangs = tabMap s.gangs fun g => { g with woken := w g }) ∧
    (deliverEvent s e base size).blocks = s.blocks ∧ (deliverEvent s e base size).accs = s.accs ∧
    (deliverEvent s e base size).reqs = s.reqs ∧ (deliverEvent s e base size).events = s.events := by
  unfold deliverEvent advanceTail setField
  simp only [setReg_gangs, setReg_blocks, setReg_accs, setReg_reqs, setReg_events]
  exact physWrite_parts _ _ _ _

/-- An event report counts its source's sequence up by one; of gangs, blocks, accesses and requests it wakes monitors at most. -/
theorem raiseEvent_parts (s : State) (src : W32) (kind ring : Nat) (pl : List Byte) (wd : BitVec 16) :
    (∃ w : Gang → Bool, (raiseEvent s src kind ring pl wd).gangs = tabMap s.gangs fun g => { g with woken := w g }) ∧
    (raiseEvent s src kind ring pl wd).blocks = s.blocks ∧ (raiseEvent s src kind ring pl wd).accs = s.accs ∧
    (raiseEvent s src kind ring pl wd).reqs = s.reqs ∧
    tabGet (raiseEvent s src kind ring pl wd).events.seqs src.toNat 0 = tabGet s.events.seqs src.toNat 0 + 1 := by
  have same : ∃ w : Gang → Bool, s.gangs = tabMap s.gangs fun g => { g with woken := w g } :=
    ⟨fun g => g.woken, by simp [tabMap]⟩
  unfold raiseEvent
  dsimp only
  split
  · obtain ⟨hg, h1, h2, h3, h4⟩ := deliverEvent_parts _ _ _ _
    refine ⟨hg, h1, h2, h3, ?_⟩
    rw [h4]
    simp [tabGet]
  · split
    · exact ⟨same, rfl, rfl, rfl, by simp [tabGet]⟩
    · exact ⟨same, rfl, rfl, rfl, by simp [tabGet]⟩

/-- A trap that halts the gang. -/
theorem takeTrap_halts {s : State} {i : Issue} (cause step field : Nat) (value : W64) (hst : i.cur.stuffed = none)
    (hv : gstatTm i.g = true ∨ trapVector s i = 0) : HaltDone s i (.next (takeTrap s i cause step field value)) := by
  have ht : takeTrap s i cause step field value =
      haltGang s i (trapStatus cause step field i.cur.entry) value := by
    unfold takeTrap
    rw [hst]
    have hc : (gstatTm i.g || trapVector s i == 0) = true := by
      rcases hv with h | h
      · rw [h]; rfl
      · rw [h]; simp
    simp only [hc, if_true]
  rw [ht]
  unfold haltGang
  dsimp only
  obtain ⟨⟨w, hg⟩, h1, h2, h3, h4⟩ := raiseEvent_parts (putGang s i.cur.gang { i.g with halted := true, issued := true })
    (sourceId 3 i.b.core) 0x0011 (contextRing (putGang s i.cur.gang { i.g with halted := true, issued := true }) i.b.ctx)
    (haltPayload i (trapStatus cause step field i.cur.entry) value i.f.pc) i.b.world
  refine ⟨_, { i.g with halted := true, issued := true, woken := w { i.g with halted := true, issued := true } }, rfl, ?_, rfl, rfl, ?_, ?_, ?_, ?_⟩
  · rw [hg, tabFind_tabMap, gang_put]; rfl
  · exact h4
  · exact h1
  · exact h2
  · exact h3

/-- A trap outside the program buffer is taken or halts the gang. -/
theorem takeTrap_done {s : State} {i : Issue} (h : issuing s = some i) (cause step field : Nat) (value : W64) :
    Traps s i cause step field value (.next (takeTrap s i cause step field value)) := fun hst =>
  ⟨fun hc => takeTrap_traps h cause step field value hst hc.1 hc.2, fun hc => takeTrap_halts cause step field value hst hc⟩

/-- The lanes of a mask. -/
theorem mem_lanesOf (m : Mask) (l : Nat) : l ∈ lanesOf m ↔ l < 32 ∧ m.getLsbD l = true := by
  simp [lanesOf, allLanes]

/-- No lane stands twice in a mask's list. -/
theorem nodup_lanesOf (m : Mask) : (lanesOf m).Nodup := List.nodup_range.filter _

/-- A lane register after one lane of one register is set. -/
theorem vreg_setVreg (g : Gang) (n l n' l' : Nat) (x : W32) (hl : l < 32) (hl' : l' < 32) :
    vreg (setVreg g n l x) n' l' = if n' = n ∧ l' = l then x else vreg g n' l' := by
  unfold vreg setVreg tabGet
  rw [tabFind_tabPut]
  by_cases h : n' = n ∧ l' = l
  · rw [if_pos (by omega), if_pos h]; rfl
  · rw [if_neg (by omega), if_neg h]

/-- A group of one or two registers. -/
def groupWords (grp : Option (Nat × Nat × Bool)) : Nat :=
  match grp with
  | none => 0
  | some (_, 1, _) => 1
  | some (_, _, _) => 2

/-- First register of a group. -/
def groupFirst (grp : Option (Nat × Nat × Bool)) : Nat :=
  match grp with
  | none => 0
  | some (n, _, _) => n

/-- A lane register after a group's result is written in one lane. -/
theorem vreg_writeGroup (g : Gang) (grp : Option (Nat × Nat × Bool)) (l : Nat) (x : W64) (n l' : Nat) (hl : l < 32)
    (hl' : l' < 32) :
    vreg (writeGroup g grp l x) n l' =
      if l' = l ∧ groupFirst grp ≤ n ∧ n < groupFirst grp + groupWords grp then
        (x >>> (32 * (n - groupFirst grp))).setWidth 32
      else vreg g n l' := by
  match grp with
  | none =>
    rw [show groupFirst (none) = 0 from rfl, show groupWords (none) = 0 from rfl]
    simp only [writeGroup]
    rw [if_neg (by omega)]
  | some (d, 0, e) =>
    rw [show groupFirst (some (d, 0, e)) = d from rfl, show groupWords (some (d, 0, e)) = 2 from rfl]
    simp only [writeGroup]
    rw [vreg_setVreg _ _ _ _ _ _ hl hl', vreg_setVreg _ _ _ _ _ _ hl hl']
    split
    · next h => rw [if_pos (by omega)]; simp [h.1]
    · split
      · next h => rw [if_pos (by omega)]; simp [h.1]
      · rw [if_neg (by omega)]
  | some (d, 1, e) =>
    rw [show groupFirst (some (d, 1, e)) = d from rfl, show groupWords (some (d, 1, e)) = 1 from rfl]
    simp only [writeGroup]
    rw [vreg_setVreg _ _ _ _ _ _ hl hl']
    split
    · next h => rw [if_pos (by omega)]; simp [h.1]
    · next h => rw [if_neg (by omega)]
  | some (d, k + 2, e) =>
    rw [show groupFirst (some (d, k + 2, e)) = d from rfl, show groupWords (some (d, k + 2, e)) = 2 from rfl]
    simp only [writeGroup]
    rw [vreg_setVreg _ _ _ _ _ _ hl hl', vreg_setVreg _ _ _ _ _ _ hl hl']
    split
    · next h => rw [if_pos (by omega)]; simp [h.1]
    · split
      · next h => rw [if_pos (by omega)]; simp [h.1]
      · rw [if_neg (by omega)]

/-- A gang with its lane registers taken from another: writing results changes nothing else. -/
theorem writeGroup_frame (g : Gang) (grp : Option (Nat × Nat × Bool)) (l : Nat) (x : W64) :
    { writeGroup g grp l x with v := g.v } = g := by
  match grp with
  | none => rfl
  | some (d, 0, e) => rfl
  | some (d, 1, e) => rfl
  | some (d, k + 2, e) => rfl

/-- Writing results in several lanes changes lane registers only. -/
theorem writeLanes_frame (grp : Option (Nat × Nat × Bool)) (value : Nat → W64) (ls : List Nat) (g : Gang) :
    { ls.foldl (fun g l => writeGroup g grp l (value l)) g with v := g.v } = g := by
  induction ls generalizing g with
  | nil => rfl
  | cons l r ih =>
    have h1 := ih (writeGroup g grp l (value l))
    have h2 := writeGroup_frame g grp l (value l)
    rw [List.foldl_cons]
    calc { r.foldl (fun g l => writeGroup g grp l (value l)) (writeGroup g grp l (value l)) with v := g.v }
        = { ({ r.foldl (fun g l => writeGroup g grp l (value l)) (writeGroup g grp l (value l)) with
              v := (writeGroup g grp l (value l)).v } : Gang) with v := g.v } := rfl
      _ = g := by rw [h1]; exact h2

/-- A lane register after results are written in several lanes. -/
theorem vreg_writeLanes (grp : Option (Nat × Nat × Bool)) (value : Nat → W64) (ls : List Nat) (g : Gang) (n l' : Nat)
    (hls : ∀ l ∈ ls, l < 32) (hl' : l' < 32) :
    vreg (ls.foldl (fun g l => writeGroup g grp l (value l)) g) n l' =
      if l' ∈ ls ∧ groupFirst grp ≤ n ∧ n < groupFirst grp + groupWords grp then
        (value l' >>> (32 * (n - groupFirst grp))).setWidth 32
      else vreg g n l' := by
  induction ls generalizing g with
  | nil => simp
  | cons l r ih =>
    rw [List.foldl_cons, ih _ (fun x hx => hls x (List.mem_cons_of_mem _ hx)),
      vreg_writeGroup g grp l (value l) n l' (hls l List.mem_cons_self) hl']
    by_cases hr : l' ∈ r ∧ groupFirst grp ≤ n ∧ n < groupFirst grp + groupWords grp
    · rw [if_pos hr, if_pos ⟨List.mem_cons_of_mem _ hr.1, hr.2⟩]
    · rw [if_neg hr]
      by_cases hc : l' = l ∧ groupFirst grp ≤ n ∧ n < groupFirst grp + groupWords grp
      · rw [if_pos hc, if_pos ⟨by simp [hc.1], hc.2⟩, hc.1]
      · rw [if_neg hc, if_neg]
        intro h
        rcases List.mem_cons.mp h.1 with h1 | h1
        · exact hc ⟨h1, h.2⟩
        · exact hr ⟨h1, h.2⟩

/-- What a latch table holds after one entry is set or lost. -/
theorem tabFind_latchSet (t : Tab W64) (k j : Nat) (x : Option W64) :
    tabFind (latchSet t k x) j = if j = k then x else tabFind t j := by
  cases x with
  | some a => exact tabFind_tabPut t k j a
  | none =>
    simp only [latchSet]
    by_cases h : j = k
    · rw [h, tabFind_tabDel_same, if_pos rfl]
    · rw [tabFind_tabDel_other t k j h, if_neg h]

/-- One lane's push in the latch table. -/
def pushLane (res : Nat → Option W64) (t : Tab W64) (l : Nat) : Tab W64 :=
  let t := latchSet t (4 * l + 3) (tabFind t (4 * l + 2))
  let t := latchSet t (4 * l + 2) (tabFind t (4 * l + 1))
  let t := latchSet t (4 * l + 1) (tabFind t (4 * l))
  latchSet t (4 * l) (res l)

/-- The latch table after a push. -/
theorem pushLatch_latch (g : Gang) (m : Mask) (due : Nat) (res : Nat → Option W64) :
    (pushLatch g m due res).latch = (lanesOf m).foldl (pushLane res) g.latch := rfl

/-- One lane's push moves its entries up by one and leaves the other lanes. -/
theorem tabFind_pushLane (res : Nat → Option W64) (t : Tab W64) (l j : Nat) :
    tabFind (pushLane res t l) j =
      if j = 4 * l then res l
      else if j = 4 * l + 1 ∨ j = 4 * l + 2 ∨ j = 4 * l + 3 then tabFind t (j - 1) else tabFind t j := by
  unfold pushLane
  simp only [tabFind_latchSet]
  by_cases h0 : j = 4 * l
  · simp [h0]
  · by_cases h1 : j = 4 * l + 1
    · subst h1; simp
    · by_cases h2 : j = 4 * l + 2
      · subst h2; simp
      · by_cases h3 : j = 4 * l + 3
        · subst h3; simp
        · simp [h0, h1, h2, h3]

/-- A push in several lanes leaves the entries of the other lanes. -/
theorem pushLanes_other (res : Nat → Option W64) (ls : List Nat) (t : Tab W64) (l k : Nat) (hk : k < 4) (hl : l ∉ ls) :
    tabFind (ls.foldl (pushLane res) t) (4 * l + k) = tabFind t (4 * l + k) := by
  induction ls generalizing t with
  | nil => rfl
  | cons a r ih =>
    have ha : l ≠ a := fun e => hl (by simp [e])
    rw [List.foldl_cons, ih _ (fun h => hl (List.mem_cons_of_mem _ h)), tabFind_pushLane, if_neg (by omega),
      if_neg (by omega)]

/-- A push in several lanes, in one of them. -/
theorem pushLanes_same (res : Nat → Option W64) (ls : List Nat) (t : Tab W64) (l k : Nat) (hk : k < 4) (hn : ls.Nodup)
    (hl : l ∈ ls) :
    tabFind (ls.foldl (pushLane res) t) (4 * l + k) = if k = 0 then res l else tabFind t (4 * l + k - 1) := by
  induction ls generalizing t with
  | nil => cases hl
  | cons a r ih =>
    rw [List.foldl_cons]
    by_cases ha : l = a
    · subst ha
      rw [pushLanes_other res r _ l k hk (List.nodup_cons.mp hn).1, tabFind_pushLane]
      by_cases h0 : k = 0
      · subst h0; simp
      · rw [if_neg (by omega), if_pos (by omega), if_neg h0]
    · have hr : l ∈ r := by
        rcases List.mem_cons.mp hl with h | h
        · exact absurd h ha
        · exact h
      rw [ih _ (List.nodup_cons.mp hn).2 hr]
      by_cases h0 : k = 0
      · rw [if_pos h0, if_pos h0]
      · rw [if_neg h0, if_neg h0, show 4 * l + k - 1 = 4 * l + (k - 1) by omega, tabFind_pushLane, if_neg (by omega),
          if_neg (by omega)]

/-- The latches after a push. -/
theorem latchesAfter_push (i : Issue) (g g' : Gang) (due : Nat) (top : Nat → Option W64) (hg : g.latch = i.g.latch)
    (h : g'.latch = (pushLatch g (lanesMask i) due top).latch) : LatchesAfter i g' top := by
  intro l hl
  rw [h, pushLatch_latch, hg]
  split
  · next hm =>
    have hmem : l ∈ lanesOf (lanesMask i) := (mem_lanesOf _ _).mpr ⟨hl, hm⟩
    have key := fun k hk => pushLanes_same top (lanesOf (lanesMask i)) i.g.latch l k hk (nodup_lanesOf _) hmem
    exact ⟨by simpa using key 0 (by omega), by simpa using key 1 (by omega), by simpa using key 2 (by omega),
      by simpa using key 3 (by omega)⟩
  · next hm =>
    intro k hk
    exact pushLanes_other top _ _ l k hk (fun hmem => hm ((mem_lanesOf _ _).mp hmem).2)

/-- A switch point that passes: the gang goes on behind it with its latches lost. -/
theorem switch_done {s : State} {i : Issue} (h : issuing s = some i) (g : Gang) (hf : g.frags = i.g.frags) (hs : g.seq = i.g.seq) :
    PassDone s i (g.sameIssue i.g) (finishSwitch s i g 4) := by
  refine ⟨_, _, rfl, onlyGang_put s _ _, gang_put s _ _, goesTo_setPc h _ _ (by simpa using hf), by simp [hs], ?_⟩
  rw [sameIssue_setPc]
  unfold switchAt; split <;> rfl

end Sys2Proof.Machine
end

