-- ==== Sys2Proof/Laws/Lane.lean ====
section
/-! SUPPORT. Laws of lane instructions: what the shared forms of lane instructions do once the register checks pass. -/

namespace Sys2Proof.Machine

/-- A lane instruction that passes its register checks runs. -/
theorem withRegs_ok {s : State} {i : Issue} {cls op : Nat} {f : Lane} (h : RegsOk i cls op f) (k : Answer) :
    withRegs s i (laneRowD cls op) f k = k := by
  unfold withRegs; unfold RegsOk at h; simp [h]

/-- One that fails them takes the illegal-register trap. -/
theorem withRegs_trap {s : State} {i : Issue} {cls op : Nat} {f : Lane} (h : ¬RegsOk i cls op f) (k : Answer) :
    withRegs s i (laneRowD cls op) f k =
      .next (takeTrap s i causeIllreg 8 (laneBreach (laneRowD cls op) f i.b.regs i.b.acc) (trapWords i.cur.words)) := by
  unfold withRegs
  split
  · next h0 => exact absurd h0 h
  · rfl

/-- The gang after results are written in the active lanes, or none when NWB is set: only lane registers differ. -/
theorem writeActive (i : Issue) (f : Lane) (w : Nat) (e : Bool) (value : Nat → W64) (hw : w = 1 ∨ w = 2) :
    ∃ v, (if f.nwb = true then i.g
        else (lanesOf (activeMask i f.guard f.neg)).foldl
          (fun g l => writeGroup g (some (f.dst.toNat, w, e)) l (value l)) i.g) = { i.g with v := v } ∧
      ∀ n l, l < 32 → tabGet v (32 * n + l) 0 = laneRegAfter i f w value n l := by
  have hgw : groupWords (some (f.dst.toNat, w, e)) = w := by rcases hw with rfl | rfl <;> rfl
  refine ⟨_, (?_ : _ = { i.g with v := (if f.nwb = true then i.g
        else (lanesOf (activeMask i f.guard f.neg)).foldl
          (fun g l => writeGroup g (some (f.dst.toNat, w, e)) l (value l)) i.g).v }), ?_⟩
  · split
    · rfl
    · have hf := writeLanes_frame (some (f.dst.toNat, w, e)) value (lanesOf (activeMask i f.guard f.neg)) i.g
      generalize (lanesOf (activeMask i f.guard f.neg)).foldl
          (fun g l => writeGroup g (some (f.dst.toNat, w, e)) l (value l)) i.g = x at hf ⊢
      rw [← hf]
  · intro n l hl
    unfold laneRegAfter
    split
    · next hn => simp [hn, vreg]
    · next hn =>
      have key := vreg_writeLanes (some (f.dst.toNat, w, e)) value (lanesOf (activeMask i f.guard f.neg)) i.g n l
        (fun l hl => ((mem_lanesOf _ _).mp hl).1) hl
      simp only [hgw, show groupFirst (some (f.dst.toNat, w, e)) = f.dst.toNat from rfl, mem_lanesOf, hl, true_and] at key
      rw [vreg] at key
      rw [key]
      simp [hn]

/-- A lane instruction that writes lane registers is done. -/
theorem laneOpWith_done {s : State} {i : Issue} {cls op : Nat} {f : Lane} (h : issuing s = some i)
    (hr : RegsOk i cls op f) (lat interval w : Nat) (e : Bool) (lost : Issue → LaneRow → Mask → Bool)
    (compute : Issue → Nat → W64 × FFlags)
    (hd : dstGroup (laneUse (laneRowD cls op) f.ty.toNat f.mod.toNat) f = some (f.dst.toNat, w, e)) (hw : w = 1 ∨ w = 2) :
    LaneDone s i f w (fun l => (compute i l).1) (fun l => (compute i l).2)
      (lost i (laneUse (laneRowD cls op) f.ty.toNat f.mod.toNat) (activeMask i f.guard f.neg))
      (laneOpWith s cls op f lat interval lost compute) := by
  obtain ⟨v, hg, hv⟩ := writeActive i f w e (fun l => (compute i l).1) hw
  rw [laneOpWith, onIssue_of h]
  simp only [withRegs_ok hr, hd, finishLane, hg]
  have hold : ∀ l, readGroup i.g (some (f.dst.toNat, w, e)) l = laneOld i f w l := by
    intro l; rcases hw with rfl | rfl <;> rfl
  simp only [hold]
  generalize hG : (if f.nwb = true then ({ i.g with v := v } : Gang)
    else pendUntil { i.g with v := v } (groupRegs (some (f.dst.toNat, w, e))) lat) = G
  have hp : ∃ pd fd, G = { i.g with v := v, pend := pd, flagsDue := fd } := by
    subst hG
    unfold pendUntil
    split
    · exact ⟨_, _, rfl⟩
    · split <;> exact ⟨_, _, rfl⟩
  obtain ⟨pd, fd, rfl⟩ := hp
  refine ⟨_, _, rfl, onlyGang_put s _ _, gang_put s _ _, ?_, ?_, ?_, goesTo_setPc h _ _ ?_, ?_, ?_⟩
  · intro n l hl
    rw [← hv n l hl]
    unfold vreg
    cases lost i (laneUse (laneRowD cls op) f.ty.toNat f.mod.toNat) (activeMask i f.guard f.neg) <;> simp
  · refine latchesAfter_push i ({ i.g with v := v, pend := pd, flagsDue := fd } : Gang) _ (i.g.turn + lat) _ rfl ?_
    cases lost i (laneUse (laneRowD cls op) f.ty.toNat f.mod.toNat) (activeMask i f.guard f.neg) <;> simp
  · cases lost i (laneUse (laneRowD cls op) f.ty.toNat f.mod.toNat) (activeMask i f.guard f.neg) <;> simp
  · cases lost i (laneUse (laneRowD cls op) f.ty.toNat f.mod.toNat) (activeMask i f.guard f.neg) <;> simp
  · cases lost i (laneUse (laneRowD cls op) f.ty.toNat f.mod.toNat) (activeMask i f.guard f.neg) <;> simp
  · cases lost i (laneUse (laneRowD cls op) f.ty.toNat f.mod.toNat) (activeMask i f.guard f.neg) <;> simp [Gang.sameIssue]

/-- A lane instruction whose lost latches are those its sources name. -/
theorem laneOp_done {s : State} {i : Issue} {cls op : Nat} {f : Lane} (h : issuing s = some i)
    (hr : RegsOk i cls op f) (lat interval w : Nat) (e : Bool) (compute : Issue → Nat → W64 × FFlags)
    (hd : dstGroup (laneUse (laneRowD cls op) f.ty.toNat f.mod.toNat) f = some (f.dst.toNat, w, e)) (hw : w = 1 ∨ w = 2) :
    LaneDone s i f w (fun l => (compute i l).1) (fun l => (compute i l).2) (lostRead i cls op f)
      (laneOp s cls op f lat interval compute) :=
  laneOpWith_done h hr lat interval w e _ compute hd hw

/-- Predicates after one is set in the lanes of a mask. -/
theorem pred_setPreds (g : Gang) (kd n : BitVec 3) (m x : Mask) (l : Nat) :
    pred (setPreds g kd m x) n l = if n = kd ∧ n ≠ 0 ∧ m.getLsbD l = true then x.getLsbD l else pred g n l := by
  unfold pred predMask
  by_cases h0 : n = 0
  · rw [if_pos h0, if_pos h0, if_neg (fun h => h.2.1 h0)]
  · rw [if_neg h0, if_neg h0]
    unfold setPreds
    by_cases hk : kd = 0
    · rw [if_pos hk, if_neg (fun h => h0 (h.1.trans hk))]
    · rw [if_neg hk]
      simp only [tabGet, tabFind_tabPut]
      by_cases hn : n = kd
      · subst hn
        have hp : predMask g n = tabGet g.k n.toNat 0 := if_neg h0
        simp only [if_true, Option.getD_some, hp, BitVec.getLsbD_or, BitVec.getLsbD_and, BitVec.getLsbD_not, tabGet]
        by_cases hl : l < 32
        · cases hm : m.getLsbD l <;> simp_all
        · simp [BitVec.getLsbD_of_ge _ l (Nat.le_of_not_lt hl)]
      · rw [if_neg (fun e => hn (BitVec.eq_of_toNat_eq e)), if_neg (fun h => hn h.1)]

/-- The bits of a mask made from a test. -/
theorem getLsbD_maskOf (p : Nat → Bool) (l : Nat) (hl : l < 32) : (maskOf p).getLsbD l = p l := by
  have key : ∀ (ls : List Nat) (m : Mask), (∀ x ∈ ls, x < 32) →
      (ls.foldl (fun m x => if p x then m ||| laneBit x else m) m).getLsbD l = (m.getLsbD l || (decide (l ∈ ls) && p l)) := by
    intro ls
    induction ls with
    | nil => intro m _; simp
    | cons x r ih =>
      intro m hx
      rw [List.foldl_cons, ih _ (fun y hy => hx y (List.mem_cons_of_mem _ hy))]
      have hbit : (laneBit x).getLsbD l = decide (x = l) := by
        have ht : laneBit x = BitVec.twoPow 32 x := by
          apply BitVec.eq_of_toNat_eq
          simp [laneBit, BitVec.toNat_twoPow]
        rw [ht, BitVec.getLsbD_twoPow]
        have := hx x List.mem_cons_self
        simp
        omega
      by_cases hxl : x = l
      · subst hxl
        cases p x <;> simp [hbit]
      · have : l ≠ x := fun e => hxl e.symm
        cases hp : p x <;> simp [hbit, hxl, this]
  rw [maskOf, key allLanes 0 (by simp [allLanes])]
  simp [allLanes, hl]

/-- A lane instruction that writes a predicate is done. -/
theorem predOp_done {s : State} {i : Issue} {cls op : Nat} {f : Lane} (h : issuing s = some i)
    (hr : RegsOk i cls op f) (lat interval : Nat) (compute : Issue → Nat → Bool × FFlags) :
    PredDone s i f (fun l => (compute i l).1) (fun l => (compute i l).2) (lostRead i cls op f)
      (predOp s cls op f lat interval compute) := by
  rw [predOp, onIssue_of h]
  simp only [withRegs_ok hr, finishLane]
  have hk : ∀ n l, l < 32 → pred (setPreds i.g f.kd (activeMask i f.guard f.neg)
        (maskOf fun l => (activeMask i f.guard f.neg).getLsbD l && (compute i l).1)) n l =
      if n = f.kd ∧ n ≠ 0 ∧ (activeMask i f.guard f.neg).getLsbD l = true then (compute i l).1 else pred i.g n l := by
    intro n l hl
    rw [pred_setPreds, getLsbD_maskOf _ _ hl]
    by_cases hc : n = f.kd ∧ n ≠ 0 ∧ (activeMask i f.guard f.neg).getLsbD l = true
    · rw [if_pos hc, if_pos hc, hc.2.2]; rfl
    · rw [if_neg hc, if_neg hc]
  have hG : ∃ k pd fd, pendUntil (setPreds i.g f.kd (activeMask i f.guard f.neg)
        (maskOf fun l => (activeMask i f.guard f.neg).getLsbD l && (compute i l).1)) (predName f.kd) lat =
        { i.g with k := k, pend := pd, flagsDue := fd } ∧
      k = (setPreds i.g f.kd (activeMask i f.guard f.neg)
        (maskOf fun l => (activeMask i f.guard f.neg).getLsbD l && (compute i l).1)).k := by
    unfold pendUntil setPreds
    split <;> split <;> exact ⟨_, _, _, rfl, rfl⟩
  obtain ⟨k, pd, fd, hG, hkk⟩ := hG
  have hpred : ∀ n l, pred ({ i.g with k := k } : Gang) n l = pred (setPreds i.g f.kd (activeMask i f.guard f.neg)
        (maskOf fun l => (activeMask i f.guard f.neg).getLsbD l && (compute i l).1)) n l := by
    intro n l; rw [hkk]; rfl
  simp only [hG, noteLost]
  refine ⟨_, _, rfl, onlyGang_put s _ _, gang_put s _ _, ?_, ?_, ?_, goesTo_setPc h _ _ ?_, ?_, ?_⟩
  · intro n l hl
    rw [← hk n l hl, ← hpred]
    unfold pred predMask
    by_cases h0 : n = 0
    · rw [if_pos h0, if_pos h0]
    · rw [if_neg h0, if_neg h0]
      split <;> simp
  · refine latchesAfter_push i ({ i.g with k := k, pend := pd, flagsDue := fd } : Gang) _ i.g.turn _ rfl ?_
    split <;> simp
  · unfold lostRead; split <;> simp_all
  · split <;> simp
  · split <;> simp
  · split <;> simp [Gang.sameIssue]

/-- The destination of a lane op whose width its type gives: two registers for a 64-bit type, else one. -/
theorem dstGroup_typed (cls op : Nat) (f : Lane) (hd : (laneUse (laneRowD cls op) f.ty.toNat f.mod.toNat).dst = .typed) :
    dstGroup (laneUse (laneRowD cls op) f.ty.toNat f.mod.toNat) f =
      some (f.dst.toNat, if is64 f.ty.toNat then 2 else 1, is64 f.ty.toNat) := by
  unfold dstGroup; rw [hd]; dsimp only; cases is64 f.ty.toNat <;> rfl

end Sys2Proof.Machine
end

