-- ==== Sys2Proof/Laws/Memory.lean ====
section
/-! SUPPORT. Laws of memory instructions: what opening an access does to the state and to the gang. -/

namespace Sys2Proof.Machine

/-- Issuing requests changes the requests and the next number only. -/
theorem issueReqs_frame (s : State) (i : Issue) (acc : Option Nat) (w : Want) (ls : List (W64 × List Part)) :
    { issueReqs s i acc w ls with reqs := s.reqs, nextId := s.nextId } = s := by
  unfold issueReqs
  induction ls generalizing s with
  | nil => rfl
  | cons l r ih =>
    have h := ih (putReq s (mkReq i acc w l.1 l.2))
    rw [List.foldl_cons]
    generalize r.foldl (fun s l => putReq s (mkReq i acc w l.1 l.2)) (putReq s (mkReq i acc w l.1 l.2)) = t at h
    calc { t with reqs := s.reqs, nextId := s.nextId }
        = { ({ t with reqs := (putReq s (mkReq i acc w l.1 l.2)).reqs,
                      nextId := (putReq s (mkReq i acc w l.1 l.2)).nextId } : State) with
            reqs := s.reqs, nextId := s.nextId } := rfl
      _ = s := by rw [h]; rfl

/-- The requests after they are issued: one per line, in order, from the next number on. -/
theorem issueReqs_reqs (s : State) (i : Issue) (acc : Option Nat) (w : Want) (ls : List (W64 × List Part)) :
    (issueReqs s i acc w ls).nextId = s.nextId + ls.length ∧
    (∀ n (h : n < ls.length),
      tabFind (issueReqs s i acc w ls).reqs (s.nextId + n) = some (mkReq i acc w (ls[n]).1 (ls[n]).2)) ∧
    (∀ k, k < s.nextId ∨ s.nextId + ls.length ≤ k → tabFind (issueReqs s i acc w ls).reqs k = tabFind s.reqs k) := by
  unfold issueReqs
  induction ls generalizing s with
  | nil => exact ⟨rfl, fun n h => absurd h (Nat.not_lt_zero n), fun _ _ => rfl⟩
  | cons l r ih =>
    obtain ⟨h1, h2, h3⟩ := ih (putReq s (mkReq i acc w l.1 l.2))
    rw [List.foldl_cons]
    simp only [putReq_nextId] at h1 h2 h3
    refine ⟨by rw [h1, List.length_cons]; omega, ?_, ?_⟩
    · intro n h
      cases n with
      | zero =>
        rw [h3 _ (.inl (by omega))]
        exact tabFind_tabPut_same _ _ _
      | succ n =>
        have := h2 n (by simpa using h)
        rw [show s.nextId + (n + 1) = s.nextId + 1 + n by omega]
        simpa using this
    · intro k hk
      rw [List.length_cons] at hk
      rw [h3 k (by omega)]
      exact tabFind_tabPut_other _ _ _ _ (by omega)

/-- An opened access stands in the state with its requests. -/
theorem openAccess_opened (s s' : State) (i : Issue) (g : Gang) (w : Want) (ls : List (W64 × List Part))
    (h : { s' with sys := s.sys } = s) : Opened s (openAccess s' i g w ls).1 i w ls := by
  have hid : s'.nextId = s.nextId := by rw [← h]
  have hac : s'.accs = s.accs := by rw [← h]
  have hrq : s'.reqs = s.reqs := by rw [← h]
  have hfr := issueReqs_frame (putAccess s' (mkAccess i w)) i (some s'.nextId) w ls
  obtain ⟨h1, h2, h3⟩ := issueReqs_reqs (putAccess s' (mkAccess i w)) i (some s'.nextId) w ls
  have haccs : (openAccess s' i g w ls).1.accs = tabPut s.accs s.nextId (mkAccess i w) := by
    have := congrArg State.accs hfr
    simpa [openAccess, hac, hid] using this
  simp only [putAccess_nextId, putAccess_reqs, hid, hrq] at h1 h2 h3
  refine ⟨by rw [haccs, tabFind_tabPut_same], fun k hk => by rw [haccs, tabFind_tabPut_other _ _ _ _ hk], ?_, ?_, ?_, ?_⟩
  · simpa [openAccess, hid] using h2
  · simpa [openAccess, hid] using h3
  · simpa [openAccess, hid] using h1
  · unfold openAccess
    generalize issueReqs (putAccess s' (mkAccess i w)) i (some s'.nextId) w ls = t at hfr
    calc { t with gangs := s.gangs, accs := s.accs, reqs := s.reqs, nextId := s.nextId, sys := s.sys }
        = { ({ t with reqs := (putAccess s' (mkAccess i w)).reqs, nextId := (putAccess s' (mkAccess i w)).nextId } : State) with
            gangs := s.gangs, accs := s.accs, reqs := s.reqs, nextId := s.nextId, sys := s.sys } := rfl
      _ = { (s' : State) with gangs := s.gangs, accs := s.accs, reqs := s.reqs, nextId := s.nextId, sys := s.sys } := by
          rw [hfr]; rfl
      _ = { ({ s' with sys := s.sys } : State) with gangs := s.gangs, accs := s.accs, reqs := s.reqs, nextId := s.nextId } := rfl
      _ = s := by rw [h]

/-- Counting PADR changes system registers only. -/
theorem countPadr_frame (s : State) (b : Block) : { countPadr s b with sys := s.sys } = s := by
  unfold countPadr countField
  split
  · split <;> rfl
  · rfl

/-- The gang an opened access leaves: its path counter and its pending results. -/
theorem openAccess_gang (s : State) (i : Issue) (g : Gang) (w : Want) (ls : List (W64 × List Part)) :
    (openAccess s i g w ls).2 = pendOn (raisePath g w.path) w.dest s.nextId := rfl

/-- Path counters after one rises. -/
theorem pathCount_raise (g : Gang) (q : Option Nat) (p : Nat) :
    pathCount (raisePath g q) p = if q = some p then pathCount g p + 1 else pathCount g p := by
  cases q with
  | none => rfl
  | some q =>
    simp only [raisePath, pathCount, setPath, tabGet, tabFind_tabPut, Option.some.injEq]
    by_cases h : p = q
    · subst h; simp
    · rw [if_neg h, if_neg (fun e => h e.symm)]

/-- Finishing after an access was opened: the instruction is done. -/
theorem memDone_of {s : State} {i : Issue} (h : issuing s = some i) (s' : State) (hs' : { s' with sys := s.sys } = s)
    (w : Want) (ls : List (W64 × List Part)) (out lost push switch : Bool) (len : Nat) (g : Gang) (a : Gang → Gang)
    (hsys : out = false → s'.sys = s.sys)
    (hg : ∃ la ld, g = { i.g with gstat := i.g.gstat ||| (if lost then gstatLatch else 0) ||| (if out then gstatPadr else 0),
                                   latch := la, latchDue := ld } ∧
      (if push then la = (pushLatch i.g (lanesMask i) i.g.turn fun _ => none).latch else la = i.g.latch))
    (ha : a = if switch then switchAt i else id) :
    MemDone s i w ls out lost push switch (BitVec.ofNat 64 len)
      (.next (putGang (openAccess s' i g w ls).1 i.cur.gang
        (setPc i (a (tickIssue (openAccess s' i g w ls).2 1)) (i.f.pc + BitVec.ofNat 64 len)))) := by
  obtain ⟨la, ld, rfl, hla⟩ := hg
  subst ha
  have hop := openAccess_opened s s' i
    { i.g with gstat := i.g.gstat ||| (if lost then gstatLatch else 0) ||| (if out then gstatPadr else 0), latch := la, latchDue := ld }
    w ls hs'
  have hid : s'.nextId = s.nextId := by rw [← hs']
  have hgs : s'.gangs = s.gangs := by rw [← hs']
  have hfr := fun (g : Gang) => issueReqs_frame (putAccess s' (mkAccess i w)) i (some s'.nextId) w ls
  have hgangs : ∀ g, (openAccess s' i g w ls).1.gangs = s.gangs := by
    intro g
    have := congrArg State.gangs (hfr g)
    simpa [openAccess, hgs] using this
  have hsysr : ∀ g, (openAccess s' i g w ls).1.sys = s'.sys := by
    intro g
    have := congrArg State.sys (hfr g)
    simpa [openAccess] using this
  refine ⟨_, _, rfl, gang_put _ _ _, ?_, ?_, ?_, ?_, ?_, ?_, ?_, goesTo_setPc h _ _ ?_, ?_, ?_⟩
  · intro k hk
    simp only [putGang_gangs, hgangs]
    exact tabFind_tabPut_other _ _ _ _ hk
  · exact hop
  · intro ho
    simp only [putGang_sys, hsysr]
    exact hsys ho
  · intro p
    have : ∀ x y : Gang, x.paths = y.paths → pathCount x p = pathCount y p := by
      intro x y e; unfold pathCount; rw [e]
    rw [← show pathCount (raisePath i.g w.path) p = _ from pathCount_raise i.g w.path p]
    apply this
    rw [openAccess_gang]
    cases w.path <;> cases switch <;> simp [raisePath, setPath, pathCount]
  · intro r hr
    have : ({ reg := r, due := .access s.nextId } : Pend) ∈
        (tickIssue (openAccess s' i { i.g with
          gstat := i.g.gstat ||| (if lost then gstatLatch else 0) ||| (if out then gstatPadr else 0), latch := la, latchDue := ld } w ls).2 1).pend := by
      rw [openAccess_gang, hid]
      simp only [tickIssue, pendOn, List.mem_filter, List.mem_append, List.mem_map]
      exact ⟨.inr ⟨r, hr, rfl⟩, trivial⟩
    cases switch <;> simpa using this
  · rw [openAccess_gang]
    cases switch <;> simp
  · rw [openAccess_gang]
    cases switch with
    | true => intro k; simp [tabFind]
    | false =>
      cases push with
      | true =>
        refine latchesAfter_push i i.g _ i.g.turn _ rfl ?_
        simpa using hla
      | false => simpa using hla
  · rw [openAccess_gang]
    cases switch <;> simp
  · rw [openAccess_gang]
    cases switch <;> simp
  · rw [openAccess_gang]
    cases switch <;> simp [Gang.sameIssue]

/-- What setting and counting PADR changes of the state. -/
theorem withPadr_parts (s : State) (i : Issue) (g : Gang) (out : Bool) :
    { (withPadr s i g out).1 with sys := s.sys } = s ∧ (out = false → (withPadr s i g out).1.sys = s.sys) := by
  unfold withPadr
  cases out
  · exact ⟨rfl, fun _ => rfl⟩
  · exact ⟨countPadr_frame s i.b, fun h => by cases h⟩

/-- The gang of a memory instruction after it has noted a lost latch, PADR, and pushed its latch entry. -/
theorem pushed_gang (s : State) (i : Issue) (f : Lane) (op : Nat) (out : Bool) :
    ∃ la ld, pushLatch (withPadr s i (noteLost i (laneUse (laneRowD 5 op) f.ty.toNat f.mod.toNat) f
        (activeMask i f.guard f.neg) i.g) out).2 (lanesMask i) (withPadr s i (noteLost i
          (laneUse (laneRowD 5 op) f.ty.toNat f.mod.toNat) f (activeMask i f.guard f.neg) i.g) out).2.turn (fun _ => none) =
      { i.g with gstat := i.g.gstat ||| (if lostRead i 5 op f then gstatLatch else 0) ||| (if out then gstatPadr else 0),
                 latch := la, latchDue := ld } ∧
      la = (pushLatch i.g (lanesMask i) i.g.turn fun _ => none).latch := by
  unfold noteLost lostRead
  cases lostSource i (laneUse (laneRowD 5 op) f.ty.toNat f.mod.toNat) f (activeMask i f.guard f.neg) <;> cases out <;>
    exact ⟨_, i.g.turn :: i.g.latchDue.take 3, by simp [withPadr, raiseGstat, pushLatch], rfl⟩

/-- A lane memory form is done: its access and requests are open. -/
theorem memOp_done {s : State} {i : Issue} {op : Nat} {f : Lane} (h : issuing s = some i) (hr : RegsOk i 5 op f)
    (m : MemForm) (dest : Nat → Dest) (data cmp : Issue → Nat → List Byte) :
    MemDone s i (formWant s i f m (dest (accessWidth f.ty.toNat f.mod.toNat))) (formLines s i f m (data i) (cmp i))
      (formOutside s i f m) (lostRead i 5 op f) true m.switch 12 (memOp s op f m dest data cmp) := by
  rw [memOp, onIssue_of h]
  simp only [withRegs_ok hr]
  obtain ⟨hp, hps⟩ := withPadr_parts s i (noteLost i (laneUse (laneRowD 5 op) f.ty.toNat f.mod.toNat) f
    (activeMask i f.guard f.neg) i.g) (formOutside s i f m)
  have hg := pushed_gang s i f op (formOutside s i f m)
  obtain ⟨kind, helpers, aligned, switch, path, sets, urgent⟩ := m
  cases switch
  · exact memDone_of h _ hp _ _ (formOutside s i f ⟨kind, helpers, aligned, false, path, sets, urgent⟩)
      (lostRead i 5 op f) true false 12 _ id hps hg rfl
  · exact memDone_of h _ hp _ _ (formOutside s i f ⟨kind, helpers, aligned, true, path, sets, urgent⟩)
      (lostRead i 5 op f) true true 12 _ (switchAt i) hps hg rfl

/-- A scalar access is done: its access and its requests are open. -/
theorem scalarAccess_done {s : State} {i : Issue} (h : issuing s = some i) (sp : Space) (kind : ReqKind) (dest : Dest)
    (sa : BitVec 6) (imm : BitVec 10) (n : Nat) (data : Issue → List Byte) :
    MemDone s i (scalarWant s i sp kind dest) (byLine (scalarPart sp (scalarAddr i sa imm n) n (data i)))
      (sp == .p && anyOutside s i.g.block i.b sp ((scalarPart sp (scalarAddr i sa imm n) n (data i)).map (·.2))) false false false
      4 (scalarAccess s sp kind dest sa imm n data) := by
  rw [scalarAccess, onIssue_of h]
  dsimp only
  generalize (sp == .p && anyOutside s i.g.block i.b sp ((scalarPart sp (scalarAddr i sa imm n) n (data i)).map (·.2))) = out
  obtain ⟨hp, hps⟩ := withPadr_parts s i i.g out
  refine memDone_of h _ hp _ _ out false false false 4 _ id hps ⟨i.g.latch, i.g.latchDue, ?_, rfl⟩ rfl
  cases out <;> simp [withPadr, raiseGstat]

/-- A pad access of a barrier instruction is done: its access and its request are open. -/
theorem barrierAccess_done {s : State} {i : Issue} (h : issuing s = some i) (sa : BitVec 6) (kind : ReqKind) (order : Order)
    (data : Issue → List Byte) :
    MemDone s i
      { path := some 2, sets := setsW, order := order, scope := 1, space := .p, kind := kind, dest := .none, mask := 0, urgent := false }
      [(0, [innerPart 0 (low32 (rs i sa) &&& ~~~(15 : W64)) 16 (data i) []])]
      (anyOutside s i.g.block i.b .p [innerPart 0 (low32 (rs i sa) &&& ~~~(15 : W64)) 16 (data i) []]) false false false 4
      (barrierAccess s sa kind order data) := by
  rw [barrierAccess, onIssue_of h]
  dsimp only
  generalize anyOutside s i.g.block i.b .p [innerPart 0 (low32 (rs i sa) &&& ~~~(15 : W64)) 16 (data i) []] = out
  obtain ⟨hp, hps⟩ := withPadr_parts s i i.g out
  refine memDone_of h _ hp _ _ out false false false 4 _ id hps ⟨i.g.latch, i.g.latchDue, ?_, rfl⟩ rfl
  cases out <;> simp [withPadr, raiseGstat]

end Sys2Proof.Machine
end

