-- ==== Sys2Proof/Laws/PerInstr.lean ====
section
/-! SUPPORT. The family Encoding: an instruction that has words and is well formed is what its words decode to (R42 to R49, R59). -/

set_option linter.unusedSimpArgs false
set_option linter.unusedVariables false

namespace Sys2Proof.Laws.Encoding

open Sys2Proof Sys2Proof.Machine Sys2Proof.Laws

/-- The words of a well-formed instruction decode to it; steps of units and agents have no words. -/
def Statement (i : Instr) : Prop :=
  hasWords i = true → wellFormed i = true →
    decodeWords ((encode i).getD 0 0) ((encode i).getD 1 0) ((encode i).getD 2 0) = .instr i

theorem nop : Statement .nop := fun _ h =>
  decode_scalar_of 0 0 ((0 : BitVec 22)) 0 0 _ (by
    simp [scalarControl?, scalarOp?, scalarWord_low, scalarWord_low22, scalarWord_get]) (beq_iff_eq.mp h)

theorem exit : Statement .exit := fun _ h =>
  decode_scalar_of 0 1 ((0 : BitVec 22)) 0 0 _ (by
    simp [scalarControl?, scalarOp?, scalarWord_low, scalarWord_low22, scalarWord_get]) (beq_iff_eq.mp h)

theorem bra (off : BitVec 16) : Statement (.bra off) := fun _ h =>
  decode_scalar_of 0 2 ((0 : BitVec 6) ++ off) 0 0 _ (by
    simp [scalarControl?, scalarOp?, scalarWord_low, scalarWord_low22, scalarWord_get, layout_6_16]) (beq_iff_eq.mp h)

theorem jal (sd : BitVec 6) (off : BitVec 16) : Statement (.jal sd off) := fun _ h =>
  decode_scalar_of 0 3 (sd ++ off) 0 0 _ (by
    simp [scalarControl?, scalarOp?, scalarWord_low, scalarWord_low22, scalarWord_get, layout_6_16]) (beq_iff_eq.mp h)

theorem jalr (sd : BitVec 6) (sa : BitVec 6) (imm : BitVec 10) : Statement (.jalr sd sa imm) := fun _ h =>
  decode_scalar_of 0 4 (sd ++ sa ++ imm) 0 0 _ (by
    simp [scalarControl?, scalarOp?, scalarWord_low, scalarWord_low22, scalarWord_get, layout_6_6_10]) (beq_iff_eq.mp h)

theorem beq (sa : BitVec 6) (sb : BitVec 6) (off : BitVec 10) : Statement (.beq sa sb off) := fun _ h =>
  decode_scalar_of 0 5 (sa ++ sb ++ off) 0 0 _ (by
    simp [scalarControl?, scalarOp?, scalarWord_low, scalarWord_low22, scalarWord_get, layout_6_6_10]) (beq_iff_eq.mp h)

theorem bne (sa : BitVec 6) (sb : BitVec 6) (off : BitVec 10) : Statement (.bne sa sb off) := fun _ h =>
  decode_scalar_of 0 6 (sa ++ sb ++ off) 0 0 _ (by
    simp [scalarControl?, scalarOp?, scalarWord_low, scalarWord_low22, scalarWord_get, layout_6_6_10]) (beq_iff_eq.mp h)

theorem blt (sa : BitVec 6) (sb : BitVec 6) (off : BitVec 10) : Statement (.blt sa sb off) := fun _ h =>
  decode_scalar_of 0 7 (sa ++ sb ++ off) 0 0 _ (by
    simp [scalarControl?, scalarOp?, scalarWord_low, scalarWord_low22, scalarWord_get, layout_6_6_10]) (beq_iff_eq.mp h)

theorem bge (sa : BitVec 6) (sb : BitVec 6) (off : BitVec 10) : Statement (.bge sa sb off) := fun _ h =>
  decode_scalar_of 0 8 (sa ++ sb ++ off) 0 0 _ (by
    simp [scalarControl?, scalarOp?, scalarWord_low, scalarWord_low22, scalarWord_get, layout_6_6_10]) (beq_iff_eq.mp h)

theorem bltn (sa : BitVec 6) (sb : BitVec 6) (off : BitVec 10) : Statement (.bltn sa sb off) := fun _ h =>
  decode_scalar_of 0 9 (sa ++ sb ++ off) 0 0 _ (by
    simp [scalarControl?, scalarOp?, scalarWord_low, scalarWord_low22, scalarWord_get, layout_6_6_10]) (beq_iff_eq.mp h)

theorem bgen (sa : BitVec 6) (sb : BitVec 6) (off : BitVec 10) : Statement (.bgen sa sb off) := fun _ h =>
  decode_scalar_of 0 10 (sa ++ sb ++ off) 0 0 _ (by
    simp [scalarControl?, scalarOp?, scalarWord_low, scalarWord_low22, scalarWord_get, layout_6_6_10]) (beq_iff_eq.mp h)

theorem bany (p : BitVec 3) (off : BitVec 10) : Statement (.bany p off) := fun _ h =>
  decode_scalar_of 0 11 ((0 : BitVec 3) ++ p ++ (0 : BitVec 6) ++ off) 0 0 _ (by
    simp [scalarControl?, scalarOp?, scalarWord_low, scalarWord_low22, scalarWord_get, layout_3_3_6_10]) (beq_iff_eq.mp h)

theorem ball (p : BitVec 3) (off : BitVec 10) : Statement (.ball p off) := fun _ h =>
  decode_scalar_of 0 12 ((0 : BitVec 3) ++ p ++ (0 : BitVec 6) ++ off) 0 0 _ (by
    simp [scalarControl?, scalarOp?, scalarWord_low, scalarWord_low22, scalarWord_get, layout_3_3_6_10]) (beq_iff_eq.mp h)

theorem bnone (p : BitVec 3) (off : BitVec 10) : Statement (.bnone p off) := fun _ h =>
  decode_scalar_of 0 13 ((0 : BitVec 3) ++ p ++ (0 : BitVec 6) ++ off) 0 0 _ (by
    simp [scalarControl?, scalarOp?, scalarWord_low, scalarWord_low22, scalarWord_get, layout_3_3_6_10]) (beq_iff_eq.mp h)

theorem join : Statement .join := fun _ h =>
  decode_scalar_of 0 14 ((0 : BitVec 22)) 0 0 _ (by
    simp [scalarControl?, scalarOp?, scalarWord_low, scalarWord_low22, scalarWord_get]) (beq_iff_eq.mp h)

theorem yield : Statement .yield := fun _ h =>
  decode_scalar_of 0 15 ((0 : BitVec 22)) 0 0 _ (by
    simp [scalarControl?, scalarOp?, scalarWord_low, scalarWord_low22, scalarWord_get]) (beq_iff_eq.mp h)

theorem pause (n : BitVec 16) : Statement (.pause n) := fun _ h =>
  decode_scalar_of 0 16 ((0 : BitVec 6) ++ n) 0 0 _ (by
    simp [scalarControl?, scalarOp?, scalarWord_low, scalarWord_low22, scalarWord_get, layout_6_16]) (beq_iff_eq.mp h)

theorem pauseExpiry (gang : Nat) : Statement (.pauseExpiry gang) := fun h => nomatch h

theorem wide : Statement .wide := fun _ h =>
  decode_scalar_of 0 17 ((0 : BitVec 22)) 0 0 _ (by
    simp [scalarControl?, scalarOp?, scalarWord_low, scalarWord_low22, scalarWord_get]) (beq_iff_eq.mp h)

theorem endw : Statement .endw := fun _ h =>
  decode_scalar_of 0 18 ((0 : BitVec 22)) 0 0 _ (by
    simp [scalarControl?, scalarOp?, scalarWord_low, scalarWord_low22, scalarWord_get]) (beq_iff_eq.mp h)

theorem regroup (vfirst : BitVec 9) (vlast : BitVec 9) (k : BitVec 3) (block : Bool) : Statement (.regroup vfirst vlast k block) := fun _ h =>
  decode_scalar_of 0 19 (vfirst ++ vlast ++ k ++ BitVec.ofBool block) 0 0 _ (by
    simp [scalarControl?, scalarOp?, scalarWord_low, scalarWord_low22, scalarWord_get, layout_9_9_3_1, layout_9_9_3_1_bit]) (beq_iff_eq.mp h)

theorem regroupProceed (gang : Nat) : Statement (.regroupProceed gang) := fun h => nomatch h

theorem bsync : Statement .bsync := fun _ h =>
  decode_scalar_of 0 20 ((0 : BitVec 22)) 0 0 _ (by
    simp [scalarControl?, scalarOp?, scalarWord_low, scalarWord_low22, scalarWord_get]) (beq_iff_eq.mp h)

theorem tsync : Statement .tsync := fun _ h =>
  decode_scalar_of 0 21 ((0 : BitVec 22)) 0 0 _ (by
    simp [scalarControl?, scalarOp?, scalarWord_low, scalarWord_low22, scalarWord_get]) (beq_iff_eq.mp h)

theorem barrierRelease (gang : Nat) : Statement (.barrierRelease gang) := fun h => nomatch h

theorem retc : Statement .retc := fun _ h =>
  decode_scalar_of 0 22 ((0 : BitVec 22)) 0 0 _ (by
    simp [scalarControl?, scalarOp?, scalarWord_low, scalarWord_low22, scalarWord_get]) (beq_iff_eq.mp h)

theorem sadd (sd : BitVec 6) (sa : BitVec 6) (sb : BitVec 6) : Statement (.sadd sd sa sb) := fun _ h =>
  decode_scalar_of 1 0 (sd ++ sa ++ sb ++ (0 : BitVec 4)) 0 0 _ (by
    simp [scalarInteger?, scalarOp?, scalarWord_low, scalarWord_low22, scalarWord_get, layout_6_6_6_4]) (beq_iff_eq.mp h)

theorem ssub (sd : BitVec 6) (sa : BitVec 6) (sb : BitVec 6) : Statement (.ssub sd sa sb) := fun _ h =>
  decode_scalar_of 1 1 (sd ++ sa ++ sb ++ (0 : BitVec 4)) 0 0 _ (by
    simp [scalarInteger?, scalarOp?, scalarWord_low, scalarWord_low22, scalarWord_get, layout_6_6_6_4]) (beq_iff_eq.mp h)

theorem smul (sd : BitVec 6) (sa : BitVec 6) (sb : BitVec 6) : Statement (.smul sd sa sb) := fun _ h =>
  decode_scalar_of 1 2 (sd ++ sa ++ sb ++ (0 : BitVec 4)) 0 0 _ (by
    simp [scalarInteger?, scalarOp?, scalarWord_low, scalarWord_low22, scalarWord_get, layout_6_6_6_4]) (beq_iff_eq.mp h)

theorem smulh (sd : BitVec 6) (sa : BitVec 6) (sb : BitVec 6) : Statement (.smulh sd sa sb) := fun _ h =>
  decode_scalar_of 1 3 (sd ++ sa ++ sb ++ (0 : BitVec 4)) 0 0 _ (by
    simp [scalarInteger?, scalarOp?, scalarWord_low, scalarWord_low22, scalarWord_get, layout_6_6_6_4]) (beq_iff_eq.mp h)

theorem smulhn (sd : BitVec 6) (sa : BitVec 6) (sb : BitVec 6) : Statement (.smulhn sd sa sb) := fun _ h =>
  decode_scalar_of 1 4 (sd ++ sa ++ sb ++ (0 : BitVec 4)) 0 0 _ (by
    simp [scalarInteger?, scalarOp?, scalarWord_low, scalarWord_low22, scalarWord_get, layout_6_6_6_4]) (beq_iff_eq.mp h)

theorem sand (sd : BitVec 6) (sa : BitVec 6) (sb : BitVec 6) : Statement (.sand sd sa sb) := fun _ h =>
  decode_scalar_of 1 5 (sd ++ sa ++ sb ++ (0 : BitVec 4)) 0 0 _ (by
    simp [scalarInteger?, scalarOp?, scalarWord_low, scalarWord_low22, scalarWord_get, layout_6_6_6_4]) (beq_iff_eq.mp h)

theorem sor (sd : BitVec 6) (sa : BitVec 6) (sb : BitVec 6) : Statement (.sor sd sa sb) := fun _ h =>
  decode_scalar_of 1 6 (sd ++ sa ++ sb ++ (0 : BitVec 4)) 0 0 _ (by
    simp [scalarInteger?, scalarOp?, scalarWord_low, scalarWord_low22, scalarWord_get, layout_6_6_6_4]) (beq_iff_eq.mp h)

theorem sxor (sd : BitVec 6) (sa : BitVec 6) (sb : BitVec 6) : Statement (.sxor sd sa sb) := fun _ h =>
  decode_scalar_of 1 7 (sd ++ sa ++ sb ++ (0 : BitVec 4)) 0 0 _ (by
    simp [scalarInteger?, scalarOp?, scalarWord_low, scalarWord_low22, scalarWord_get, layout_6_6_6_4]) (beq_iff_eq.mp h)

theorem sshl (sd : BitVec 6) (sa : BitVec 6) (sb : BitVec 6) : Statement (.sshl sd sa sb) := fun _ h =>
  decode_scalar_of 1 8 (sd ++ sa ++ sb ++ (0 : BitVec 4)) 0 0 _ (by
    simp [scalarInteger?, scalarOp?, scalarWord_low, scalarWord_low22, scalarWord_get, layout_6_6_6_4]) (beq_iff_eq.mp h)

theorem sshr (sd : BitVec 6) (sa : BitVec 6) (sb : BitVec 6) : Statement (.sshr sd sa sb) := fun _ h =>
  decode_scalar_of 1 9 (sd ++ sa ++ sb ++ (0 : BitVec 4)) 0 0 _ (by
    simp [scalarInteger?, scalarOp?, scalarWord_low, scalarWord_low22, scalarWord_get, layout_6_6_6_4]) (beq_iff_eq.mp h)

theorem ssra (sd : BitVec 6) (sa : BitVec 6) (sb : BitVec 6) : Statement (.ssra sd sa sb) := fun _ h =>
  decode_scalar_of 1 10 (sd ++ sa ++ sb ++ (0 : BitVec 4)) 0 0 _ (by
    simp [scalarInteger?, scalarOp?, scalarWord_low, scalarWord_low22, scalarWord_get, layout_6_6_6_4]) (beq_iff_eq.mp h)

theorem smin (sd : BitVec 6) (sa : BitVec 6) (sb : BitVec 6) : Statement (.smin sd sa sb) := fun _ h =>
  decode_scalar_of 1 11 (sd ++ sa ++ sb ++ (0 : BitVec 4)) 0 0 _ (by
    simp [scalarInteger?, scalarOp?, scalarWord_low, scalarWord_low22, scalarWord_get, layout_6_6_6_4]) (beq_iff_eq.mp h)

theorem smax (sd : BitVec 6) (sa : BitVec 6) (sb : BitVec 6) : Statement (.smax sd sa sb) := fun _ h =>
  decode_scalar_of 1 12 (sd ++ sa ++ sb ++ (0 : BitVec 4)) 0 0 _ (by
    simp [scalarInteger?, scalarOp?, scalarWord_low, scalarWord_low22, scalarWord_get, layout_6_6_6_4]) (beq_iff_eq.mp h)

theorem sminn (sd : BitVec 6) (sa : BitVec 6) (sb : BitVec 6) : Statement (.sminn sd sa sb) := fun _ h =>
  decode_scalar_of 1 13 (sd ++ sa ++ sb ++ (0 : BitVec 4)) 0 0 _ (by
    simp [scalarInteger?, scalarOp?, scalarWord_low, scalarWord_low22, scalarWord_get, layout_6_6_6_4]) (beq_iff_eq.mp h)

theorem smaxn (sd : BitVec 6) (sa : BitVec 6) (sb : BitVec 6) : Statement (.smaxn sd sa sb) := fun _ h =>
  decode_scalar_of 1 14 (sd ++ sa ++ sb ++ (0 : BitVec 4)) 0 0 _ (by
    simp [scalarInteger?, scalarOp?, scalarWord_low, scalarWord_low22, scalarWord_get, layout_6_6_6_4]) (beq_iff_eq.mp h)

theorem sslt (sd : BitVec 6) (sa : BitVec 6) (sb : BitVec 6) : Statement (.sslt sd sa sb) := fun _ h =>
  decode_scalar_of 1 15 (sd ++ sa ++ sb ++ (0 : BitVec 4)) 0 0 _ (by
    simp [scalarInteger?, scalarOp?, scalarWord_low, scalarWord_low22, scalarWord_get, layout_6_6_6_4]) (beq_iff_eq.mp h)

theorem ssltn (sd : BitVec 6) (sa : BitVec 6) (sb : BitVec 6) : Statement (.ssltn sd sa sb) := fun _ h =>
  decode_scalar_of 1 16 (sd ++ sa ++ sb ++ (0 : BitVec 4)) 0 0 _ (by
    simp [scalarInteger?, scalarOp?, scalarWord_low, scalarWord_low22, scalarWord_get, layout_6_6_6_4]) (beq_iff_eq.mp h)

theorem sclz (sd : BitVec 6) (sa : BitVec 6) : Statement (.sclz sd sa) := fun _ h =>
  decode_scalar_of 1 17 (sd ++ sa ++ (0 : BitVec 10)) 0 0 _ (by
    simp [scalarInteger?, scalarOp?, scalarWord_low, scalarWord_low22, scalarWord_get, layout_6_6_10]) (beq_iff_eq.mp h)

theorem spopc (sd : BitVec 6) (sa : BitVec 6) : Statement (.spopc sd sa) := fun _ h =>
  decode_scalar_of 1 18 (sd ++ sa ++ (0 : BitVec 10)) 0 0 _ (by
    simp [scalarInteger?, scalarOp?, scalarWord_low, scalarWord_low22, scalarWord_get, layout_6_6_10]) (beq_iff_eq.mp h)

theorem saddi (sd : BitVec 6) (sa : BitVec 6) (imm : BitVec 10) : Statement (.saddi sd sa imm) := fun _ h =>
  decode_scalar_of 2 0 (sd ++ sa ++ imm) 0 0 _ (by
    simp [scalarImmediate?, scalarOp?, scalarWord_low, scalarWord_low22, scalarWord_get, layout_6_6_10]) (beq_iff_eq.mp h)

theorem sandi (sd : BitVec 6) (sa : BitVec 6) (imm : BitVec 10) : Statement (.sandi sd sa imm) := fun _ h =>
  decode_scalar_of 2 1 (sd ++ sa ++ imm) 0 0 _ (by
    simp [scalarImmediate?, scalarOp?, scalarWord_low, scalarWord_low22, scalarWord_get, layout_6_6_10]) (beq_iff_eq.mp h)

theorem sori (sd : BitVec 6) (sa : BitVec 6) (imm : BitVec 10) : Statement (.sori sd sa imm) := fun _ h =>
  decode_scalar_of 2 2 (sd ++ sa ++ imm) 0 0 _ (by
    simp [scalarImmediate?, scalarOp?, scalarWord_low, scalarWord_low22, scalarWord_get, layout_6_6_10]) (beq_iff_eq.mp h)

theorem sxori (sd : BitVec 6) (sa : BitVec 6) (imm : BitVec 10) : Statement (.sxori sd sa imm) := fun _ h =>
  decode_scalar_of 2 3 (sd ++ sa ++ imm) 0 0 _ (by
    simp [scalarImmediate?, scalarOp?, scalarWord_low, scalarWord_low22, scalarWord_get, layout_6_6_10]) (beq_iff_eq.mp h)

theorem sshli (sd : BitVec 6) (sa : BitVec 6) (n : BitVec 6) : Statement (.sshli sd sa n) := fun _ h =>
  decode_scalar_of 2 4 (sd ++ sa ++ (0 : BitVec 4) ++ n) 0 0 _ (by
    simp [scalarImmediate?, scalarOp?, scalarWord_low, scalarWord_low22, scalarWord_get, layout_6_6_4_6]) (beq_iff_eq.mp h)

theorem sshri (sd : BitVec 6) (sa : BitVec 6) (n : BitVec 6) : Statement (.sshri sd sa n) := fun _ h =>
  decode_scalar_of 2 5 (sd ++ sa ++ (0 : BitVec 4) ++ n) 0 0 _ (by
    simp [scalarImmediate?, scalarOp?, scalarWord_low, scalarWord_low22, scalarWord_get, layout_6_6_4_6]) (beq_iff_eq.mp h)

theorem ssrai (sd : BitVec 6) (sa : BitVec 6) (n : BitVec 6) : Statement (.ssrai sd sa n) := fun _ h =>
  decode_scalar_of 2 6 (sd ++ sa ++ (0 : BitVec 4) ++ n) 0 0 _ (by
    simp [scalarImmediate?, scalarOp?, scalarWord_low, scalarWord_low22, scalarWord_get, layout_6_6_4_6]) (beq_iff_eq.mp h)

theorem sslti (sd : BitVec 6) (sa : BitVec 6) (imm : BitVec 10) : Statement (.sslti sd sa imm) := fun _ h =>
  decode_scalar_of 2 7 (sd ++ sa ++ imm) 0 0 _ (by
    simp [scalarImmediate?, scalarOp?, scalarWord_low, scalarWord_low22, scalarWord_get, layout_6_6_10]) (beq_iff_eq.mp h)

theorem slui (sd : BitVec 6) (imm : BitVec 16) : Statement (.slui sd imm) := fun _ h =>
  decode_scalar_of 2 8 (sd ++ imm) 0 0 _ (by
    simp [scalarImmediate?, scalarOp?, scalarWord_low, scalarWord_low22, scalarWord_get, layout_6_16]) (beq_iff_eq.mp h)

theorem saddpc (sd : BitVec 6) (imm : BitVec 16) : Statement (.saddpc sd imm) := fun _ h =>
  decode_scalar_of 2 9 (sd ++ imm) 0 0 _ (by
    simp [scalarImmediate?, scalarOp?, scalarWord_low, scalarWord_low22, scalarWord_get, layout_6_16]) (beq_iff_eq.mp h)

theorem smovi (sd : BitVec 6) (imm : BitVec 16) : Statement (.smovi sd imm) := fun _ h =>
  decode_scalar_of 2 10 (sd ++ imm) 0 0 _ (by
    simp [scalarImmediate?, scalarOp?, scalarWord_low, scalarWord_low22, scalarWord_get, layout_6_16]) (beq_iff_eq.mp h)

theorem sins16 (sd : BitVec 6) (imm : BitVec 16) : Statement (.sins16 sd imm) := fun _ h =>
  decode_scalar_of 2 11 (sd ++ imm) 0 0 _ (by
    simp [scalarImmediate?, scalarOp?, scalarWord_low, scalarWord_low22, scalarWord_get, layout_6_16]) (beq_iff_eq.mp h)

theorem sldw (sd : BitVec 6) (sa : BitVec 6) (imm : BitVec 10) : Statement (.sldw sd sa imm) := fun _ h =>
  decode_scalar_of 3 0 (sd ++ sa ++ imm) 0 0 _ (by
    simp [scalarMemory?, scalarOp?, scalarWord_low, scalarWord_low22, scalarWord_get, layout_6_6_10]) (beq_iff_eq.mp h)

theorem sldd (sd : BitVec 6) (sa : BitVec 6) (imm : BitVec 10) : Statement (.sldd sd sa imm) := fun _ h =>
  decode_scalar_of 3 1 (sd ++ sa ++ imm) 0 0 _ (by
    simp [scalarMemory?, scalarOp?, scalarWord_low, scalarWord_low22, scalarWord_get, layout_6_6_10]) (beq_iff_eq.mp h)

theorem sstw (sd : BitVec 6) (sa : BitVec 6) (imm : BitVec 10) : Statement (.sstw sd sa imm) := fun _ h =>
  decode_scalar_of 3 2 (sd ++ sa ++ imm) 0 0 _ (by
    simp [scalarMemory?, scalarOp?, scalarWord_low, scalarWord_low22, scalarWord_get, layout_6_6_10]) (beq_iff_eq.mp h)

theorem sstd (sd : BitVec 6) (sa : BitVec 6) (imm : BitVec 10) : Statement (.sstd sd sa imm) := fun _ h =>
  decode_scalar_of 3 3 (sd ++ sa ++ imm) 0 0 _ (by
    simp [scalarMemory?, scalarOp?, scalarWord_low, scalarWord_low22, scalarWord_get, layout_6_6_10]) (beq_iff_eq.mp h)

theorem sldk (k : BitVec 3) (sa : BitVec 6) (imm : BitVec 10) : Statement (.sldk k sa imm) := fun _ h =>
  decode_scalar_of 3 4 ((0 : BitVec 3) ++ k ++ sa ++ imm) 0 0 _ (by
    simp [scalarMemory?, scalarOp?, scalarWord_low, scalarWord_low22, scalarWord_get, layout_3_3_6_10]) (beq_iff_eq.mp h)

theorem sldp (sd : BitVec 6) (sa : BitVec 6) (imm : BitVec 10) : Statement (.sldp sd sa imm) := fun _ h =>
  decode_scalar_of 3 5 (sd ++ sa ++ imm) 0 0 _ (by
    simp [scalarMemory?, scalarOp?, scalarWord_low, scalarWord_low22, scalarWord_get, layout_6_6_10]) (beq_iff_eq.mp h)

theorem sstp (sd : BitVec 6) (sa : BitVec 6) (imm : BitVec 10) : Statement (.sstp sd sa imm) := fun _ h =>
  decode_scalar_of 3 6 (sd ++ sa ++ imm) 0 0 _ (by
    simp [scalarMemory?, scalarOp?, scalarWord_low, scalarWord_low22, scalarWord_get, layout_6_6_10]) (beq_iff_eq.mp h)

theorem srd (sd : BitVec 6) (reg : BitVec 10) : Statement (.srd sd reg) := fun _ h =>
  decode_scalar_of 4 0 (sd ++ (0 : BitVec 6) ++ reg) 0 0 _ (by
    simp [scalarSystem?, scalarOp?, scalarWord_low, scalarWord_low22, scalarWord_get, layout_6_6_10]) (beq_iff_eq.mp h)

theorem swr (sd : BitVec 6) (reg : BitVec 10) : Statement (.swr sd reg) := fun _ h =>
  decode_scalar_of 4 1 (sd ++ (0 : BitVec 6) ++ reg) 0 0 _ (by
    simp [scalarSystem?, scalarOp?, scalarWord_low, scalarWord_low22, scalarWord_get, layout_6_6_10]) (beq_iff_eq.mp h)

theorem ssetb (sd : BitVec 6) (reg : BitVec 10) : Statement (.ssetb sd reg) := fun _ h =>
  decode_scalar_of 4 2 (sd ++ (0 : BitVec 6) ++ reg) 0 0 _ (by
    simp [scalarSystem?, scalarOp?, scalarWord_low, scalarWord_low22, scalarWord_get, layout_6_6_10]) (beq_iff_eq.mp h)

theorem sclrb (sd : BitVec 6) (reg : BitVec 10) : Statement (.sclrb sd reg) := fun _ h =>
  decode_scalar_of 4 3 (sd ++ (0 : BitVec 6) ++ reg) 0 0 _ (by
    simp [scalarSystem?, scalarOp?, scalarWord_low, scalarWord_low22, scalarWord_get, layout_6_6_10]) (beq_iff_eq.mp h)

theorem trap (code : BitVec 16) : Statement (.trap code) := fun _ h =>
  decode_scalar_of 4 4 ((0 : BitVec 6) ++ code) 0 0 _ (by
    simp [scalarSystem?, scalarOp?, scalarWord_low, scalarWord_low22, scalarWord_get, layout_6_16]) (beq_iff_eq.mp h)

theorem eret : Statement .eret := fun _ h =>
  decode_scalar_of 4 5 ((0 : BitVec 22)) 0 0 _ (by
    simp [scalarSystem?, scalarOp?, scalarWord_low, scalarWord_low22, scalarWord_get]) (beq_iff_eq.mp h)

theorem fence (pred : BitVec 6) (succ : BitVec 6) (scope : BitVec 3) : Statement (.fence pred succ scope) := fun _ h =>
  decode_scalar_of 4 6 ((0 : BitVec 6) ++ (0 : BitVec 1) ++ scope ++ succ ++ pred) 0 0 _ (by
    simp [scalarSystem?, scalarOp?, scalarWord_low, scalarWord_low22, scalarWord_get, layout_6_1_3_6_6, layout_7_3_6_6, layout_fence]) (beq_iff_eq.mp h)

theorem swait (sa : BitVec 6) (path : BitVec 2) : Statement (.swait sa path) := fun _ h =>
  decode_scalar_of 4 7 ((0 : BitVec 6) ++ sa ++ (0 : BitVec 8) ++ path) 0 0 _ (by
    simp [scalarSystem?, scalarOp?, scalarWord_low, scalarWord_low22, scalarWord_get, layout_6_6_8_2]) (beq_iff_eq.mp h)

theorem monw (sa : BitVec 6) (imm : BitVec 10) : Statement (.monw sa imm) := fun _ h =>
  decode_scalar_of 4 8 ((0 : BitVec 6) ++ sa ++ imm) 0 0 _ (by
    simp [scalarSystem?, scalarOp?, scalarWord_low, scalarWord_low22, scalarWord_get, layout_6_6_10]) (beq_iff_eq.mp h)

theorem mwaitv (sd : BitVec 6) (sa : BitVec 6) : Statement (.mwaitv sd sa) := fun _ h =>
  decode_scalar_of 4 9 (sd ++ sa ++ (0 : BitVec 10)) 0 0 _ (by
    simp [scalarSystem?, scalarOp?, scalarWord_low, scalarWord_low22, scalarWord_get, layout_6_6_10]) (beq_iff_eq.mp h)

theorem monitorWake (gang : Nat) : Statement (.monitorWake gang) := fun h => nomatch h

theorem mwaitvReread (gang : Nat) : Statement (.mwaitvReread gang) := fun h => nomatch h

theorem cmo (sa : BitVec 6) (sb : BitVec 6) (kind : BitVec 2) : Statement (.cmo sa sb kind) := fun _ h =>
  decode_scalar_of 4 10 ((0 : BitVec 6) ++ sa ++ sb ++ (0 : BitVec 2) ++ kind) 0 0 _ (by
    simp [scalarSystem?, scalarOp?, scalarWord_low, scalarWord_low22, scalarWord_get, layout_6_6_6_2_2]) (beq_iff_eq.mp h)

theorem dbgb (code : BitVec 16) : Statement (.dbgb code) := fun _ h =>
  decode_scalar_of 4 11 ((0 : BitVec 6) ++ code) 0 0 _ (by
    simp [scalarSystem?, scalarOp?, scalarWord_low, scalarWord_low22, scalarWord_get, layout_6_16]) (beq_iff_eq.mp h)

theorem srdx (sd : BitVec 6) (sa : BitVec 6) (reg : BitVec 10) : Statement (.srdx sd sa reg) := fun _ h =>
  decode_scalar_of 4 12 (sd ++ sa ++ reg) 0 0 _ (by
    simp [scalarSystem?, scalarOp?, scalarWord_low, scalarWord_low22, scalarWord_get, layout_6_6_10]) (beq_iff_eq.mp h)

theorem tcopy (sa : BitVec 6) : Statement (.tcopy sa) := fun _ h =>
  decode_scalar_of 5 0 ((0 : BitVec 6) ++ sa ++ (0 : BitVec 10)) 0 0 _ (by
    simp [scalarEngine?, scalarOp?, scalarWord_low, scalarWord_low22, scalarWord_get, layout_6_6_10]) (beq_iff_eq.mp h)

theorem tcopym (sa : BitVec 6) : Statement (.tcopym sa) := fun _ h =>
  decode_scalar_of 5 1 ((0 : BitVec 6) ++ sa ++ (0 : BitVec 10)) 0 0 _ (by
    simp [scalarEngine?, scalarOp?, scalarWord_low, scalarWord_low22, scalarWord_get, layout_6_6_10]) (beq_iff_eq.mp h)

theorem barinit (sa : BitVec 6) (sb : BitVec 6) : Statement (.barinit sa sb) := fun _ h =>
  decode_scalar_of 5 2 ((0 : BitVec 6) ++ sa ++ sb ++ (0 : BitVec 4)) 0 0 _ (by
    simp [scalarEngine?, scalarOp?, scalarWord_low, scalarWord_low22, scalarWord_get, layout_6_6_6_4]) (beq_iff_eq.mp h)

theorem bararr (sa : BitVec 6) (sb : BitVec 6) (arr : Bool) : Statement (.bararr sa sb arr) := fun _ h =>
  decode_scalar_of 5 3 ((0 : BitVec 6) ++ sa ++ sb ++ (0 : BitVec 3) ++ BitVec.ofBool arr) 0 0 _ (by
    simp [scalarEngine?, scalarOp?, scalarWord_low, scalarWord_low22, scalarWord_get, layout_6_6_6_3_1, layout_6_6_6_3_1_bit]) (beq_iff_eq.mp h)

theorem barwait (sa : BitVec 6) (sb : BitVec 6) : Statement (.barwait sa sb) := fun _ h =>
  decode_scalar_of 5 4 ((0 : BitVec 6) ++ sa ++ sb ++ (0 : BitVec 4)) 0 0 _ (by
    simp [scalarEngine?, scalarOp?, scalarWord_low, scalarWord_low22, scalarWord_get, layout_6_6_6_4]) (beq_iff_eq.mp h)

theorem mbatch (sd : BitVec 6) : Statement (.mbatch sd) := fun _ h =>
  decode_scalar_of 5 5 (sd ++ (0 : BitVec 16)) 0 0 _ (by
    simp [scalarEngine?, scalarOp?, scalarWord_low, scalarWord_low22, scalarWord_get, layout_6_16]) (beq_iff_eq.mp h)

theorem mwait (sa : BitVec 6) : Statement (.mwait sa) := fun _ h =>
  decode_scalar_of 5 6 ((0 : BitVec 6) ++ sa ++ (0 : BitVec 10)) 0 0 _ (by
    simp [scalarEngine?, scalarOp?, scalarWord_low, scalarWord_low22, scalarWord_get, layout_6_6_10]) (beq_iff_eq.mp h)

theorem genrol (sd : BitVec 6) (sa : BitVec 6) (sb : BitVec 6) : Statement (.genrol sd sa sb) := fun _ h =>
  decode_scalar_of 5 7 (sd ++ sa ++ sb ++ (0 : BitVec 4)) 0 0 _ (by
    simp [scalarEngine?, scalarOp?, scalarWord_low, scalarWord_low22, scalarWord_get, layout_6_6_6_4]) (beq_iff_eq.mp h)

theorem gleave (sa : BitVec 6) : Statement (.gleave sa) := fun _ h =>
  decode_scalar_of 5 8 ((0 : BitVec 6) ++ sa ++ (0 : BitVec 10)) 0 0 _ (by
    simp [scalarEngine?, scalarOp?, scalarWord_low, scalarWord_low22, scalarWord_get, layout_6_6_10]) (beq_iff_eq.mp h)

theorem gload (sd : BitVec 6) (sa : BitVec 6) (sb : BitVec 6) : Statement (.gload sd sa sb) := fun _ h =>
  decode_scalar_of 5 9 (sd ++ sa ++ sb ++ (0 : BitVec 4)) 0 0 _ (by
    simp [scalarEngine?, scalarOp?, scalarWord_low, scalarWord_low22, scalarWord_get, layout_6_6_6_4]) (beq_iff_eq.mp h)

theorem gput (sd : BitVec 6) (sa : BitVec 6) (sb : BitVec 6) : Statement (.gput sd sa sb) := fun _ h =>
  decode_scalar_of 5 10 (sd ++ sa ++ sb ++ (0 : BitVec 4)) 0 0 _ (by
    simp [scalarEngine?, scalarOp?, scalarWord_low, scalarWord_low22, scalarWord_get, layout_6_6_6_4]) (beq_iff_eq.mp h)

theorem solicit (sd : BitVec 6) (sa : BitVec 6) (sb : BitVec 6) : Statement (.solicit sd sa sb) := fun _ h =>
  decode_scalar_of 5 11 (sd ++ sa ++ sb ++ (0 : BitVec 4)) 0 0 _ (by
    simp [scalarEngine?, scalarOp?, scalarWord_low, scalarWord_low22, scalarWord_get, layout_6_6_6_4]) (beq_iff_eq.mp h)

theorem cwait (sd : BitVec 6) (sa : BitVec 6) : Statement (.cwait sd sa) := fun _ h =>
  decode_scalar_of 5 12 (sd ++ sa ++ (0 : BitVec 10)) 0 0 _ (by
    simp [scalarEngine?, scalarOp?, scalarWord_low, scalarWord_low22, scalarWord_get, layout_6_6_10]) (beq_iff_eq.mp h)

theorem respond (sa : BitVec 6) (sb : BitVec 6) : Statement (.respond sa sb) := fun _ h =>
  decode_scalar_of 5 13 ((0 : BitVec 6) ++ sa ++ sb ++ (0 : BitVec 4)) 0 0 _ (by
    simp [scalarEngine?, scalarOp?, scalarWord_low, scalarWord_low22, scalarWord_get, layout_6_6_6_4]) (beq_iff_eq.mp h)

theorem diradd (sd : BitVec 6) (sa : BitVec 6) (sb : BitVec 6) : Statement (.diradd sd sa sb) := fun _ h =>
  decode_scalar_of 5 14 (sd ++ sa ++ sb ++ (0 : BitVec 4)) 0 0 _ (by
    simp [scalarEngine?, scalarOp?, scalarWord_low, scalarWord_low22, scalarWord_get, layout_6_6_6_4]) (beq_iff_eq.mp h)

theorem dirdel (sd : BitVec 6) (sa : BitVec 6) : Statement (.dirdel sd sa) := fun _ h =>
  decode_scalar_of 5 15 (sd ++ sa ++ (0 : BitVec 10)) 0 0 _ (by
    simp [scalarEngine?, scalarOp?, scalarWord_low, scalarWord_low22, scalarWord_get, layout_6_6_10]) (beq_iff_eq.mp h)

theorem dirmov (sd : BitVec 6) (sa : BitVec 6) (sb : BitVec 6) : Statement (.dirmov sd sa sb) := fun _ h =>
  decode_scalar_of 5 16 (sd ++ sa ++ sb ++ (0 : BitVec 4)) 0 0 _ (by
    simp [scalarEngine?, scalarOp?, scalarWord_low, scalarWord_low22, scalarWord_get, layout_6_6_6_4]) (beq_iff_eq.mp h)

theorem dirDeparture (handoff : Nat) : Statement (.dirDeparture handoff) := fun h => nomatch h

theorem dirInstall (handoff : Nat) : Statement (.dirInstall handoff) := fun h => nomatch h

theorem departureAtSource (handoff : Nat) : Statement (.departureAtSource handoff) := fun h => nomatch h

theorem iadd (f : Lane) : Statement (.iadd f) := fun _ h =>
  decode_lane_of 0 0 .iadd _ f (by decide) (by decide) rfl rfl (beq_iff_eq.mp h)

theorem isub (f : Lane) : Statement (.isub f) := fun _ h =>
  decode_lane_of 0 1 .isub _ f (by decide) (by decide) rfl rfl (beq_iff_eq.mp h)

theorem imul (f : Lane) : Statement (.imul f) := fun _ h =>
  decode_lane_of 0 2 .imul _ f (by decide) (by decide) rfl rfl (beq_iff_eq.mp h)

theorem imulh (f : Lane) : Statement (.imulh f) := fun _ h =>
  decode_lane_of 0 3 .imulh _ f (by decide) (by decide) rfl rfl (beq_iff_eq.mp h)

theorem imad (f : Lane) : Statement (.imad f) := fun _ h =>
  decode_lane_of 0 4 .imad _ f (by decide) (by decide) rfl rfl (beq_iff_eq.mp h)

theorem iadd3 (f : Lane) : Statement (.iadd3 f) := fun _ h =>
  decode_lane_of 0 5 .iadd3 _ f (by decide) (by decide) rfl rfl (beq_iff_eq.mp h)

theorem iabs (f : Lane) : Statement (.iabs f) := fun _ h =>
  decode_lane_of 0 6 .iabs _ f (by decide) (by decide) rfl rfl (beq_iff_eq.mp h)

theorem ineg (f : Lane) : Statement (.ineg f) := fun _ h =>
  decode_lane_of 0 7 .ineg _ f (by decide) (by decide) rfl rfl (beq_iff_eq.mp h)

theorem imin (f : Lane) : Statement (.imin f) := fun _ h =>
  decode_lane_of 0 8 .imin _ f (by decide) (by decide) rfl rfl (beq_iff_eq.mp h)

theorem imax (f : Lane) : Statement (.imax f) := fun _ h =>
  decode_lane_of 0 9 .imax _ f (by decide) (by decide) rfl rfl (beq_iff_eq.mp h)

theorem iand (f : Lane) : Statement (.iand f) := fun _ h =>
  decode_lane_of 0 10 .iand _ f (by decide) (by decide) rfl rfl (beq_iff_eq.mp h)

theorem ior (f : Lane) : Statement (.ior f) := fun _ h =>
  decode_lane_of 0 11 .ior _ f (by decide) (by decide) rfl rfl (beq_iff_eq.mp h)

theorem ixor (f : Lane) : Statement (.ixor f) := fun _ h =>
  decode_lane_of 0 12 .ixor _ f (by decide) (by decide) rfl rfl (beq_iff_eq.mp h)

theorem inot (f : Lane) : Statement (.inot f) := fun _ h =>
  decode_lane_of 0 13 .inot _ f (by decide) (by decide) rfl rfl (beq_iff_eq.mp h)

theorem tern (f : Lane) : Statement (.tern f) := fun _ h =>
  decode_lane_of 0 14 .tern _ f (by decide) (by decide) rfl rfl (beq_iff_eq.mp h)

theorem ishl (f : Lane) : Statement (.ishl f) := fun _ h =>
  decode_lane_of 0 15 .ishl _ f (by decide) (by decide) rfl rfl (beq_iff_eq.mp h)

theorem ishr (f : Lane) : Statement (.ishr f) := fun _ h =>
  decode_lane_of 0 16 .ishr _ f (by decide) (by decide) rfl rfl (beq_iff_eq.mp h)

theorem isra (f : Lane) : Statement (.isra f) := fun _ h =>
  decode_lane_of 0 17 .isra _ f (by decide) (by decide) rfl rfl (beq_iff_eq.mp h)

theorem shf (f : Lane) : Statement (.shf f) := fun _ h =>
  decode_lane_of 0 18 .shf _ f (by decide) (by decide) rfl rfl (beq_iff_eq.mp h)

theorem popc (f : Lane) : Statement (.popc f) := fun _ h =>
  decode_lane_of 0 19 .popc _ f (by decide) (by decide) rfl rfl (beq_iff_eq.mp h)

theorem clz (f : Lane) : Statement (.clz f) := fun _ h =>
  decode_lane_of 0 20 .clz _ f (by decide) (by decide) rfl rfl (beq_iff_eq.mp h)

theorem brev (f : Lane) : Statement (.brev f) := fun _ h =>
  decode_lane_of 0 21 .brev _ f (by decide) (by decide) rfl rfl (beq_iff_eq.mp h)

theorem bfe (f : Lane) : Statement (.bfe f) := fun _ h =>
  decode_lane_of 0 22 .bfe _ f (by decide) (by decide) rfl rfl (beq_iff_eq.mp h)

theorem bfi (f : Lane) : Statement (.bfi f) := fun _ h =>
  decode_lane_of 0 23 .bfi _ f (by decide) (by decide) rfl rfl (beq_iff_eq.mp h)

theorem prmt (f : Lane) : Statement (.prmt f) := fun _ h =>
  decode_lane_of 0 24 .prmt _ f (by decide) (by decide) rfl rfl (beq_iff_eq.mp h)

theorem icmp (f : Lane) : Statement (.icmp f) := fun _ h =>
  decode_lane_of 1 0 .icmp _ f (by decide) (by decide) rfl rfl (beq_iff_eq.mp h)

theorem fcmp (f : Lane) : Statement (.fcmp f) := fun _ h =>
  decode_lane_of 1 1 .fcmp _ f (by decide) (by decide) rfl rfl (beq_iff_eq.mp h)

theorem klop (f : Lane) : Statement (.klop f) := fun _ h =>
  decode_lane_of 1 2 .klop _ f (by decide) (by decide) rfl rfl (beq_iff_eq.mp h)

theorem kmov (f : Lane) : Statement (.kmov f) := fun _ h =>
  decode_lane_of 1 3 .kmov _ f (by decide) (by decide) rfl rfl (beq_iff_eq.mp h)

theorem ktov (f : Lane) : Statement (.ktov f) := fun _ h =>
  decode_lane_of 1 4 .ktov _ f (by decide) (by decide) rfl rfl (beq_iff_eq.mp h)

theorem sel (f : Lane) : Statement (.sel f) := fun _ h =>
  decode_lane_of 1 5 .sel _ f (by decide) (by decide) rfl rfl (beq_iff_eq.mp h)

theorem mov (f : Lane) : Statement (.mov f) := fun _ h =>
  decode_lane_of 1 6 .mov _ f (by decide) (by decide) rfl rfl (beq_iff_eq.mp h)

theorem movi (f : Lane) : Statement (.movi f) := fun _ h =>
  decode_lane_of 1 7 .movi _ f (by decide) (by decide) rfl rfl (beq_iff_eq.mp h)

theorem fadd (f : Lane) : Statement (.fadd f) := fun _ h =>
  decode_lane_of 2 0 .fadd _ f (by decide) (by decide) rfl rfl (beq_iff_eq.mp h)

theorem fsub (f : Lane) : Statement (.fsub f) := fun _ h =>
  decode_lane_of 2 1 .fsub _ f (by decide) (by decide) rfl rfl (beq_iff_eq.mp h)

theorem fmul (f : Lane) : Statement (.fmul f) := fun _ h =>
  decode_lane_of 2 2 .fmul _ f (by decide) (by decide) rfl rfl (beq_iff_eq.mp h)

theorem ffma (f : Lane) : Statement (.ffma f) := fun _ h =>
  decode_lane_of 2 3 .ffma _ f (by decide) (by decide) rfl rfl (beq_iff_eq.mp h)

theorem fmin (f : Lane) : Statement (.fmin f) := fun _ h =>
  decode_lane_of 2 4 .fmin _ f (by decide) (by decide) rfl rfl (beq_iff_eq.mp h)

theorem fmax (f : Lane) : Statement (.fmax f) := fun _ h =>
  decode_lane_of 2 5 .fmax _ f (by decide) (by decide) rfl rfl (beq_iff_eq.mp h)

theorem fabs (f : Lane) : Statement (.fabs f) := fun _ h =>
  decode_lane_of 2 6 .fabs _ f (by decide) (by decide) rfl rfl (beq_iff_eq.mp h)

theorem fneg (f : Lane) : Statement (.fneg f) := fun _ h =>
  decode_lane_of 2 7 .fneg _ f (by decide) (by decide) rfl rfl (beq_iff_eq.mp h)

theorem frcp (f : Lane) : Statement (.frcp f) := fun _ h =>
  decode_lane_of 2 8 .frcp _ f (by decide) (by decide) rfl rfl (beq_iff_eq.mp h)

theorem frsq (f : Lane) : Statement (.frsq f) := fun _ h =>
  decode_lane_of 2 9 .frsq _ f (by decide) (by decide) rfl rfl (beq_iff_eq.mp h)

theorem fsqrt (f : Lane) : Statement (.fsqrt f) := fun _ h =>
  decode_lane_of 2 10 .fsqrt _ f (by decide) (by decide) rfl rfl (beq_iff_eq.mp h)

theorem fexp2 (f : Lane) : Statement (.fexp2 f) := fun _ h =>
  decode_lane_of 2 11 .fexp2 _ f (by decide) (by decide) rfl rfl (beq_iff_eq.mp h)

theorem flog2 (f : Lane) : Statement (.flog2 f) := fun _ h =>
  decode_lane_of 2 12 .flog2 _ f (by decide) (by decide) rfl rfl (beq_iff_eq.mp h)

theorem fsin (f : Lane) : Statement (.fsin f) := fun _ h =>
  decode_lane_of 2 13 .fsin _ f (by decide) (by decide) rfl rfl (beq_iff_eq.mp h)

theorem fcos (f : Lane) : Statement (.fcos f) := fun _ h =>
  decode_lane_of 2 14 .fcos _ f (by decide) (by decide) rfl rfl (beq_iff_eq.mp h)

theorem ftanh (f : Lane) : Statement (.ftanh f) := fun _ h =>
  decode_lane_of 2 15 .ftanh _ f (by decide) (by decide) rfl rfl (beq_iff_eq.mp h)

theorem fdiv (f : Lane) : Statement (.fdiv f) := fun _ h =>
  decode_lane_of 2 16 .fdiv _ f (by decide) (by decide) rfl rfl (beq_iff_eq.mp h)

theorem frnd (f : Lane) : Statement (.frnd f) := fun _ h =>
  decode_lane_of 2 17 .frnd _ f (by decide) (by decide) rfl rfl (beq_iff_eq.mp h)

theorem fclass (f : Lane) : Statement (.fclass f) := fun _ h =>
  decode_lane_of 2 18 .fclass _ f (by decide) (by decide) rfl rfl (beq_iff_eq.mp h)

theorem cvt (f : Lane) : Statement (.cvt f) := fun _ h =>
  decode_lane_of 3 0 .cvt _ f (by decide) (by decide) rfl rfl (beq_iff_eq.mp h)

theorem cvtp (f : Lane) : Statement (.cvtp f) := fun _ h =>
  decode_lane_of 3 1 .cvtp _ f (by decide) (by decide) rfl rfl (beq_iff_eq.mp h)

theorem cvtu (f : Lane) : Statement (.cvtu f) := fun _ h =>
  decode_lane_of 3 2 .cvtu _ f (by decide) (by decide) rfl rfl (beq_iff_eq.mp h)

theorem qdec (f : Lane) : Statement (.qdec f) := fun _ h =>
  decode_lane_of 3 3 .qdec _ f (by decide) (by decide) rfl rfl (beq_iff_eq.mp h)

theorem qenc (f : Lane) : Statement (.qenc f) := fun _ h =>
  decode_lane_of 3 4 .qenc _ f (by decide) (by decide) rfl rfl (beq_iff_eq.mp h)

theorem scle (f : Lane) : Statement (.scle f) := fun _ h =>
  decode_lane_of 3 5 .scle _ f (by decide) (by decide) rfl rfl (beq_iff_eq.mp h)

theorem shfl (f : Lane) : Statement (.shfl f) := fun _ h =>
  decode_lane_of 4 0 .shfl _ f (by decide) (by decide) rfl rfl (beq_iff_eq.mp h)

theorem qxch (f : Lane) : Statement (.qxch f) := fun _ h =>
  decode_lane_of 4 1 .qxch _ f (by decide) (by decide) rfl rfl (beq_iff_eq.mp h)

theorem vote (f : Lane) : Statement (.vote f) := fun _ h =>
  decode_lane_of 4 2 .vote _ f (by decide) (by decide) rfl rfl (beq_iff_eq.mp h)

theorem matchLanes (f : Lane) : Statement (.matchLanes f) := fun _ h =>
  decode_lane_of 4 3 .matchLanes _ f (by decide) (by decide) rfl rfl (beq_iff_eq.mp h)

theorem redux (f : Lane) : Statement (.redux f) := fun _ h =>
  decode_lane_of 4 4 .redux _ f (by decide) (by decide) rfl rfl (beq_iff_eq.mp h)

theorem scan (f : Lane) : Statement (.scan f) := fun _ h =>
  decode_lane_of 4 5 .scan _ f (by decide) (by decide) rfl rfl (beq_iff_eq.mp h)

theorem ltos (f : Lane) : Statement (.ltos f) := fun _ h =>
  decode_lane_of 4 6 .ltos _ f (by decide) (by decide) rfl rfl (beq_iff_eq.mp h)

theorem ld (f : Lane) : Statement (.ld f) := fun _ h =>
  decode_lane_of 5 0 .ld _ f (by decide) (by decide) rfl rfl (beq_iff_eq.mp h)

theorem st (f : Lane) : Statement (.st f) := fun _ h =>
  decode_lane_of 5 1 .st _ f (by decide) (by decide) rfl rfl (beq_iff_eq.mp h)

theorem atom (f : Lane) : Statement (.atom f) := fun _ h =>
  decode_lane_of 5 2 .atom _ f (by decide) (by decide) rfl rfl (beq_iff_eq.mp h)

theorem red (f : Lane) : Statement (.red f) := fun _ h =>
  decode_lane_of 5 3 .red _ f (by decide) (by decide) rfl rfl (beq_iff_eq.mp h)

theorem cas (f : Lane) : Statement (.cas f) := fun _ h =>
  decode_lane_of 5 4 .cas _ f (by decide) (by decide) rfl rfl (beq_iff_eq.mp h)

theorem pref (f : Lane) : Statement (.pref f) := fun _ h =>
  decode_lane_of 5 5 .pref _ f (by decide) (by decide) rfl rfl (beq_iff_eq.mp h)

theorem brl (f : Lane) : Statement (.brl f) := fun _ h =>
  decode_lane_of 6 0 .brl _ f (by decide) (by decide) rfl rfl (beq_iff_eq.mp h)

theorem brxl (f : Lane) : Statement (.brxl f) := fun _ h =>
  decode_lane_of 6 1 .brxl _ f (by decide) (by decide) rfl rfl (beq_iff_eq.mp h)

theorem launch (f : Lane) : Statement (.launch f) := fun _ h =>
  decode_lane_of 6 2 .launch _ f (by decide) (by decide) rfl rfl (beq_iff_eq.mp h)

theorem launchEnqueue : Statement .launchEnqueue := fun h => nomatch h

theorem mma (f : Lane) : Statement (.mma f) := fun _ h =>
  decode_lane_of 7 0 .mma _ f (by decide) (by decide) rfl rfl (beq_iff_eq.mp h)

theorem mmat (f : Lane) : Statement (.mmat f) := fun _ h =>
  decode_lane_of 7 1 .mmat _ f (by decide) (by decide) rfl rfl (beq_iff_eq.mp h)

theorem mmaz (f : Lane) : Statement (.mmaz f) := fun _ h =>
  decode_lane_of 7 2 .mmaz _ f (by decide) (by decide) rfl rfl (beq_iff_eq.mp h)

theorem mzero (f : Lane) : Statement (.mzero f) := fun _ h =>
  decode_lane_of 7 3 .mzero _ f (by decide) (by decide) rfl rfl (beq_iff_eq.mp h)

theorem mld (f : Lane) : Statement (.mld f) := fun _ h =>
  decode_lane_of 7 4 .mld _ f (by decide) (by decide) rfl rfl (beq_iff_eq.mp h)

theorem mst (f : Lane) : Statement (.mst f) := fun _ h =>
  decode_lane_of 7 5 .mst _ f (by decide) (by decide) rfl rfl (beq_iff_eq.mp h)

theorem mout (f : Lane) : Statement (.mout f) := fun _ h =>
  decode_lane_of 7 6 .mout _ f (by decide) (by decide) rfl rfl (beq_iff_eq.mp h)

theorem matrixExecute (core : Nat) : Statement (.matrixExecute core) := fun h => nomatch h

theorem emptyTurn : Statement .emptyTurn := fun h => nomatch h

theorem instructionFetch (req : Nat) : Statement (.instructionFetch req) := fun h => nomatch h

theorem translationWalk (req : Nat) : Statement (.translationWalk req) := fun h => nomatch h

theorem parkRecordWrite (die : Nat) (ring : Nat) : Statement (.parkRecordWrite die ring) := fun h => nomatch h

theorem memRequestAtHome (req : Nat) : Statement (.memRequestAtHome req) := fun h => nomatch h

theorem accessComplete (access : Nat) : Statement (.accessComplete access) := fun h => nomatch h

theorem lateCompletionDelivery (access : Nat) : Statement (.lateCompletionDelivery access) := fun h => nomatch h

theorem controllerService (stack : Nat) (channel : Nat) : Statement (.controllerService stack channel) := fun h => nomatch h

theorem basinWindowEnd (stack : Nat) (bank : Nat) : Statement (.basinWindowEnd stack bank) := fun h => nomatch h

theorem spillFetch (die : Nat) (slice : Nat) : Statement (.spillFetch die slice) := fun h => nomatch h

theorem portReplay (req : Nat) : Statement (.portReplay req) := fun h => nomatch h

theorem copyComplete (cmd : Nat) : Statement (.copyComplete cmd) := fun h => nomatch h

theorem groupTimerExpiry (sector : Nat) (group : Nat) : Statement (.groupTimerExpiry sector group) := fun h => nomatch h

theorem groupFillComplete (cmd : Nat) : Statement (.groupFillComplete cmd) := fun h => nomatch h

theorem gputDelivery (cmd : Nat) (receiver : Nat) : Statement (.gputDelivery cmd receiver) := fun h => nomatch h

theorem gputAck (cmd : Nat) (receiver : Nat) : Statement (.gputAck cmd receiver) := fun h => nomatch h

theorem solicitAtRoot : Statement .solicitAtRoot := fun h => nomatch h

theorem coreReport (census : Nat) (core : Nat) : Statement (.coreReport census core) := fun h => nomatch h

theorem responderStart (core : Nat) : Statement (.responderStart core) := fun h => nomatch h

theorem responseCombine (census : Nat) (index : Nat) : Statement (.responseCombine census index) := fun h => nomatch h

theorem censusComplete (census : Nat) : Statement (.censusComplete census) := fun h => nomatch h

theorem censusTimeout (census : Nat) : Statement (.censusTimeout census) := fun h => nomatch h

theorem launchRecordTake (queue : Nat) : Statement (.launchRecordTake queue) := fun h => nomatch h

theorem placeUnit : Statement .placeUnit := fun h => nomatch h

theorem yieldDeadline : Statement .yieldDeadline := fun h => nomatch h

theorem parkthCheck : Statement .parkthCheck := fun h => nomatch h

theorem saveImageWrite (ctx : Nat) : Statement (.saveImageWrite ctx) := fun h => nomatch h

theorem contextRestore (ctx : Nat) : Statement (.contextRestore ctx) := fun h => nomatch h

theorem blockRetire (block : Nat) : Statement (.blockRetire block) := fun h => nomatch h

theorem launchRetire (launch : Nat) : Statement (.launchRetire launch) := fun h => nomatch h

theorem lqptrTailWrite (queue : Nat) (tail : W32) : Statement (.lqptrTailWrite queue tail) := fun h => nomatch h

theorem graphNodeStart (launch : Nat) (node : Nat) : Statement (.graphNodeStart launch node) := fun h => nomatch h

theorem graphNodeFinish (launch : Nat) (node : Nat) : Statement (.graphNodeFinish launch node) := fun h => nomatch h

theorem slwb (die : Nat) : Statement (.slwb die) := fun h => nomatch h

theorem dsplit (die : Nat) : Statement (.dsplit die) := fun h => nomatch h

theorem dsplitComplete (die : Nat) : Statement (.dsplitComplete die) := fun h => nomatch h

theorem firstTouchRelease (die : Nat) (region : Nat) : Statement (.firstTouchRelease die region) := fun h => nomatch h

theorem plainCarve (die : Nat) (value : W64) : Statement (.plainCarve die value) := fun h => nomatch h

theorem migrationDone (tierOk : Bool) : Statement (.migrationDone tierOk) := fun h => nomatch h

theorem dcReleaseAck (base : Nat) : Statement (.dcReleaseAck base) := fun h => nomatch h

theorem tierReseal (granule : Nat) : Statement (.tierReseal granule) := fun h => nomatch h

theorem linkRetryExhausted (link : BitVec 5) : Statement (.linkRetryExhausted link) := fun h => nomatch h

theorem sleepPrep (host : BitVec 5) : Statement (.sleepPrep host) := fun h => nomatch h

theorem identity (seq : PathSeq) (ack : W32) : Statement (.identity seq ack) := fun h => nomatch h

theorem power (seq : PathSeq) (ack : W32) (target : PowerState) : Statement (.power seq ack target) := fun h => nomatch h

theorem errcount (seq : PathSeq) (ack : W32) (clear : Byte) (unit : W32) : Statement (.errcount seq ack clear unit) := fun h => nomatch h

theorem resync (seq : PathSeq) (ack : W32) : Statement (.resync seq ack) := fun h => nomatch h

theorem txDescriptor (port : Nat) (queue : Nat) : Statement (.txDescriptor port queue) := fun h => nomatch h

theorem storageRequest (port : Nat) (queue : Nat) : Statement (.storageRequest port queue) := fun h => nomatch h

theorem debugHalt (core : Nat) : Statement (.debugHalt core) := fun h => nomatch h

theorem haltComplete (block : Nat) : Statement (.haltComplete block) := fun h => nomatch h

theorem debugResume (core : Nat) : Statement (.debugResume core) := fun h => nomatch h

theorem debugStep (core : Nat) : Statement (.debugStep core) := fun h => nomatch h

theorem programBufferGo (core : Nat) : Statement (.programBufferGo core) := fun h => nomatch h

theorem debugSample (core : Nat) : Statement (.debugSample core) := fun h => nomatch h

theorem handoffFailure (handoff : Nat) : Statement (.handoffFailure handoff) := fun h => nomatch h

theorem lowerTierService (req : Nat) (a : TierAnswer) : Statement (.lowerTierService req a) := fun h => nomatch h

theorem dcReleaseRequest (base : Nat) (size : Nat) : Statement (.dcReleaseRequest base size) := fun h => nomatch h

theorem dcForcedRelease (base : Nat) (size : Nat) : Statement (.dcForcedRelease base size) := fun h => nomatch h

theorem flitReceive (link : BitVec 5) (flit : FlitIn) : Statement (.flitReceive link flit) := fun h => nomatch h

theorem flitResend (link : BitVec 5) : Statement (.flitResend link) := fun h => nomatch h

theorem linkRetrain (link : BitVec 5) : Statement (.linkRetrain link) := fun h => nomatch h

theorem worldCreate (host : BitVec 5) (keyHash : BitVec 512) : Statement (.worldCreate host keyHash) := fun h => nomatch h

theorem worldDestroy (host : BitVec 5) (world : BitVec 16) : Statement (.worldDestroy host world) := fun h => nomatch h

theorem ctxBind (host : BitVec 5) (ctx : BitVec 16) (root : W64) (debug : Bool) (parkth : Byte) : Statement (.ctxBind host ctx root debug parkth) := fun h => nomatch h

theorem frameAssign (host : BitVec 5) (world : BitVec 16) (frame : Nat) (count : Nat) : Statement (.frameAssign host world frame count) := fun h => nomatch h

theorem frameReclaim (host : BitVec 5) (world : BitVec 16) (frame : Nat) (count : Nat) : Statement (.frameReclaim host world frame count) := fun h => nomatch h

theorem keyImport (host : BitVec 5) (wrap : W32) (usage : KeyUsage) (blob : List Byte) : Statement (.keyImport host wrap usage blob) := fun h => nomatch h

theorem keyDestroy (host : BitVec 5) (handle : W32) : Statement (.keyDestroy host handle) := fun h => nomatch h

theorem saBind (host : BitVec 5) (handle : W32) (target : BindTarget) : Statement (.saBind host handle target) := fun h => nomatch h

theorem worldReport (host : BitVec 5) : Statement (.worldReport host) := fun h => nomatch h

theorem wmrExtend (host : BitVec 5) (mr : BitVec 4) (digest : BitVec 512) : Statement (.wmrExtend host mr digest) := fun h => nomatch h

theorem migrateOut (host : BitVec 5) (policy : List Byte) (tenantKey : List Byte) (destRegs : List (BitVec 512)) (ready : Bool) (session : BitVec 512) : Statement (.migrateOut host policy tenantKey destRegs ready session) := fun h => nomatch h

theorem migrateIn (world : WorldAsk) (image : MigratedWorld) (session : BitVec 512) : Statement (.migrateIn world image session) := fun h => nomatch h

theorem getVersion : Statement .getVersion := fun h => nomatch h

theorem getCapabilities : Statement .getCapabilities := fun h => nomatch h

theorem getDigests : Statement .getDigests := fun h => nomatch h

theorem negotiateAlgorithms (request : List Byte) : Statement (.negotiateAlgorithms request) := fun h => nomatch h

theorem getCertificate (request : List Byte) : Statement (.getCertificate request) := fun h => nomatch h

theorem challenge (request : List Byte) : Statement (.challenge request) := fun h => nomatch h

theorem getMeasurements (block : Nat) : Statement (.getMeasurements block) := fun h => nomatch h

theorem keyExchange (peer : SpdmPeer) (request : List Byte) : Statement (.keyExchange peer request) := fun h => nomatch h

theorem finish (session : Nat) (request : List Byte) : Statement (.finish session request) := fun h => nomatch h

theorem keyUpdate (session : Nat) : Statement (.keyUpdate session) := fun h => nomatch h

theorem endSession (session : Nat) : Statement (.endSession session) := fun h => nomatch h

theorem deviceReset (images : BootImages) : Statement (.deviceReset images) := fun h => nomatch h

theorem correctedError (unit : W32) : Statement (.correctedError unit) := fun h => nomatch h

theorem uncorrectedDataError (unit : W32) (pa : Nat) : Statement (.uncorrectedDataError unit pa) := fun h => nomatch h

theorem uncorrectedControlError (unit : W32) (cause : Byte) (ctx : W32) : Statement (.uncorrectedControlError unit cause ctx) := fun h => nomatch h

theorem rxFrame (port : Nat) (frame : FrameIn) : Statement (.rxFrame port frame) := fun h => nomatch h

theorem driveCompletion (tag : Nat) (status : BitVec 16) (cdw0 : W32) (data : List Byte) : Statement (.driveCompletion tag status cdw0 data) := fun h => nomatch h

theorem registerWrite (reg : RegAsk) (value : W64) : Statement (.registerWrite reg value) := fun h => nomatch h

theorem commit (what : CommitStep) (world : BitVec 16) (session : BitVec 512) : Statement (.commit what world session) := fun h => nomatch h

theorem powerLoss (retention : Bool) : Statement (.powerLoss retention) := fun h => nomatch h

theorem confidentialVmEntry (host : BitVec 5) (world : BitVec 16) : Statement (.confidentialVmEntry host world) := fun h => nomatch h

theorem confidentialVmExit (host : BitVec 5) : Statement (.confidentialVmExit host) := fun h => nomatch h

theorem migrationMove : Statement .migrationMove := fun h => nomatch h

theorem parkRelease : Statement .parkRelease := fun h => nomatch h

theorem parkCancel : Statement .parkCancel := fun h => nomatch h

theorem invalidation : Statement .invalidation := fun h => nomatch h

theorem invalidationDone : Statement .invalidationDone := fun h => nomatch h

theorem heartbeat : Statement .heartbeat := fun h => nomatch h

theorem dIdleEntry : Statement .dIdleEntry := fun h => nomatch h

end Sys2Proof.Laws.Encoding
end

