-- ==== Sys2Proof/Laws/Unit.lean ====
section
/-! SUPPORT. Laws of the operations that the units share: registers and their fields, writes of agents without a leaf, event
records, and the operations that write memory. -/

namespace Sys2Proof.Machine

/-- What a register table holds after one register is set. -/
theorem sysGet_sysSet (l : List (SysReg × W64)) (r q : SysReg) (v : W64) :
    sysGet (sysSet l r v) q = if q = r then v else sysGet l q := by
  induction l with
  | nil =>
    by_cases h : q = r
    · subst h; simp [sysSet, sysGet]
    · simp [sysSet, sysGet, h, Ne.symm h]
  | cons e t ih =>
    obtain ⟨p, w⟩ := e
    simp only [sysSet]
    split
    · next hp =>
      subst hp
      by_cases h : q = p
      · simp [sysGet, h]
      · simp [sysGet, h, Ne.symm h]
    · next hp =>
      simp only [sysGet]
      split
      · next h => subst h; simp [hp]
      · exact ih

/-- A register that was set holds its value, and every other register is as before. -/
theorem reg_setReg (s : State) (r q : SysReg) (v : W64) : reg (setReg s r v) q = if q = r then v else reg s q :=
  sysGet_sysSet s.sys r q v

/-- A bit of a field mask. -/
theorem fieldMask_bit (n lo j : Nat) (hj : j < 64) :
    (BitVec.ofNat 64 ((2 ^ n - 1) * 2 ^ lo)).getLsbD j = (decide (lo ≤ j) && decide (j < lo + n)) := by
  rw [BitVec.getLsbD_ofNat, Nat.testBit_mul_two_pow, Nat.testBit_two_pow_sub_one]
  by_cases h : lo ≤ j
  · have : (j - lo < n) = (j < lo + n) := propext (by omega)
    simp [h, hj, this]
  · simp [h, hj]

/-- A bit of a word with a field replaced. -/
theorem wput_bit (w : W64) (hi lo x j : Nat) (hj : j < 64) :
    (wput w hi lo x).getLsbD j = if lo ≤ j ∧ j < lo + (hi + 1 - lo) then x.testBit (j - lo) else w.getLsbD j := by
  unfold wput
  simp only [BitVec.getLsbD_or, BitVec.getLsbD_and, BitVec.getLsbD_not, fieldMask_bit _ _ _ hj, BitVec.getLsbD_ofNat,
    Nat.testBit_mul_two_pow, hj, decide_true, Bool.true_and]
  by_cases h : lo ≤ j <;> by_cases h' : j < lo + (hi + 1 - lo) <;> simp [h, h']

/-- A bit of a field. -/
theorem wbits_bit (w : W64) (hi lo j : Nat) : (wbits w hi lo).testBit j = (decide (j < hi + 1 - lo) && w.getLsbD (lo + j)) := by
  unfold wbits
  rw [Nat.testBit_mod_two_pow, Nat.testBit_div_two_pow, Nat.add_comm j lo]
  rfl

/-- A field that was set reads back what fits in it. -/
theorem wbits_wput (w : W64) (hi lo x : Nat) (h : hi < 64) : wbits (wput w hi lo x) hi lo = x % 2 ^ (hi + 1 - lo) := by
  apply Nat.eq_of_testBit_eq
  intro j
  rw [wbits_bit, Nat.testBit_mod_two_pow]
  by_cases hj : j < hi + 1 - lo
  · rw [wput_bit _ _ _ _ _ (by omega)]
    simp [hj]
  · simp [hj]

/-- A field beside the one that was set is as before. -/
theorem wbits_wput_other (w : W64) (hi lo hi' lo' x : Nat) (h' : hi' < 64) (d : hi' < lo ∨ hi < lo') :
    wbits (wput w hi lo x) hi' lo' = wbits w hi' lo' := by
  apply Nat.eq_of_testBit_eq
  intro j
  rw [wbits_bit, wbits_bit]
  by_cases hj : j < hi' + 1 - lo'
  · rw [wput_bit _ _ _ _ _ (by omega)]
    rw [if_neg (by omega)]
  · simp [hj]

/-- A field that a unit set reads back what fits in it. -/
theorem regField_setField (s : State) (r : SysReg) (hi lo x : Nat) (h : hi < 64) :
    regField (setField s r hi lo x) r hi lo = x % 2 ^ (hi + 1 - lo) := by
  unfold regField setField
  rw [reg_setReg, if_pos rfl, wbits_wput _ _ _ _ h]

/-- A field beside the one that a unit set is as before. -/
theorem regField_setField_beside (s : State) (r : SysReg) (hi lo hi' lo' x : Nat) (h' : hi' < 64)
    (d : hi' < lo ∨ hi < lo') : regField (setField s r hi lo x) r hi' lo' = regField s r hi' lo' := by
  unfold regField setField
  rw [reg_setReg, if_pos rfl, wbits_wput_other _ _ _ _ _ _ h' d]

/-- A field of another register is as before. -/
theorem regField_setField_other (s : State) (r q : SysReg) (hi lo hi' lo' x : Nat) (d : q ≠ r) :
    regField (setField s r hi lo x) q hi' lo' = regField s q hi' lo' := by
  unfold regField setField
  rw [reg_setReg, if_neg d]

/-- A saturating count of a field. -/
theorem regField_countField (s : State) (r : SysReg) (hi lo : Nat) (h : hi < 64) :
    regField (countField s r hi lo) r hi lo = min (2 ^ (hi + 1 - lo) - 1) (regField s r hi lo + 1) := by
  have hb : regField s r hi lo < 2 ^ (hi + 1 - lo) := Nat.mod_lt _ (Nat.two_pow_pos _)
  unfold countField
  split
  · next hc => rw [regField_setField _ _ _ _ _ h, Nat.mod_eq_of_lt hc]; omega
  · omega

/-- An event record is written as its ring's next record: beside that ring's sequence no register changes. -/
theorem deliverEvent_frame (s : State) (e : Event) (base size : Nat) :
    SameButWrites s { deliverEvent s e base size with sys := s.sys } ∧
    ∀ r, r ≠ .evringSeq e.ring → reg (deliverEvent s e base size) r = reg s r := by
  unfold deliverEvent advanceTail setField
  dsimp only
  generalize eventBytes s e = bs
  generalize wput _ 31 0 _ = v
  obtain ⟨m, c, u, n, g, h, ht⟩ := sameButWrites_eq (physWrite_frame s (eventSlot s e.ring base size) bs 0)
  rw [ht]
  exact ⟨rfl, fun r hr => by rw [reg_setReg, if_neg hr]; rfl⟩

/-- Raising an event takes its source's next sequence, and no other source's; the record is kept, lost, or written as its ring's next
record: beside that ring's sequence no register changes. -/
theorem raiseEvent_frame (s : State) (source : W32) (kind ring : Nat) (payload : List Byte) (world : BitVec 16) :
    SameButWrites s { raiseEvent s source kind ring payload world with sys := s.sys, events := s.events } ∧
    (∀ r, r ≠ .evringSeq ring → reg (raiseEvent s source kind ring payload world) r = reg s r) ∧
    (raiseEvent s source kind ring payload world).events.seqs =
      tabPut s.events.seqs source.toNat (tabGet s.events.seqs source.toNat 0 + 1) := by
  unfold raiseEvent
  dsimp only
  split
  · next base size _ _ =>
    generalize he : Event.mk source _ world kind ring _ payload = e
    have hr : e.ring = ring := by rw [← he]
    obtain ⟨h, hy⟩ := deliverEvent_frame _ e base size
    obtain ⟨m, c, u, n, g, r, ht⟩ := sameButWrites_eq h
    refine ⟨?_, fun r h' => hy r (hr ▸ h'), ?_⟩
    · have := congrArg (fun t : State => { t with sys := s.sys, events := s.events }) ht
      dsimp only at this
      rw [this]
      rfl
    · exact (congrArg (fun t : State => t.events.seqs) ht : _)
  · split
    · exact ⟨rfl, fun _ _ => rfl, rfl⟩
    · exact ⟨rfl, fun _ _ => rfl, rfl⟩

/-- The sequences of the sources after an event. -/
theorem raiseEvent_seqs (s : State) (source : W32) (kind ring : Nat) (payload : List Byte) (world : BitVec 16) (k : Nat) :
    tabGet (raiseEvent s source kind ring payload world).events.seqs k 0 =
      if k = source.toNat then tabGet s.events.seqs k 0 + 1 else tabGet s.events.seqs k 0 := by
  rw [(raiseEvent_frame s source kind ring payload world).2.2]
  unfold tabGet
  rw [tabFind_tabPut]
  by_cases hk : k = source.toNat <;> simp [hk]

/-- Room in the slices under a register that is no carve of the plain. -/
theorem roomFor_setReg {s : State} {k : Nat} (h : RoomFor s k) (r : SysReg) (v : W64) (d : ∀ n, r ≠ .plaincfg n) :
    RoomFor (setReg s r v) k := by
  intro n
  have e : sliceLines (setReg s r v) n = sliceLines s n := by
    unfold sliceLines regField
    rw [reg_setReg, if_neg (fun e => d _ e.symm)]
  rw [e]
  exact h n

/-- Room depends on the L2 lines and the carves alone. -/
theorem roomFor_of {s t : State} {j k : Nat} (h : RoomFor s k) (e : t.caches = s.caches) (y : t.sys = s.sys) (l : j ≤ k) :
    RoomFor t j := by
  intro n
  have hn := h n
  have q : sliceLines t n = sliceLines s n := by unfold sliceLines regField reg; rw [y]
  rw [e, q]
  omega

/-- An event record leaves memory as it is where the slices have room for it. -/
theorem deliverEvent_room {s : State} {k : Nat} {m : List Host.Cell} (h : RoomFor s (k + 64)) (hm : s.mem = m) (e : Event)
    (base size : Nat) : (deliverEvent s e base size).mem = m ∧ RoomFor (deliverEvent s e base size) k := by
  subst hm
  unfold deliverEvent advanceTail setField
  have hl : (eventBytes s e).length = 64 := by
    unfold eventBytes padTo
    rw [List.length_take, List.length_append, List.length_replicate]
    omega
  revert hl
  generalize eventBytes s e = bs
  generalize wput _ 31 0 _ = v
  intro hl
  have p := physWrite_room bs 0 (s := s) (k := k) (by rw [hl]; exact h) (eventSlot s e.ring base size)
  exact ⟨p.1, roomFor_setReg p.2 _ _ (fun n e => by cases e)⟩

/-- So does an event. -/
theorem raiseEvent_room {s : State} {k : Nat} (h : RoomFor s (k + 64)) (source : W32) (kind ring : Nat) (payload : List Byte) (world : BitVec 16) :
    (raiseEvent s source kind ring payload world).mem = s.mem ∧ RoomFor (raiseEvent s source kind ring payload world) k := by
  unfold raiseEvent
  dsimp only
  split
  · next base size _ _ =>
    generalize Event.mk source _ world kind ring _ payload = e
    refine deliverEvent_room ?_ ?_ e base size
    · exact roomFor_of h rfl rfl (Nat.le_refl _)
    · rfl
  · split
    · exact ⟨rfl, roomFor_of h rfl rfl (by omega)⟩
    · exact ⟨rfl, roomFor_of h rfl rfl (by omega)⟩

/-- A line of memory that is set keeps memory in its canonical form. -/
theorem wf_putMemLine (s : State) (pa : Nat) (x : Line) (poison : Bool) (h : memoryOk s = true) :
    memoryOk (putMemLine s pa x poison) = true := wf_memPuts _ _ h

/-- So does a frame that is copied. -/
theorem wf_copyFrame (s : State) (src dst : Nat) (h : memoryOk s = true) : memoryOk (copyFrame s src dst) = true := by
  unfold memoryOk copyFrame
  dsimp only
  generalize memBytes s.mem src 65536 = bs
  exact wf_memPuts _ _ h

/-- Keys that rise still rise when entries are left out. -/
theorem risesFrom_filter (p : Host.Cell → Bool) (n : Nat) (m : List Host.Cell) (h : risesFrom n m = true) :
    risesFrom n (m.filter p) = true := by
  induction m generalizing n with
  | nil => rfl
  | cons e r ih =>
    obtain ⟨a, b⟩ := e
    simp only [risesFrom, Bool.and_eq_true, decide_eq_true_eq] at h
    rw [List.filter_cons]
    split
    · simp only [risesFrom, Bool.and_eq_true, decide_eq_true_eq]
      exact ⟨h.1, ih _ h.2⟩
    · exact ih n (risesFrom_mono (by omega) h.2)

/-- So does a range that is zeroed. -/
theorem wf_zeroRange (s : State) (lo hi : Nat) (h : memoryOk s = true) : memoryOk (zeroRange s lo hi) = true := by
  unfold memoryOk at h ⊢
  rw [wf_iff_rises] at h ⊢
  exact risesFrom_filter _ _ _ h

/-- So do an eviction from the basin, a line put there, a write-back, a slice's clean, drop and replacement, and a write at a home. -/
theorem wf_evictBasin (s : State) (key : Nat) (h : memoryOk s = true) : memoryOk (evictBasin s key) = true := by
  unfold evictBasin
  split
  · next b _ =>
    split
    · exact wf_putMemLine s (key * 64) b.data b.poison h
    · exact h
  · exact h

theorem wf_putBasin (s : State) (key : Nat) (c : CacheLine) (h : memoryOk s = true) : memoryOk (putBasin s key c) = true := by
  unfold putBasin
  dsimp only
  split
  · exact h
  · split
    · exact wf_evictBasin { s with tick := s.tick + 1 } _ h
    · exact h

theorem wf_writeBack (s : State) (pa : Nat) (c : CacheLine) (h : memoryOk s = true) : memoryOk (writeBack s pa c) = true := by
  have hc : memoryOk (countTierWrite s pa) = true := by
    have e : (countTierWrite s pa).mem = s.mem := by
      unfold countTierWrite countLine askReseal
      split
      · dsimp only
        split <;> rfl
      · rfl
    unfold memoryOk
    rw [e]
    exact h
  unfold writeBack
  dsimp only
  split
  · exact h
  · split
    · exact wf_putBasin s _ _ h
    · split
      · exact wf_putBasin s _ _ h
      · exact wf_putMemLine _ _ _ _ hc

theorem wf_cleanSlice (s : State) (slice pa : Nat) (h : memoryOk s = true) : memoryOk (cleanSlice s slice pa) = true := by
  unfold cleanSlice
  split
  · split
    · exact h
    · split
      · exact wf_writeBack s pa _ h
      · exact h
  · exact h

theorem wf_dropSlice (s : State) (slice pa : Nat) (h : memoryOk s = true) : memoryOk (dropSlice s slice pa) = true := by
  unfold dropSlice
  split
  · exact wf_cleanSlice s slice pa h
  · exact wf_cleanSlice s slice pa h

theorem wf_l2Room (s : State) (slice pa : Nat) (h : memoryOk s = true) : memoryOk (l2Room s slice pa) = true := by
  unfold l2Room
  dsimp only
  split
  · exact h
  · split
    · exact wf_dropSlice { s with tick := s.tick + 1 } _ _ h
    · exact h

theorem wf_writeHome (s : State) (slice pa off : Nat) (bs : List Byte) (dom basin : Nat) (world : BitVec 16)
    (h : memoryOk s = true) : memoryOk (writeHome s slice pa off bs dom basin world) = true := by
  have hr := wf_l2Room s slice pa h
  unfold writeHome
  generalize l2Room s slice pa = u at hr ⊢
  exact hr

theorem wf_physWrite (s : State) (pa : Nat) (bs : List Byte) (world : BitVec 16) (h : memoryOk s = true) :
    memoryOk (physWrite s pa bs world) = true := by
  induction bs generalizing s pa with
  | nil => exact h
  | cons b r ih => exact ih _ _ (wf_writeHome s _ _ _ _ _ _ _ h)

end Sys2Proof.Machine
end

