-- ==== Sys2Proof/Tests/Slice0.lean ====
section
/-! SUPPORT. Tests: decoding of words written out from the spec's encodings, ill-formed terms, small steps, and a witness for the
hypotheses of each statement. -/

set_option maxRecDepth 20000

namespace Sys2Proof.Tests

open Sys2Proof Sys2Proof.Machine

/-- Words of scalar class control, laid out by hand (R44, R45, R60). -/
theorem test_words_control1 :
    decodeWords 0x00000000 0 0 = .instr .nop ∧
    decodeWords 0x00400000 0 0 = .instr .exit ∧
    decodeWords 0x03800000 0 0 = .instr .join ∧
    decodeWords 0x03C00000 0 0 = .instr .yield ∧
    decodeWords 0x04400000 0 0 = .instr .wide ∧
    decodeWords 0x04800000 0 0 = .instr .endw ∧
    decodeWords 0x05000000 0 0 = .instr .bsync ∧
    decodeWords 0x05400000 0 0 = .instr .tsync ∧
    decodeWords 0x05800000 0 0 = .instr .retc ∧
    decodeWords 0x00809C35 0 0 = .instr (.bra 0x9c35) ∧
    decodeWords 0x00EB9C35 0 0 = .instr (.jal 43 0x9c35) ∧
    decodeWords 0x012B56F1 0 0 = .instr (.jalr 43 21 0x2f1) := by decide

/-- Words of scalar class control, laid out by hand (R44, R45, R60). -/
theorem test_words_control2 :
    decodeWords 0x0155EAF1 0 0 = .instr (.beq 21 58 0x2f1) ∧
    decodeWords 0x0195EAF1 0 0 = .instr (.bne 21 58 0x2f1) ∧
    decodeWords 0x01D5EAF1 0 0 = .instr (.blt 21 58 0x2f1) ∧
    decodeWords 0x0215EAF1 0 0 = .instr (.bge 21 58 0x2f1) ∧
    decodeWords 0x0255EAF1 0 0 = .instr (.bltn 21 58 0x2f1) ∧
    decodeWords 0x0295EAF1 0 0 = .instr (.bgen 21 58 0x2f1) ∧
    decodeWords 0x02C502F1 0 0 = .instr (.bany 5 0x2f1) ∧
    decodeWords 0x030502F1 0 0 = .instr (.ball 5 0x2f1) ∧
    decodeWords 0x034502F1 0 0 = .instr (.bnone 5 0x2f1) ∧
    decodeWords 0x04000155 0 0 = .instr (.pause 0x155) ∧
    decodeWords 0x04C07A0B 0 0 = .instr (.regroup 3 0x1A0 5 true) := by decide

/-- Words of scalar class integer, laid out by hand (R44, R60, R73). -/
theorem test_words_integer1 :
    decodeWords 0x082B57A0 0 0 = .instr (.sadd 43 21 58) ∧
    decodeWords 0x086B57A0 0 0 = .instr (.ssub 43 21 58) ∧
    decodeWords 0x08AB57A0 0 0 = .instr (.smul 43 21 58) ∧
    decodeWords 0x08EB57A0 0 0 = .instr (.smulh 43 21 58) ∧
    decodeWords 0x092B57A0 0 0 = .instr (.smulhn 43 21 58) ∧
    decodeWords 0x096B57A0 0 0 = .instr (.sand 43 21 58) ∧
    decodeWords 0x09AB57A0 0 0 = .instr (.sor 43 21 58) ∧
    decodeWords 0x09EB57A0 0 0 = .instr (.sxor 43 21 58) ∧
    decodeWords 0x0A2B57A0 0 0 = .instr (.sshl 43 21 58) ∧
    decodeWords 0x0A6B57A0 0 0 = .instr (.sshr 43 21 58) ∧
    decodeWords 0x0AAB57A0 0 0 = .instr (.ssra 43 21 58) ∧
    decodeWords 0x0AEB57A0 0 0 = .instr (.smin 43 21 58) := by decide

/-- Words of scalar class integer, laid out by hand (R44, R60, R73). -/
theorem test_words_integer2 :
    decodeWords 0x0B2B57A0 0 0 = .instr (.smax 43 21 58) ∧
    decodeWords 0x0B6B57A0 0 0 = .instr (.sminn 43 21 58) ∧
    decodeWords 0x0BAB57A0 0 0 = .instr (.smaxn 43 21 58) ∧
    decodeWords 0x0BEB57A0 0 0 = .instr (.sslt 43 21 58) ∧
    decodeWords 0x0C2B57A0 0 0 = .instr (.ssltn 43 21 58) ∧
    decodeWords 0x0C6B5400 0 0 = .instr (.sclz 43 21) ∧
    decodeWords 0x0CAB5400 0 0 = .instr (.spopc 43 21) := by decide

/-- Words of scalar class immediate, laid out by hand (R44, R60, R74). -/
theorem test_words_immediate :
    decodeWords 0x102B56F1 0 0 = .instr (.saddi 43 21 0x2f1) ∧
    decodeWords 0x106B56F1 0 0 = .instr (.sandi 43 21 0x2f1) ∧
    decodeWords 0x10AB56F1 0 0 = .instr (.sori 43 21 0x2f1) ∧
    decodeWords 0x10EB56F1 0 0 = .instr (.sxori 43 21 0x2f1) ∧
    decodeWords 0x11EB56F1 0 0 = .instr (.sslti 43 21 0x2f1) ∧
    decodeWords 0x112B5431 0 0 = .instr (.sshli 43 21 0x31) ∧
    decodeWords 0x116B5431 0 0 = .instr (.sshri 43 21 0x31) ∧
    decodeWords 0x11AB5431 0 0 = .instr (.ssrai 43 21 0x31) ∧
    decodeWords 0x122B9C35 0 0 = .instr (.slui 43 0x9c35) ∧
    decodeWords 0x126B9C35 0 0 = .instr (.saddpc 43 0x9c35) ∧
    decodeWords 0x12AB9C35 0 0 = .instr (.smovi 43 0x9c35) ∧
    decodeWords 0x12EB9C35 0 0 = .instr (.sins16 43 0x9c35) := by decide

/-- Words of scalar class memory, laid out by hand (R44, R60, R75). -/
theorem test_words_memory :
    decodeWords 0x182B56F1 0 0 = .instr (.sldw 43 21 0x2f1) ∧
    decodeWords 0x186B56F1 0 0 = .instr (.sldd 43 21 0x2f1) ∧
    decodeWords 0x18AB56F1 0 0 = .instr (.sstw 43 21 0x2f1) ∧
    decodeWords 0x18EB56F1 0 0 = .instr (.sstd 43 21 0x2f1) ∧
    decodeWords 0x196B56F1 0 0 = .instr (.sldp 43 21 0x2f1) ∧
    decodeWords 0x19AB56F1 0 0 = .instr (.sstp 43 21 0x2f1) ∧
    decodeWords 0x190556F1 0 0 = .instr (.sldk 5 21 0x2f1) := by decide

/-- Words of scalar class system, laid out by hand (R44, R45, R60). -/
theorem test_words_system1 :
    decodeWords 0x202B0008 0 0 = .instr (.srd 43 8) ∧
    decodeWords 0x206B0008 0 0 = .instr (.swr 43 8) ∧
    decodeWords 0x20AB0008 0 0 = .instr (.ssetb 43 8) ∧
    decodeWords 0x20EB0008 0 0 = .instr (.sclrb 43 8) ∧
    decodeWords 0x21009C35 0 0 = .instr (.trap 0x9c35) ∧
    decodeWords 0x21400000 0 0 = .instr .eret ∧
    decodeWords 0x2180556B 0 0 = .instr (.fence 0x2B 0x15 5) ∧
    decodeWords 0x21C05402 0 0 = .instr (.swait 21 2) ∧
    decodeWords 0x220056F1 0 0 = .instr (.monw 21 0x2f1) ∧
    decodeWords 0x226B5400 0 0 = .instr (.mwaitv 43 21) ∧
    decodeWords 0x228057A2 0 0 = .instr (.cmo 21 58 2) ∧
    decodeWords 0x22C09C35 0 0 = .instr (.dbgb 0x9c35) := by decide

/-- Words of scalar class system, laid out by hand (R44, R45, R60). -/
theorem test_words_system2 :
    decodeWords 0x232B5413 0 0 = .instr (.srdx 43 21 0x13) := by decide

/-- Words of scalar class engines, laid out by hand (R44, R60). -/
theorem test_words_engines1 :
    decodeWords 0x28005400 0 0 = .instr (.tcopy 21) ∧
    decodeWords 0x28405400 0 0 = .instr (.tcopym 21) ∧
    decodeWords 0x288057A0 0 0 = .instr (.barinit 21 58) ∧
    decodeWords 0x290057A0 0 0 = .instr (.barwait 21 58) ∧
    decodeWords 0x28C057A1 0 0 = .instr (.bararr 21 58 true) ∧
    decodeWords 0x296B0000 0 0 = .instr (.mbatch 43) ∧
    decodeWords 0x29805400 0 0 = .instr (.mwait 21) ∧
    decodeWords 0x29EB57A0 0 0 = .instr (.genrol 43 21 58) ∧
    decodeWords 0x2A005400 0 0 = .instr (.gleave 21) ∧
    decodeWords 0x2A6B57A0 0 0 = .instr (.gload 43 21 58) ∧
    decodeWords 0x2AAB57A0 0 0 = .instr (.gput 43 21 58) ∧
    decodeWords 0x2AEB57A0 0 0 = .instr (.solicit 43 21 58) := by decide

/-- Words of scalar class engines, laid out by hand (R44, R60). -/
theorem test_words_engines2 :
    decodeWords 0x2BAB57A0 0 0 = .instr (.diradd 43 21 58) ∧
    decodeWords 0x2C2B57A0 0 0 = .instr (.dirmov 43 21 58) ∧
    decodeWords 0x2B2B5400 0 0 = .instr (.cwait 43 21) ∧
    decodeWords 0x2B4057A0 0 0 = .instr (.respond 21 58) ∧
    decodeWords 0x2BEB5400 0 0 = .instr (.dirdel 43 21) := by decide

/-- Words of class lane integer, laid out by hand (R47, R49, R57, R61 to R65). -/
theorem test_words_lane_integer1 :
    decodeWords 0x80036001 0x95169218 0x00000000 = .instr (.iadd
      { guard := 5, neg := true, nwb := false, keep := 0, ty := 1, mod := 0x1, dst := 0x12a, a := 0xb4,
        b := 0x243, kd := 0, c := 0x0, imm := 0x0 }) ∧
    decodeWords 0x80216000 0x95169218 0x00000000 = .instr (.isub
      { guard := 5, neg := true, nwb := false, keep := 0, ty := 0, mod := 0x0, dst := 0x12a, a := 0xb4,
        b := 0x243, kd := 0, c := 0x0, imm := 0x0 }) ∧
    decodeWords 0x80456000 0x95169218 0x00000000 = .instr (.imul
      { guard := 5, neg := true, nwb := false, keep := 0, ty := 2, mod := 0x0, dst := 0x12a, a := 0xb4,
        b := 0x243, kd := 0, c := 0x0, imm := 0x0 }) ∧
    decodeWords 0x80636000 0x95169218 0x00000000 = .instr (.imulh
      { guard := 5, neg := true, nwb := false, keep := 0, ty := 1, mod := 0x0, dst := 0x12a, a := 0xb4,
        b := 0x243, kd := 0, c := 0x0, imm := 0x0 }) ∧
    decodeWords 0x80876000 0x95169218 0x81000000 = .instr (.imad
      { guard := 5, neg := true, nwb := false, keep := 0, ty := 3, mod := 0x0, dst := 0x12a, a := 0xb4,
        b := 0x243, kd := 0, c := 0x204, imm := 0x0 }) ∧
    decodeWords 0x80A36001 0x95169218 0x81000000 = .instr (.iadd3
      { guard := 5, neg := true, nwb := false, keep := 0, ty := 1, mod := 0x1, dst := 0x12a, a := 0xb4,
        b := 0x243, kd := 0, c := 0x204, imm := 0x0 }) ∧
    decodeWords 0x80C36001 0x95168000 0x00000000 = .instr (.iabs
      { guard := 5, neg := true, nwb := false, keep := 0, ty := 1, mod := 0x1, dst := 0x12a, a := 0xb4,
        b := 0x0, kd := 0, c := 0x0, imm := 0x0 }) := by decide

/-- Words of class lane integer, laid out by hand (R47, R49, R57, R61 to R65). -/
theorem test_words_lane_integer2 :
    decodeWords 0x80E76000 0x95168000 0x00000000 = .instr (.ineg
      { guard := 5, neg := true, nwb := false, keep := 0, ty := 3, mod := 0x0, dst := 0x12a, a := 0xb4,
        b := 0x0, kd := 0, c := 0x0, imm := 0x0 }) ∧
    decodeWords 0x81016000 0x95169218 0x00000000 = .instr (.imin
      { guard := 5, neg := true, nwb := false, keep := 0, ty := 0, mod := 0x0, dst := 0x12a, a := 0xb4,
        b := 0x243, kd := 0, c := 0x0, imm := 0x0 }) ∧
    decodeWords 0x81236000 0x95169218 0x00000000 = .instr (.imax
      { guard := 5, neg := true, nwb := false, keep := 0, ty := 1, mod := 0x0, dst := 0x12a, a := 0xb4,
        b := 0x243, kd := 0, c := 0x0, imm := 0x0 }) ∧
    decodeWords 0x81596000 0x95169218 0x00000000 = .instr (.iand
      { guard := 5, neg := true, nwb := false, keep := 0, ty := 12, mod := 0x0, dst := 0x12a, a := 0xb4,
        b := 0x243, kd := 0, c := 0x0, imm := 0x0 }) ∧
    decodeWords 0x81656000 0x95169218 0x00000000 = .instr (.ior
      { guard := 5, neg := true, nwb := false, keep := 0, ty := 2, mod := 0x0, dst := 0x12a, a := 0xb4,
        b := 0x243, kd := 0, c := 0x0, imm := 0x0 }) ∧
    decodeWords 0x81996000 0x95169218 0x00000000 = .instr (.ixor
      { guard := 5, neg := true, nwb := false, keep := 0, ty := 12, mod := 0x0, dst := 0x12a, a := 0xb4,
        b := 0x243, kd := 0, c := 0x0, imm := 0x0 }) ∧
    decodeWords 0x81B96000 0x95168000 0x00000000 = .instr (.inot
      { guard := 5, neg := true, nwb := false, keep := 0, ty := 12, mod := 0x0, dst := 0x12a, a := 0xb4,
        b := 0x0, kd := 0, c := 0x0, imm := 0x0 }) := by decide

/-- Words of class lane integer, laid out by hand (R47, R49, R57, R61 to R65). -/
theorem test_words_lane_integer3 :
    decodeWords 0x81D960E8 0x95169218 0x81000000 = .instr (.tern
      { guard := 5, neg := true, nwb := false, keep := 0, ty := 12, mod := 0xe8, dst := 0x12a, a := 0xb4,
        b := 0x243, kd := 0, c := 0x204, imm := 0x0 }) ∧
    decodeWords 0x81E16000 0x95169218 0x00000000 = .instr (.ishl
      { guard := 5, neg := true, nwb := false, keep := 0, ty := 0, mod := 0x0, dst := 0x12a, a := 0xb4,
        b := 0x243, kd := 0, c := 0x0, imm := 0x0 }) ∧
    decodeWords 0x82056000 0x95169218 0x00000000 = .instr (.ishr
      { guard := 5, neg := true, nwb := false, keep := 0, ty := 2, mod := 0x0, dst := 0x12a, a := 0xb4,
        b := 0x243, kd := 0, c := 0x0, imm := 0x0 }) ∧
    decodeWords 0x82236000 0x95169218 0x00000000 = .instr (.isra
      { guard := 5, neg := true, nwb := false, keep := 0, ty := 1, mod := 0x0, dst := 0x12a, a := 0xb4,
        b := 0x243, kd := 0, c := 0x0, imm := 0x0 }) ∧
    decodeWords 0x82596003 0x95169218 0x81000000 = .instr (.shf
      { guard := 5, neg := true, nwb := false, keep := 0, ty := 12, mod := 0x3, dst := 0x12a, a := 0xb4,
        b := 0x243, kd := 0, c := 0x204, imm := 0x0 }) ∧
    decodeWords 0x82796000 0x95168000 0x00000000 = .instr (.popc
      { guard := 5, neg := true, nwb := false, keep := 0, ty := 12, mod := 0x0, dst := 0x12a, a := 0xb4,
        b := 0x0, kd := 0, c := 0x0, imm := 0x0 }) ∧
    decodeWords 0x82996000 0x95168000 0x00000000 = .instr (.clz
      { guard := 5, neg := true, nwb := false, keep := 0, ty := 12, mod := 0x0, dst := 0x12a, a := 0xb4,
        b := 0x0, kd := 0, c := 0x0, imm := 0x0 }) := by decide

/-- Words of class lane integer, laid out by hand (R47, R49, R57, R61 to R65). -/
theorem test_words_lane_integer4 :
    decodeWords 0x82B96000 0x95168000 0x00000000 = .instr (.brev
      { guard := 5, neg := true, nwb := false, keep := 0, ty := 12, mod := 0x0, dst := 0x12a, a := 0xb4,
        b := 0x0, kd := 0, c := 0x0, imm := 0x0 }) ∧
    decodeWords 0x82C36000 0x95169218 0x00000000 = .instr (.bfe
      { guard := 5, neg := true, nwb := false, keep := 0, ty := 1, mod := 0x0, dst := 0x12a, a := 0xb4,
        b := 0x243, kd := 0, c := 0x0, imm := 0x0 }) ∧
    decodeWords 0x82F96000 0x95169218 0x81000000 = .instr (.bfi
      { guard := 5, neg := true, nwb := false, keep := 0, ty := 12, mod := 0x0, dst := 0x12a, a := 0xb4,
        b := 0x243, kd := 0, c := 0x204, imm := 0x0 }) ∧
    decodeWords 0x83196000 0x95169218 0x81000000 = .instr (.prmt
      { guard := 5, neg := true, nwb := false, keep := 0, ty := 12, mod := 0x0, dst := 0x12a, a := 0xb4,
        b := 0x243, kd := 0, c := 0x204, imm := 0x0 }) ∧
    decodeWords 0x80001800 0x9540B008 0x002ABCDE = .instr (.iadd
      { guard := 0, neg := false, nwb := true, keep := 2, ty := 0, mod := 0x0, dst := 0x12a, a := 0x205,
        b := 0x201, kd := 0, c := 0x0, imm := 0x2abcde }) := by decide

/-- Words of class lane compare, laid out by hand (R47, R49, R57, R61 to R65). -/
theorem test_words_lane_compare1 :
    decodeWords 0x88036004 0x0016921E 0x00000000 = .instr (.icmp
      { guard := 5, neg := true, nwb := false, keep := 0, ty := 1, mod := 0x4, dst := 0x0, a := 0xb4,
        b := 0x243, kd := 6, c := 0x0, imm := 0x0 }) ∧
    decodeWords 0x8829600B 0x0016921E 0x00000000 = .instr (.fcmp
      { guard := 5, neg := true, nwb := false, keep := 0, ty := 4, mod := 0xb, dst := 0x0, a := 0xb4,
        b := 0x243, kd := 6, c := 0x0, imm := 0x0 }) ∧
    decodeWords 0x8859639D 0x00000006 0x00000000 = .instr (.klop
      { guard := 5, neg := true, nwb := false, keep := 0, ty := 12, mod := 0x39d, dst := 0x0, a := 0x0,
        b := 0x0, kd := 6, c := 0x0, imm := 0x0 }) ∧
    decodeWords 0x88796000 0x00168006 0x00000000 = .instr (.kmov
      { guard := 5, neg := true, nwb := false, keep := 0, ty := 12, mod := 0x0, dst := 0x0, a := 0xb4,
        b := 0x0, kd := 6, c := 0x0, imm := 0x0 }) ∧
    decodeWords 0x88996000 0x95000000 0x00000000 = .instr (.ktov
      { guard := 5, neg := true, nwb := false, keep := 0, ty := 12, mod := 0x0, dst := 0x12a, a := 0x0,
        b := 0x0, kd := 0, c := 0x0, imm := 0x0 }) ∧
    decodeWords 0x88B9600D 0x95169218 0x00000000 = .instr (.sel
      { guard := 5, neg := true, nwb := false, keep := 0, ty := 12, mod := 0xd, dst := 0x12a, a := 0xb4,
        b := 0x243, kd := 0, c := 0x0, imm := 0x0 }) ∧
    decodeWords 0x88C56000 0x95168000 0x00000000 = .instr (.mov
      { guard := 5, neg := true, nwb := false, keep := 0, ty := 2, mod := 0x0, dst := 0x12a, a := 0xb4,
        b := 0x0, kd := 0, c := 0x0, imm := 0x0 }) := by decide

/-- Words of class lane compare, laid out by hand (R47, R49, R57, R61 to R65). -/
theorem test_words_lane_compare2 :
    decodeWords 0x88F96000 0x95000000 0xBEEABCDE = .instr (.movi
      { guard := 5, neg := true, nwb := false, keep := 0, ty := 12, mod := 0x0, dst := 0x12a, a := 0x0,
        b := 0x0, kd := 0, c := 0x2fb, imm := 0x2abcde }) := by decide

/-- Words of class lane float, laid out by hand (R47, R49, R57, R61 to R65). -/
theorem test_words_lane_float1 :
    decodeWords 0x90096002 0x95169218 0x00000000 = .instr (.fadd
      { guard := 5, neg := true, nwb := false, keep := 0, ty := 4, mod := 0x2, dst := 0x12a, a := 0xb4,
        b := 0x243, kd := 0, c := 0x0, imm := 0x0 }) ∧
    decodeWords 0x902B6000 0x95169218 0x00000000 = .instr (.fsub
      { guard := 5, neg := true, nwb := false, keep := 0, ty := 5, mod := 0x0, dst := 0x12a, a := 0xb4,
        b := 0x243, kd := 0, c := 0x0, imm := 0x0 }) ∧
    decodeWords 0x904D6005 0x95169218 0x00000000 = .instr (.fmul
      { guard := 5, neg := true, nwb := false, keep := 0, ty := 6, mod := 0x5, dst := 0x12a, a := 0xb4,
        b := 0x243, kd := 0, c := 0x0, imm := 0x0 }) ∧
    decodeWords 0x90696001 0x95169218 0x81000000 = .instr (.ffma
      { guard := 5, neg := true, nwb := false, keep := 0, ty := 4, mod := 0x1, dst := 0x12a, a := 0xb4,
        b := 0x243, kd := 0, c := 0x204, imm := 0x0 }) ∧
    decodeWords 0x90896000 0x95169218 0x00000000 = .instr (.fmin
      { guard := 5, neg := true, nwb := false, keep := 0, ty := 4, mod := 0x0, dst := 0x12a, a := 0xb4,
        b := 0x243, kd := 0, c := 0x0, imm := 0x0 }) ∧
    decodeWords 0x90AF6000 0x95169218 0x00000000 = .instr (.fmax
      { guard := 5, neg := true, nwb := false, keep := 0, ty := 7, mod := 0x0, dst := 0x12a, a := 0xb4,
        b := 0x243, kd := 0, c := 0x0, imm := 0x0 }) ∧
    decodeWords 0x90CB6000 0x95168000 0x00000000 = .instr (.fabs
      { guard := 5, neg := true, nwb := false, keep := 0, ty := 5, mod := 0x0, dst := 0x12a, a := 0xb4,
        b := 0x0, kd := 0, c := 0x0, imm := 0x0 }) := by decide

/-- Words of class lane float, laid out by hand (R47, R49, R57, R61 to R65). -/
theorem test_words_lane_float2 :
    decodeWords 0x90E96000 0x95168000 0x00000000 = .instr (.fneg
      { guard := 5, neg := true, nwb := false, keep := 0, ty := 4, mod := 0x0, dst := 0x12a, a := 0xb4,
        b := 0x0, kd := 0, c := 0x0, imm := 0x0 }) ∧
    decodeWords 0x91096000 0x95168000 0x00000000 = .instr (.frcp
      { guard := 5, neg := true, nwb := false, keep := 0, ty := 4, mod := 0x0, dst := 0x12a, a := 0xb4,
        b := 0x0, kd := 0, c := 0x0, imm := 0x0 }) ∧
    decodeWords 0x91296000 0x95168000 0x00000000 = .instr (.frsq
      { guard := 5, neg := true, nwb := false, keep := 0, ty := 4, mod := 0x0, dst := 0x12a, a := 0xb4,
        b := 0x0, kd := 0, c := 0x0, imm := 0x0 }) ∧
    decodeWords 0x914B6003 0x95168000 0x00000000 = .instr (.fsqrt
      { guard := 5, neg := true, nwb := false, keep := 0, ty := 5, mod := 0x3, dst := 0x12a, a := 0xb4,
        b := 0x0, kd := 0, c := 0x0, imm := 0x0 }) ∧
    decodeWords 0x91696000 0x95168000 0x00000000 = .instr (.fexp2
      { guard := 5, neg := true, nwb := false, keep := 0, ty := 4, mod := 0x0, dst := 0x12a, a := 0xb4,
        b := 0x0, kd := 0, c := 0x0, imm := 0x0 }) ∧
    decodeWords 0x91896000 0x95168000 0x00000000 = .instr (.flog2
      { guard := 5, neg := true, nwb := false, keep := 0, ty := 4, mod := 0x0, dst := 0x12a, a := 0xb4,
        b := 0x0, kd := 0, c := 0x0, imm := 0x0 }) ∧
    decodeWords 0x91A96000 0x95168000 0x00000000 = .instr (.fsin
      { guard := 5, neg := true, nwb := false, keep := 0, ty := 4, mod := 0x0, dst := 0x12a, a := 0xb4,
        b := 0x0, kd := 0, c := 0x0, imm := 0x0 }) := by decide

/-- Words of class lane float, laid out by hand (R47, R49, R57, R61 to R65). -/
theorem test_words_lane_float3 :
    decodeWords 0x91C96000 0x95168000 0x00000000 = .instr (.fcos
      { guard := 5, neg := true, nwb := false, keep := 0, ty := 4, mod := 0x0, dst := 0x12a, a := 0xb4,
        b := 0x0, kd := 0, c := 0x0, imm := 0x0 }) ∧
    decodeWords 0x91E96000 0x95168000 0x00000000 = .instr (.ftanh
      { guard := 5, neg := true, nwb := false, keep := 0, ty := 4, mod := 0x0, dst := 0x12a, a := 0xb4,
        b := 0x0, kd := 0, c := 0x0, imm := 0x0 }) ∧
    decodeWords 0x92096004 0x95169218 0x00000000 = .instr (.fdiv
      { guard := 5, neg := true, nwb := false, keep := 0, ty := 4, mod := 0x4, dst := 0x12a, a := 0xb4,
        b := 0x243, kd := 0, c := 0x0, imm := 0x0 }) ∧
    decodeWords 0x922D6004 0x95168000 0x00000000 = .instr (.frnd
      { guard := 5, neg := true, nwb := false, keep := 0, ty := 6, mod := 0x4, dst := 0x12a, a := 0xb4,
        b := 0x0, kd := 0, c := 0x0, imm := 0x0 }) ∧
    decodeWords 0x924B6000 0x95168000 0x00000000 = .instr (.fclass
      { guard := 5, neg := true, nwb := false, keep := 0, ty := 5, mod := 0x0, dst := 0x12a, a := 0xb4,
        b := 0x0, kd := 0, c := 0x0, imm := 0x0 }) := by decide

/-- Words of class lane conversion, laid out by hand (R47, R49, R57, R61 to R65). -/
theorem test_words_lane_conversion :
    decodeWords 0x980360B4 0x95168000 0x00000000 = .instr (.cvt
      { guard := 5, neg := true, nwb := false, keep := 0, ty := 1, mod := 0xb4, dst := 0x12a, a := 0xb4,
        b := 0x0, kd := 0, c := 0x0, imm := 0x0 }) ∧
    decodeWords 0x982D6014 0x95169218 0x00000000 = .instr (.cvtp
      { guard := 5, neg := true, nwb := false, keep := 0, ty := 6, mod := 0x14, dst := 0x12a, a := 0xb4,
        b := 0x243, kd := 0, c := 0x0, imm := 0x0 }) ∧
    decodeWords 0x98516304 0x95168000 0x00000000 = .instr (.cvtu
      { guard := 5, neg := true, nwb := false, keep := 0, ty := 8, mod := 0x304, dst := 0x12a, a := 0xb4,
        b := 0x0, kd := 0, c := 0x0, imm := 0x0 }) ∧
    decodeWords 0x9869601A 0x95168000 0x00000000 = .instr (.qdec
      { guard := 5, neg := true, nwb := false, keep := 0, ty := 4, mod := 0x1a, dst := 0x12a, a := 0xb4,
        b := 0x0, kd := 0, c := 0x0, imm := 0x0 }) ∧
    decodeWords 0x9899601D 0x95169218 0x00000000 = .instr (.qenc
      { guard := 5, neg := true, nwb := false, keep := 0, ty := 12, mod := 0x1d, dst := 0x12a, a := 0xb4,
        b := 0x243, kd := 0, c := 0x0, imm := 0x0 }) ∧
    decodeWords 0x98A96001 0x95168000 0x00000000 = .instr (.scle
      { guard := 5, neg := true, nwb := false, keep := 0, ty := 4, mod := 0x1, dst := 0x12a, a := 0xb4,
        b := 0x0, kd := 0, c := 0x0, imm := 0x0 }) := by decide

/-- Words of class lane exchange, laid out by hand (R47, R49, R57, R61 to R65). -/
theorem test_words_lane_exchange :
    decodeWords 0xA019600B 0x95169218 0x00000000 = .instr (.shfl
      { guard := 5, neg := true, nwb := false, keep := 0, ty := 12, mod := 0xb, dst := 0x12a, a := 0xb4,
        b := 0x243, kd := 0, c := 0x0, imm := 0x0 }) ∧
    decodeWords 0xA0256002 0x95168000 0x00000000 = .instr (.qxch
      { guard := 5, neg := true, nwb := false, keep := 0, ty := 2, mod := 0x2, dst := 0x12a, a := 0xb4,
        b := 0x0, kd := 0, c := 0x0, imm := 0x0 }) ∧
    decodeWords 0xA0596019 0x00000006 0x00000000 = .instr (.vote
      { guard := 5, neg := true, nwb := false, keep := 0, ty := 12, mod := 0x19, dst := 0x0, a := 0x0,
        b := 0x0, kd := 6, c := 0x0, imm := 0x0 }) ∧
    decodeWords 0xA0796001 0x95168000 0x00000000 = .instr (.matchLanes
      { guard := 5, neg := true, nwb := false, keep := 0, ty := 12, mod := 0x1, dst := 0x12a, a := 0xb4,
        b := 0x0, kd := 0, c := 0x0, imm := 0x0 }) ∧
    decodeWords 0xA0836002 0x95168000 0x00000000 = .instr (.redux
      { guard := 5, neg := true, nwb := false, keep := 0, ty := 1, mod := 0x2, dst := 0x12a, a := 0xb4,
        b := 0x0, kd := 0, c := 0x0, imm := 0x0 }) ∧
    decodeWords 0xA0A16008 0x95168000 0x00000000 = .instr (.scan
      { guard := 5, neg := true, nwb := false, keep := 0, ty := 0, mod := 0x8, dst := 0x12a, a := 0xb4,
        b := 0x0, kd := 0, c := 0x0, imm := 0x0 }) ∧
    decodeWords 0xA0D96031 0x15968000 0x00000000 = .instr (.ltos
      { guard := 5, neg := true, nwb := false, keep := 0, ty := 12, mod := 0x31, dst := 0x2b, a := 0xb4,
        b := 0x0, kd := 0, c := 0x0, imm := 0x0 }) := by decide

/-- Words of class lane memory, laid out by hand (R47, R49, R57, R61 to R65). -/
theorem test_words_lane_memory :
    decodeWords 0xA8036268 0x95168000 0x002ABCDE = .instr (.ld
      { guard := 5, neg := true, nwb := false, keep := 0, ty := 1, mod := 0x268, dst := 0x12a, a := 0xb4,
        b := 0x0, kd := 0, c := 0x0, imm := 0x2abcde }) ∧
    decodeWords 0xA83960B0 0x00169218 0x002ABCDE = .instr (.st
      { guard := 5, neg := true, nwb := false, keep := 0, ty := 12, mod := 0xb0, dst := 0x0, a := 0xb4,
        b := 0x243, kd := 0, c := 0x0, imm := 0x2abcde }) ∧
    decodeWords 0xA841609C 0x95169218 0x00AABCDE = .instr (.atom
      { guard := 5, neg := true, nwb := false, keep := 0, ty := 0, mod := 0x9c, dst := 0x12a, a := 0xb4,
        b := 0x243, kd := 0, c := 0x2, imm := 0x2abcde }) ∧
    decodeWords 0xA8696000 0x00169218 0x002ABCDE = .instr (.red
      { guard := 5, neg := true, nwb := false, keep := 0, ty := 4, mod := 0x0, dst := 0x0, a := 0xb4,
        b := 0x243, kd := 0, c := 0x0, imm := 0x2abcde }) ∧
    decodeWords 0xA8856029 0x95169218 0x812ABCDE = .instr (.cas
      { guard := 5, neg := true, nwb := false, keep := 0, ty := 2, mod := 0x29, dst := 0x12a, a := 0xb4,
        b := 0x243, kd := 0, c := 0x204, imm := 0x2abcde }) ∧
    decodeWords 0xA8B96000 0x00168000 0x002ABCDE = .instr (.pref
      { guard := 5, neg := true, nwb := false, keep := 0, ty := 12, mod := 0x0, dst := 0x0, a := 0xb4,
        b := 0x0, kd := 0, c := 0x0, imm := 0x2abcde }) := by decide

/-- Words of class lane control, laid out by hand (R47, R49, R57, R61 to R65). -/
theorem test_words_lane_control :
    decodeWords 0xB0196000 0xAAF37800 0x00155AA3 = .instr (.brl
      { guard := 5, neg := true, nwb := false, keep := 0, ty := 12, mod := 0x0, dst := 0x155, a := 0x39b,
        b := 0x300, kd := 0, c := 0x0, imm := 0x155aa3 }) ∧
    decodeWords 0xB0396000 0x00168000 0x00155AA3 = .instr (.brxl
      { guard := 5, neg := true, nwb := false, keep := 0, ty := 12, mod := 0x0, dst := 0x0, a := 0xb4,
        b := 0x0, kd := 0, c := 0x0, imm := 0x155aa3 }) ∧
    decodeWords 0xB059602A 0x95168000 0x00000000 = .instr (.launch
      { guard := 5, neg := true, nwb := false, keep := 0, ty := 12, mod := 0x2a, dst := 0x12a, a := 0xb4,
        b := 0x0, kd := 0, c := 0x0, imm := 0x0 }) := by decide

/-- Words of class lane matrix, laid out by hand (R47, R49, R57, R61 to R65). -/
theorem test_words_lane_matrix :
    decodeWords 0xB8080000 0x05840200 0x00000000 = .instr (.mma
      { guard := 0, neg := false, nwb := false, keep := 0, ty := 4, mod := 0x0, dst := 0xb, a := 0x20,
        b := 0x40, kd := 0, c := 0x0, imm := 0x0 }) ∧
    decodeWords 0xB8220044 0x05C87220 0x91400000 = .instr (.mmat
      { guard := 0, neg := false, nwb := false, keep := 0, ty := 1, mod := 0x44, dst := 0xb, a := 0x243,
        b := 0x244, kd := 0, c := 0x245, imm := 0x0 }) ∧
    decodeWords 0xB8480000 0x05840200 0x18000000 = .instr (.mmaz
      { guard := 0, neg := false, nwb := false, keep := 0, ty := 4, mod := 0x0, dst := 0xb, a := 0x20,
        b := 0x40, kd := 0, c := 0x60, imm := 0x0 }) ∧
    decodeWords 0xB8780000 0x05800000 0x00000000 = .instr (.mzero
      { guard := 0, neg := false, nwb := false, keep := 0, ty := 12, mod := 0x0, dst := 0xb, a := 0x0,
        b := 0x0, kd := 0, c := 0x0, imm := 0x0 }) ∧
    decodeWords 0xB8980000 0x05C86000 0x00000000 = .instr (.mld
      { guard := 0, neg := false, nwb := false, keep := 0, ty := 12, mod := 0x0, dst := 0xb, a := 0x243,
        b := 0x0, kd := 0, c := 0x0, imm := 0x0 }) ∧
    decodeWords 0xB8B80000 0x05C86000 0x00000000 = .instr (.mst
      { guard := 0, neg := false, nwb := false, keep := 0, ty := 12, mod := 0x0, dst := 0xb, a := 0x243,
        b := 0x0, kd := 0, c := 0x0, imm := 0x0 }) ∧
    decodeWords 0xB8D80012 0x05C87220 0x00000000 = .instr (.mout
      { guard := 0, neg := false, nwb := false, keep := 0, ty := 12, mod := 0x12, dst := 0xb, a := 0x243,
        b := 0x244, kd := 0, c := 0x0, imm := 0x0 }) := by decide
/-- An ill-formed term for each check of a scalar instruction's fields (R45, R59, R90, R95, R198, R240, R244). -/
theorem test_illformed_scalar :
    [Instr.pause 0, .pause 0x400, .regroup 5 4 0 false, .srd 1 0x2F1, .swr 1 0x00B, .ssetb 1 0x2F1, .sclrb 1 0x2F1, .srdx 1 2 0x2F1,
     .fence 1 1 6, .cmo 1 2 3].map wellFormed = List.replicate 10 false := by decide

/-- A lane instruction of plain fields. -/
def lane (ty : BitVec 4) (mod : BitVec 10) (dst : BitVec 9) (a b c : BitVec 10) : Lane :=
  { guard := 0, neg := false, nwb := false, keep := 0, ty := ty, mod := mod, dst := dst, a := a, b := b, kd := 0, c := c, imm := 0 }

/-- An ill-formed term for each check of a lane instruction: an unused field, a mod bit that is 0, a reserved mod code, a type out of
its column, a reserved source code, nwb where nothing is pushed (R59). -/
theorem test_illformed_lane :
    [Instr.iadd (lane 0 0 2 4 6 8), .imul (lane 0 1 2 4 6 0), .fadd (lane 4 6 2 4 6 0), .shfl (lane 12 (6 * 4) 2 4 6 0),
     .iadd (lane 12 0 2 4 6 0), .iadd (lane 0 0 2 0x207 6 0), .st { lane 12 0 0 4 6 0 with nwb := true },
     .ld (lane 12 0x10 2 4 0 0), .iadd { lane 0 0 2 4 6 0 with kd := 1 }].map wellFormed = List.replicate 9 false := by decide

/-- Words that name nothing are rejected by the step of the checks that they fail: class, op, a field that must be zero, a reserved
source, nwb (R59). -/
theorem test_words_rejected :
    decodeWords 0x30000000 0 0 = .illegal 2 ∧ decodeWords 0xC0000000 0 0 = .illegal 2 ∧ decodeWords 0x0FC00000 0 0 = .illegal 3 ∧
    decodeWords 0x83200000 0 0 = .illegal 3 ∧ decodeWords 0x00000001 0 0 = .illegal 4 ∧
    decodeWords 0x80000000 0x0100C030 0x00000001 = .illegal 4 ∧ decodeWords 0x80180000 0x01008030 0 = .illegal 5 ∧
    decodeWords 0x80000000 0x0140E030 0 = .illegal 6 ∧ decodeWords 0xA8381000 0x00008030 0 = .illegal 7 := by decide

/-- A gang of 32 live lanes whose one fragment stands at 0x10000. -/
def gang : Gang := newGang 0 0 0 0 32 0x10000 []

/-- A block of one gang with 64 lane registers, a pad of 1 KiB and every tile. -/
def blk : Block := newBlock 0 0 1 0 0 0 { gangs := 1, regs := 64, pad := 1024, acc := 16, copyq := 1 }

/-- The issuing fragment. -/
def frag : Frag := { pc := 0x10000, mask := BitVec.allOnes 32, link := none, wait := .running, words := [] }

/-- A resident context with a trap vector. -/
def ctx : Ctx :=
  { root := 0, asid := 0, world := 0, trapv := 0x20000, parkth := 0, evr := 0, save := 0, saveSz := 0, poolBase := 0, poolSize := 0,
    st := .resident, past := false, needsReplay := false, saved := [] }

/-- A device with one gang, which issues. -/
def st (g : Gang) (b : Block) : State :=
  { State.reset with
    gangs := [(0, g)], blocks := [(0, b)], ctxs := [(0, ctx)]
    cur := some { gang := 0, entry := 0, words := [], stuffed := none } }

/-- What issues there. -/
def iss (g : Gang) (b : Block) : Issue :=
  { cur := { gang := 0, entry := 0, words := [], stuffed := none }, g := g, b := b, f := frag }

/-- The same from the program buffer. -/
def stuffedSt : State := { st gang blk with cur := some { gang := 0, entry := 0, words := [], stuffed := some 1 } }
def stuffedIss : Issue := { iss gang blk with cur := { gang := 0, entry := 0, words := [], stuffed := some 1 } }

/-- Hypotheses of the statements about issued instructions: a gang issues. -/
theorem witness_issuing : issuing (st gang blk) = some (iss gang blk) ∧ (st gang blk).cur.isSome = true := ⟨rfl, rfl⟩

/-- BytesDecode, PlacedWordRuns, EveryInstructionRuns: an instruction with words that is well formed; a step without. -/
theorem witness_BytesDecode : hasWords .nop = true ∧ wellFormed .nop = true ∧ hasWords (.heartbeat) = false := by decide

/-- DecodeSound. -/
theorem witness_DecodeSound : decodeWords 0x08030850 0 0 = .instr (.sadd 3 2 5) := by decide

/-- A state whose next step is the turn of a gang with fetched words, for StepRunsDecoded; its two clauses differ in the word. -/
def placed (w : Nat) : State := State.reset.withFetchWord 32 w

/-- What StepRunsDecoded assumes of a state whose first turn is that of gang 0: the gang may issue, and its fragment has its words. -/
def mayIssue (s : State) (g : Gang) (b : Block) (f : Frag) : Bool :=
  let s1 := endWaits (putGang { s with turns := [] } 0 { g with turn := g.turn + 1 }) 0 { g with turn := g.turn + 1 } b
  match tabFind s1.gangs 0 with
  | some g' =>
    let g2 := searchSlot s1 0 g' b
    s.agenda == [] && s.turns == [0] && tabFind s.gangs 0 == some g && tabFind s.blocks g.block == some b && !g.retired &&
      !(g.pausing && g.pauseLeft == 0 && !stopped s b g) && !(matrixNext s g b && lowerPipe s g b []) && (tabFind s.stuffing b.core).isNone && searches s1 g' b &&
      tabFind g2.frags g2.cur == some f && (fragReason s1 0 g2 b f).isNone && fetched f && (breakHit s1 b g2 f).isNone
  | none => false

/-- The gang and block of a placed word. -/
def placedGang (w : Nat) : Gang := (tabFind (placed w).gangs 0).getD gang
def placedBlk (w : Nat) : Block := (tabFind (placed w).blocks 0).getD blk

/-- StepRunsDecoded: the hypotheses hold with a word that decodes, and with one that does not. -/
theorem witness_StepRunsDecoded :
    (mayIssue (placed 0) (placedGang 0) (placedBlk 0) { frag with words := [0] } = true ∧ decodeWords 0 0 0 = .instr .nop) ∧
    (mayIssue (placed 0x78000000) (placedGang 0x78000000) (placedBlk 0x78000000) { frag with words := [0x78000000] } = true ∧
      decodeWords 0x78000000 0 0 = .illegal 2) := by decide

/-- ScalarOneTurn: instructions of both classes, and a destination s0. -/
theorem witness_ScalarOneTurn :
    scalarParts? (.sadd 0 1 2) = some (1, 0, 0x00420) ∧ BitVec.extractLsb' 16 6 (0x00420 : BitVec 22) = 0 ∧
    scalarParts? (.saddi 3 1 2) = some (2, 0, 0x30402) := by decide

/-- PlainControlResults: a FENCE with an empty set, and one with two. -/
theorem witness_PlainControlResults : ((0 : BitVec 6) = 0 ∨ (1 : BitVec 6) = 0) ∧ ((1 : BitVec 6) ≠ 0 ∧ (2 : BitVec 6) ≠ 0) := by decide

/-- A census of the block, complete or not. -/
def census (done : Bool) : Census :=
  { gang := 0, block := 0, core := 0, launch := 1, ctx := 0, world := 0, key := 7, ctrl := 0, query := 0, result := 0x100, timeout := 0,
    issued := 0, order := 0, lateSent := false, toReach := [], reported := [], counted := 0, responded := 0, pending := [],
    fields := [0, 0, 0, 0], any := false, combined := 0, complete := done, consumed := false, orphan := false }

/-- A matrix queue entry of the gang's first batch. -/
def mat (op : Nat) (f : Lane) : MatEntry :=
  { id := 5, gang := 0, before := [0], block := 0, batch := 1, op := op, f := f, x := 0, y := 0, z := 0 }

/-- WaitConditions: a counter at its limit and above it, a batch that holds and none, no census, an open and a complete one, and a
barrier whose phase is the one given and not. -/
theorem witness_WaitConditions :
    pathCount gang 0 ≤ (sreg gang 0).toNat ∧ (sreg gang 0).toNat < pathCount { gang with paths := [(0, 1)] } 0 ∧
    mwaitHolds (st gang blk) 0 0 1 1 = false ∧
    mwaitHolds { st { gang with bn := 1 } blk with mq := [(0, [mat 3 (lane 12 0 0 0 0 0)])] } 0 0 1 1 = true ∧
    blockCensus (st gang blk) 0 0 = none ∧ (census false).complete = false ∧ (census true).complete = true ∧
    blockCensus { st gang blk with censuses := [(0, census false)] } 0 0 = some (0, census false) ∧
    blockCensus { st gang blk with censuses := [(0, census true)] } 0 0 = some (0, census true) ∧
    padInside blk 0 16 = true ∧ (readBarrier blk 0).phase = (sreg gang 0).getLsbD 0 ∧
    (readBarrier blk 0).phase ≠ (sreg { gang with s := [(1, 1)] } 1).getLsbD 0 ∧ padOpen (st gang blk) 0 0 blk 0 0 16 = false := by decide

/-- ReturnsAndRegroup: the states in which each completes, and the one in which ERET traps. -/
theorem witness_ReturnsAndRegroup :
    (63 : BitVec 9).toNat < blk.regs ∧ gang.frags.length ≤ 1 ∧ gstatWide gang = false ∧ gstatCont gang = false ∧
    gstatTm { gang with gstat := 0x100 } = true ∧ gstatTm gang = false := by decide

/-- TrapEntry: a trap that is taken, one in TM, and one without a vector, with an event ring that has no room. -/
theorem witness_TrapEntry :
    (iss gang blk).cur.stuffed = none ∧ gstatTm gang = false ∧ trapVector (st gang blk) (iss gang blk) ≠ 0 ∧
    gstatTm { gang with gstat := 0x100 } = true ∧ trapVector { st gang blk with ctxs := [] } (iss gang blk) = 0 ∧
    eventRoom (st gang blk) (contextRing (st gang blk) 0) = none ∧ (st gang blk).events.kept.length < 64 := by decide

/-- A responder's block. -/
def respBlk : Block := { blk with responder := some { census := 0, counted := 0, deferred := false, responded := false } }

/-- A device whose debug unit serves context 0 with breaks on DBGB. -/
def debugged : State := { st gang blk with sys := [(.debug 0 0, 0x1F)] }

/-- StateTraps: the state of each clause. -/
theorem witness_StateTraps :
    gstatWide gang = false ∧ gstatWide { gang with gstat := 0x400 } = true ∧ gstatCont { gang with gstat := 0x200 } = true ∧
    gang.monitor = none ∧ blk.responder = none ∧ respBlk.responder.isSome = true ∧ blk.regs ≤ (64 : BitVec 9).toNat ∧
    (63 : BitVec 9).toNat < blk.regs ∧ 1 < ({ gang with frags := [(0, frag), (1, frag)] } : Gang).frags.length ∧
    unitOn (st gang blk) blk 1 = false ∧ unitOn debugged blk 1 = true ∧ debugPermitted debugged 0 0 = true ∧
    debugPermitted debugged 0 5 = false ∧ readDesc blk 0 = none := by decide

/-- RegisterTraps: a destination, or a tile, that breaks its limit, for each form. -/
theorem witness_RegisterTraps :
    (let i := iss gang { blk with acc := 4 }
     [(0, 0), (1, 0), (2, 0), (3, 0), (4, 0), (5, 0), (5, 2), (6, 1), (7, 0), (7, 6)].all fun p =>
       laneBreach (laneRowD p.1 p.2) (lane 0 0 64 65 0 0) i.b.regs i.b.acc != 0) = true ∧
    laneParts? (.iadd (lane 0 0 64 65 0 0)) = some (0, 0, lane 0 0 64 65 0 0) ∧
    laneParts? (.mout (lane 0 0 64 65 0 0)) = some (7, 6, lane 0 0 64 65 0 0) := by decide

/-- SystemReads and SystemWrites: inside and outside the program buffer, a number that is assigned and one that is not. -/
theorem witness_SystemReads :
    issuing stuffedSt = some stuffedIss ∧ stuffedIss.cur.stuffed.isSome = true ∧ (iss gang blk).cur.stuffed = none ∧
    ((sreg gang 0).toNat + (0x010 : BitVec 10).toNat = (0x010 : BitVec 10).toNat ∧ sysNumberAssigned 0x010 = true) ∧
    sysNumberAssigned ((sreg gang 0).toNat + (0x3FF : BitVec 10).toNat) = false ∧
    1024 ≤ (sreg { gang with s := [(1, 0x400)] } 1).toNat + (0 : BitVec 10).toNat := ⟨rfl, rfl, rfl, by decide, by decide, by decide⟩

/-- Gang 0 with the fragments given, of which the one at entry `n` issues. -/
def stAt (g : Gang) (n : Nat) : State := { st g blk with cur := some { gang := 0, entry := n, words := [], stuffed := none } }

/-- What issues there. -/
def issAt (g : Gang) (n : Nat) (f : Frag) : Issue :=
  { iss g blk with cur := { gang := 0, entry := n, words := [], stuffed := none }, f := f }

/-- A fragment of the lanes given. -/
def part (mask : Mask) (link : Option Nat) (w : Wait) : Frag := { frag with mask := mask, link := link, wait := w }

/-- A gang of two fragments whose first waits at JOIN, with the record they share. -/
def forked (target : W64) : Gang :=
  { gang with
    frags := [(0, part 0x0000FFFF (some 0) (.join 0)), (1, part 0xFFFF0000 (some 0) .running)]
    joins := [(0, { target := target, expected := 0xFFFFFFFF, arrived := 0x0000FFFF, encl := none })] }

/-- JoinMeets: no link; a record of another PC; expected lanes that have still to arrive; the last arrival. -/
theorem witness_JoinMeets :
    issuing (st gang blk) = some (iss gang blk) ∧ frag.link = none ∧
    issuing (stAt (forked 0) 1) = some (issAt (forked 0) 1 (part 0xFFFF0000 (some 0) .running)) ∧ (0 : W64) ≠ frag.pc ∧
    issuing (stAt (forked 0x10000) 1) = some (issAt (forked 0x10000) 1 (part 0xFFFF0000 (some 0) .running)) ∧
    gstatWide (forked 0x10000) = false ∧
    (0xFFFFFFFF &&& (forked 0x10000).live &&& ~~~(0x0000FFFF ||| 0xFFFF0000) : Mask) = 0 ∧ 0 < 1 ∧
    (let g := { forked 0x10000 with joins := [(0, { target := 0x10000, expected := 0xFFFFFFFF, arrived := 0, encl := none })] }
     issuing (stAt g 1) = some (issAt g 1 (part 0xFFFF0000 (some 0) .running)) ∧
       (0xFFFFFFFF &&& g.live &&& ~~~(0 ||| 0xFFFF0000) : Mask) ≠ 0) :=
  ⟨rfl, rfl, rfl, by decide, rfl, by decide, by decide, by decide, rfl, by decide⟩

/-- WideBracket: another fragment that runs; the only fragment; an open bracket with one saved fragment. -/
theorem witness_WideBracket :
    (let g := { gang with frags := [(0, part 0x0000FFFF none .running), (1, part 0xFFFF0000 none .running)] }
     issuing (stAt g 1) = some (issAt g 1 (part 0xFFFF0000 none .running)) ∧ gstatWide g = false ∧ g.joins = [] ∧ (0 : Nat) ≠ 1) ∧
    (issuing (st gang blk) = some (iss gang blk) ∧ gang.frags = [(0, frag)]) ∧
    (let g := { gang with gstat := 0x400, saved := [(3, frag)] }
     issuing (st g blk) = some (iss g blk) ∧ gstatWide g = true ∧ g.joins = [] ∧ g.frags = [(0, frag)] ∧
       frag.mask &&& g.live ≠ 0) := ⟨⟨rfl, by decide⟩, ⟨rfl, by decide⟩, rfl, by decide⟩

/-- ExitRetires: the last lanes retire, and others stay. -/
theorem witness_ExitRetires :
    gang.live &&& ~~~frag.mask &&& ~~~gang.helper = 0 ∧ gang.live &&& ~~~(part 0x0000FFFF none .running).mask &&& ~~~gang.helper ≠ 0 := by
  decide

/-- A gang with predicate k1 true in the lower lanes. -/
def halfGang : Gang := { gang with k := [(1, 0x0000FFFF)] }

/-- LaneBranchSplits: every lane, no lane, and half of the lanes active, with free entries and records; one PC for all lanes. -/
theorem witness_LaneBranchSplits :
    issuing (st halfGang blk) = some (iss halfGang blk) ∧ frag.mask ≠ 0 ∧
    activeMask (iss halfGang blk) 0 false = frag.mask ∧ activeMask (iss halfGang blk) 0 true = 0 ∧
    (activeMask (iss halfGang blk) 1 false ≠ 0 ∧ activeMask (iss halfGang blk) 1 false ≠ frag.mask ∧ lowLane frag.mask = some 0 ∧
      tabFree halfGang.joins 32 = some 0 ∧ tabFree halfGang.frags 32 = some 1 ∧
      (0x10000 + BitVec.ofInt 64 (4 * (0 : BitVec 22).toInt) : W64) ≠ 0x10000 + 12) ∧
    (laneBreach (laneRowD 6 1) (lane 0 0 0 0 0 0) blk.regs blk.acc = 0 ∧
      (List.range 32).all (fun l => (activeMask (iss halfGang blk) 0 false).getLsbD l &&
        (addrVal (iss halfGang blk) 0 l &&& 0xFFFFFFFFFFFFFFFC == 0)) = true) := ⟨rfl, by decide⟩

/-- LaneBranchSplits: a gang whose join records are all taken; a computed branch whose lanes have two targets. -/
theorem witness_branchTargets :
    (let g := { halfGang with joins := (List.range 32).map fun j => (j, { target := 0, expected := 1, arrived := 0, encl := none }) }
     issuing (st g blk) = some (iss g blk) ∧ tabFree g.joins 32 = none ∧ tabFree g.frags 32 = some 1) ∧
    (let i := iss halfGang blk
     let next (l : Nat) : W64 := if (activeMask i 1 false).getLsbD l then addrVal i 0 l &&& 0xFFFFFFFFFFFFFFFC else i.f.pc + 12
     let leads := (List.range 32).filter fun l =>
       i.f.mask.getLsbD l && (List.range l).all fun k => !(i.f.mask.getLsbD k && next k == next l)
     leads = [0, 16] ∧ ((List.range 32).filter fun e => (tabFind i.g.frags e).isNone).length = 31 ∧
       laneBreach (laneRowD 6 1) { lane 0 0 0 0 0 0 with guard := 1 } blk.regs blk.acc = 0) :=
  ⟨⟨rfl, by decide, by decide⟩, by decide⟩

/-- The statements of lane instructions: RegsOk holds for every op of the lane opcode map, with plain operands, and breaks. -/
theorem witness_RegsOk :
    (laneRows.all fun r => laneBreach (laneRowD r.cls r.op) (lane (if r.cls == 2 || r.cls == 4 then 4 else 0) 0 2 4 8 12)
      blk.regs blk.acc == 0) = true ∧
    laneBreach (laneRowD 0 0) (lane 0 0 64 4 6 0) blk.regs blk.acc ≠ 0 := by decide

/-- RoundingKeepsRepresentable: a finite pattern. -/
theorem witness_RoundingKeepsRepresentable :
    f16 ∈ [f64, f32, bf16, f16, e5m2, e4m3] ∧ 0x3C00 < 2 ^ (fmtBits f16 + 1) ∧ ∀ sn, fval f16 0x3C00 ≠ .nan sn := by decide

/-- TranscendentalResults: a type that its ops have, and a value in each range. -/
theorem witness_TranscendentalResults :
    (lane 4 0 2 4 0 0).ty = 4 ∧ 0x7F800000 < 0x7FC00000 % 2 ^ 31 ∧ (2 ^ 31 < 0x80000001 ∧ 0x80000001 < 0xFF800000) ∧
    (1 ≤ 127 ∧ 127 ≤ 253 ∧ 127 % 2 = 1) ∧ (5 < 23 ∧ 5 % 2 = 1) ∧
    (0x3F800001 < 2 ^ 31 ∧ 0 < 0x3F800001 % 2 ^ 31 ∧ 0x3F800001 % 2 ^ 31 < 0x4111999A ∧ 0x3F800001 % 2 ^ 23 ≠ 0 ∧
      (∀ k, k < 23 → 0x3F800001 ≠ 2 ^ k) ∧ 0x3F800001 % 2 ^ 31 ≠ 2 ^ 22) ∧ (0x43000000 ≤ 0x43000000 ∧ 0x43000000 < 0x7F800000) ∧
    (0xC3160000 ≤ 0xC3160000 ∧ 0xC3160000 < 0xFF800000) ∧ (0x4111999A ≤ 0x4111999A ∧ 0x4111999A < 0x7F800000) := by decide

/-- ConversionResults and ExchangeResults: packed types and others, VOTE with and without a predicate destination. -/
theorem witness_ConversionResults :
    [(6, 0x36), (7, 0x36), (8, 0x36)].all (fun p => laneBreach (laneRowD 3 1) (lane p.1 p.2 2 4 8 0) blk.regs blk.acc == 0) = true ∧
    ((lane 12 2 2 0 0 0).mod.toNat % 4 = 2 ∧ (lane 12 1 2 0 0 0).mod.toNat % 4 ≠ 2 ∧
      laneBreach (laneRowD 4 2) (lane 12 2 2 0 0 0) blk.regs blk.acc = 0) := by decide

/-- PrefetchAndCacheOps: an armed monitor, and a space without translation beside one with. -/
theorem witness_PrefetchAndCacheOps :
    issuing (st { gang with monitor := some 0x100 } blk) = some (iss { gang with monitor := some 0x100 } blk) ∧
    translated (spaceOf 1) = false ∧ translated (spaceOf 0) = true := ⟨rfl, by decide⟩

/-- CacheOpLines: a range of two lines, at the top of the address space. -/
theorem witness_CacheOpLines : (0xFFFFFFFFFFFFFFC0 - 1 : Nat) + min (65 : W64).toNat (2 ^ 32) ≤ 2 ^ 64 ∧
    cmoLines 0xFFFFFFFFFFFFFFBF 65 = [0xFFFFFFFFFFFFFF80, 0xFFFFFFFFFFFFFFC0] := by decide

/-- A block whose pad begins with these bytes. -/
def padded (bs : List Byte) : Block := { blk with pad := ((List.range bs.length).zip bs).filter fun e => e.2 != 0 }

/-- A legal copy descriptor of one byte from global memory to the pad, written out from R263. -/
def descBytes : List Byte := List.replicate 16 0 ++ [1] ++ List.replicate 27 0 ++ [4] ++ List.replicate 19 0

/-- A follow-on record: MMAT of f32 accumulation into tile 0 from three literals, written out from R266 and R290. -/
def followBytes : List Byte := (encode (.mmat { lane 4 0 0 0x204 0x204 0x204 with nwb := false })).flatMap bytesOfWord ++ List.replicate 20 0

/-- A group of the block's context with the block as its only member. -/
def group : Group := { ctx := 0, id := 5, count := 1, members := [0], left := 0, round := none, held := [] }

/-- CopyAndGroupIssues: a legal descriptor, with a follow-on; a refused enrolment; a member whose records are legal, and one whose
records are not. -/
theorem witness_CopyAndGroupIssues :
    (readDesc (padded descBytes) 0).map (fun d => (d.mc, d.dsp == .p)) = some (false, true) ∧
    (readFollow (padded (descBytes ++ followBytes)) 0).isSome = true ∧
    (0 : W64).toNat = 0 ∧ 24 < (25 : W64).toNat ∧
    memberGroup (st gang blk) 0 blk 5 = none ∧
    (let b := padded (List.replicate 8 0 ++ [16])
     let s := { st gang b with groups := [(0, group)] }
     gloadStatus s 0 b 5 0 = 0 ∧ gputStatus s 0 b 5 0 = 0 ∧ gloadStatus s 0 blk 5 0 = 8 ∧ gputStatus s 0 blk 5 0 = 8 ∧
       gloadStatus (st gang b) 0 b 5 0 = 6 ∧ gputStatus { s with groups := [(0, { group with count := 2 })] } 0 b 5 0 = 9) := by decide

/-- A legal descriptor of a copy that group 5 shares, of 16 bytes, written out from R263. -/
def groupDesc : List Byte := List.replicate 16 0 ++ [16] ++ List.replicate 27 0 ++ [4, 0x48] ++ List.replicate 6 0 ++ [5] ++
  List.replicate 11 0

/-- CopyAndGroupIssues: a copy of a group that takes part, and one that is refused; a member that leaves a group of two; an enrolment that
opens a group, and one that joins it. -/
theorem witness_groupIssues :
    (let b := padded groupDesc
     let s := { st gang b with groups := [(0, group)] }
     (readDesc b 0).map (fun d => (d.mc, d.group)) = some (true, 5) ∧ memberGroup s 0 b 5 = some (0, group) ∧
       askPending s group 0 = false ∧ memberGroup (st gang b) 0 b 5 = none) ∧
    (let g := { group with members := [0, 4], count := 2 }
     let s := { st gang blk with groups := [(0, g)] }
     memberGroup s 0 blk 5 = some (0, g) ∧ g.members.erase 0 ≠ [] ∧ group.members.erase 0 = []) ∧
    (groupOf (st gang blk) 0 5 = none ∧ ((List.range 64).find? fun k => (tabFind (st gang blk).groups (64 * sectorOf 0 + k)).isNone) = some 0 ∧
      (let g := { group with members := [4], count := 2 }
       groupOf { st gang blk with groups := [(0, g)] } 0 5 = some (0, g) ∧ g.members.length + g.left ≠ g.count)) := by decide

/-- A directory entry of the block's context. -/
def entry (d : DirState) : DirEntry := { key := 7, handle := 1, entry := 2, ctx := 0, st := d }

/-- SolicitAndLaunchIssues: no responder with a legal descriptor; a responder that has not answered; plain registers. -/
theorem witness_SolicitAndLaunchIssues :
    blk.responder = none ∧ solicitOk 0 0x100 = true ∧ respBlk.responder.isSome = true ∧
    tabFind ({ st gang respBlk with censuses := [(0, census false)] } : State).censuses 0 = some (census false) ∧
    laneBreach (laneRowD 6 2) (lane 0 0 2 4 8 0) blk.regs blk.acc = 0 := by decide

/-- The gang with its one fragment in this wait. -/
def waiting (w : Wait) : Gang := { gang with frags := [(0, { frag with wait := w })] }

/-- A request of gang 0 in its context's addresses. -/
def req (k : ReqKind) (st : Stage) (ps : List Part) : Req :=
  { agent := .gang 0, before := [0], access := some 1, cmd := none, unit := none, core := 0, ctx := 0, world := 0, asid := 0, seq := 0,
    kind := k, space := .g, va := 0x10000, pa := 0, leaf := { basin := 0, first := false, dom := 0, tier := false, w := true, size := 65536 },
    order := .rlx, scope := 0, urgent := false, parts := ps, stage := st, entered := 0, slice := 0 }

/-- One part of `n` bytes at an offset of its line. -/
def bytesAt (o n : Nat) (data : List Byte) : Part := { lane := 0, off := o, pos := 0, len := n, data := data, cmp := [], res := [] }

/-- An access of gang 0. -/
def acc (d : Dest) : Access :=
  { gang := 0, before := [0], seq := 0, path := some 0, sets := setsR, order := .rlx, scope := 0, space := .g, dest := d, mask := 1,
    landed := false, cmd := none, status := [], dir := none }

/-- A performed request whose part brought four bytes. -/
def brought (k : ReqKind) : Req := req k .done [{ bytesAt 0 4 [] with res := [1, 2, 3, 4] }]

/-- GangSteps: each clause's premises, a REGROUP that keeps its gang among them. -/
theorem witness_GangSteps :
    ((st gang blk).cur.map (·.gang) = some 0 ∧ (tabFind (st gang blk).blocks gang.block).isSome = true) ∧
    ({ gang with pausing := true } : Gang).pauseLeft = 0 ∧
    (barrierReady (st (waiting .bsync) blk) 0 = some (false, [0]) ∧ ([0] : List Nat).Nodup) ∧
    (regroupReady (st (waiting (.regroup 0x04C00001)) blk) 0 = some (0x04C00001, [(0, waiting (.regroup 0x04C00001))]) ∧
      (([(0, waiting (.regroup 0x04C00001))]).all fun e => regroupWord e.2 == some 0x04C00001) = true ∧
      (0x04C00001 : W32).getLsbD 0 = true) ∧
    (let r := brought (.fetch 0 0x10000)
     fetchReady { st gang blk with reqs := [(7, r)] } r = true ∧ reqGang r = some 0 ∧ fetchNext gang r = some (0, frag)) ∧
    ({ gang with monitor := some 0x100, woken := true } : Gang).monitor = some 0x100 ∧
    (waiting (.mwaitvIdle 1 0 5)).frags = [(0, { frag with wait := .mwaitvIdle 1 0 5 })] ∧ 5 + 4096 ≤ 5000 := by decide

/-- GangSteps: two gangs at one REGROUP whose lanes do not fit in one; two at different ones; an idle monitor read in one of two
fragments. -/
theorem witness_regroupPairs :
    let two (w : W32) : State := { st (waiting (.regroup 0x04C00000)) { blk with gangs := 2 } with
      gangs := [(0, waiting (.regroup 0x04C00000)), (1, { waiting (.regroup w) with gid := 1 })] }
    (regroupReady (two 0x04C00000) 0).map (fun p => (p.1, p.2.map (·.1), (p.2.all fun e => regroupWord e.2 == some 0x04C00000),
      (regroupSel p.2 0).length)) = some (0x04C00000, [0, 1], true, 64) ∧
    (regroupReady (two 0x04C00010) 0).map (fun p => (p.1, p.2.map (·.1), p.2.all fun e => regroupWord e.2 == some 0x04C00000)) =
      some (0x04C00000, [0, 1], false) ∧
    (0x04C00000 : W32).getLsbD 0 = false ∧ ctx.trapv ≠ 0 ∧ gstatTm (waiting (.regroup 0x04C00000)) = false ∧
    (([(0, part 0xFFFF (some 0) (.mwaitvIdle 1 0 5)), (1, part 0xFFFF0000 (some 0) .running)] : Tab Frag).map (·.1)).Nodup := by decide

/-- A clean line of world 0. -/
def lineOf (x : Line) : CacheLine := { data := x, dirty := false, poison := false, world := 0, dom := 0, basin := 0 }

/-- A device whose tables map the first GiB to itself: two tables and a leaf of kind 3 with V, R and W, written out from R173, their
lines held in the basin. -/
def mapped : State :=
  { st gang blk with
    caches := { Caches.reset with
      basin := [(0, lineOf (1 + 0x20 * 2 ^ 72)), (0x80, lineOf (1 + 0x40 * 2 ^ 72)), (0x100, lineOf 0x37)] } }

/-- TranslationAndCompletion: a request that the tables translate, one that nothing maps, and accesses that complete and that stay behind
an older one of their path. -/
theorem witness_TranslationAndCompletion :
    (let r := req .read .walk [bytesAt 0 4 []]
     let walks (s : State) (r : Req) : Bool := walkReady s 9 r && decide (chainBehind s 9 r = none) && !walkersShut s r && r.kind != .pref &&
       (walkHeld s 9 r).isNone && r.ctx != physCtx && decide (parkCount s (parkDie r) false < 4096) && r.core < 288 &&
       (tlbLookup s r.core r.world r.asid r.va).isNone && (tabFind s.ctxs r.ctx).isSome
     let walk (s : State) (r : Req) : Nat ⊕ Cause := match (translate s (walkUnit 9) r.core r.ctx r.world r.asid r.kind r.va).1 with
       | .ok pa _ => .inl pa
       | .fail c => .inr c
     (walks mapped r && decide (walk mapped r = .inl 0x10000)) = true ∧
     (walks (st gang blk) r && decide (walk (st gang blk) r = .inr .notMapped)) = true ∧
     (let r := { req (.cmo 0) .walk [] with access := some 1 }
      walks (st gang blk) r && decide (walk (st gang blk) r = .inr .notMapped)) = true) ∧
    (let s := { st gang blk with accs := [(1, acc (.scalar 3))], reqs := [(7, brought .read)] }
     routeOf s (acc (.scalar 3)) = .resident ∧ accMoves s 1 (acc (.scalar 3)) = true ∧
       (accFree (acc (.scalar 3)) && pathFirst s 1 (acc (.scalar 3))) = true) ∧
    (let s := { st gang blk with accs := [(0, acc .none), (1, acc (.lane 3 4 false))], reqs := [(7, brought .read)] }
     accMoves s 1 (acc (.lane 3 4 false)) = true ∧ (accFree (acc .none) && pathFirst s 1 (acc .none)) = false) := by decide

/-- TranslationAndCompletion: a walk of two tables to a leaf of 1 GiB that allows a read and a write and no fetch, and of world 0; an
entry that is not valid, one that is malformed, and an address outside the 57 bits. -/
theorem witness_walkEntries :
    let s := { mapped with caches := { mapped.caches with basin := [(0, lineOf (1 + 0x20 * 2 ^ 72)), (1, lineOf 0x11), (0x80, lineOf (1 + 0x40 * 2 ^ 72)),
                                                                    (0x100, lineOf 0x37)] } }
    let word (a : Nat) : W64 := BitVec.ofNat 64 (leNat (physReadOf s (walkUnit 9) a 8))
    let pointer (a : Nat) : Bool := (word a).getLsbD 0 && wbits (word a) 31 4 == 0 && wbits (word (a + 8)) 63 56 == 0
    (pointer 0 && word 8 == 0x2000 && pointer 0x2000 && word 0x2008 == 0x4000) = true ∧
    ((word 0x4000).getLsbD 0 && wbits (word 0x4000) 5 4 == 3 && wbits (word 0x4000) 31 6 == 0 && word 0x4008 == 0 && !inTier 0 &&
      (word 0x4000).getLsbD 1 && (word 0x4000).getLsbD 2 && !(word 0x4000).getLsbD 3) = true ∧
    (word 16).getLsbD 0 = false ∧ ((word 64).getLsbD 0 && wbits (word 64) 5 4 == 1) = true ∧
    (2 ^ 57 : W64).getLsbD (57 + 0) ≠ (2 ^ 57 : W64).getLsbD 56 := by decide

/-- TranslationAndCompletion: a completion for each kind of destination. -/
theorem witness_destinations :
    [Dest.scalar 3, .lane 3 1 true, .lane 3 16 false, .pred 2, .monitor 0, .none].all (fun d =>
      let s := { st (waiting (.mwaitvRead 1 0 1)) blk with accs := [(1, acc d)], reqs := [(7, brought .read)] }
      routeOf s (acc d) == .resident && accMoves s 1 (acc d) && !(acc d).landed) = true ∧
    (waiting (.mwaitvRead 1 0 1)).frags = [(0, { frag with wait := .mwaitvRead 1 0 1 })] ∧ 16 ∈ [1, 2, 4, 8, 16] := by decide

/-- A device whose home slice holds the line at 0 of this request, with its access open. -/
def home (r : Req) : State :=
  { st gang blk with
    accs := [(1, acc .none)], reqs := [(7, r)], caches := { Caches.reset with l2 := [(lineKey 0 0, lineOf 0)] } }

/-- A device on which a directory instruction of gang 0 stands at its core, with these parts, directory entries and block. -/
def directing (op : DirOp) (ps : List Part) (ds : Tab DirEntry) (b : Block) : State :=
  { st gang b with
    accs := [(1, { acc (.scalar 3) with dir := some op })], reqs := [(7, { req .read .home ps with space := .p })], dirs := ds }

/-- DirectoryIssues: its record and its entry in the pad; no HOME entry and one; a destination core that exists, the core itself, and one
that does not. -/
theorem witness_DirectoryIssues :
    (let rec16 : Part := innerPart 0 (BitVec.ofNat 64 0) 16 [] []
     let r := { req .read .home [rec16] with space := .p }
     let ok := padded (List.replicate 8 0 ++ [4])
     let bad := padded (List.replicate 8 0 ++ [1])
     homeReady (directing (.add 7) [rec16] [] ok) 7 r = true ∧ r.order = .rlx ∧ r.cmd = none ∧ r.access = some 1 ∧ ok.padSize ≤ 2 ^ 26 ∧
       responderEntryOk (BitVec.ofNat 64 (leAt (padBytes ok 0 16) 8 8)) = true ∧ freeDirEntry (directing (.add 7) [rec16] [] ok) 0 = some 0 ∧
       responderEntryOk (BitVec.ofNat 64 (leAt (padBytes bad 0 16) 8 8)) = false) ∧
    (let r := { req .read .home [] with space := .p }
     homeReady (directing (.del 7) [] [] blk) 7 r = true ∧ homeEntry (directing (.del 7) [] [] blk) 0 0 7 = none ∧
       homeEntry (directing (.del 7) [] [(3, entry .home)] blk) 0 0 7 = some 3 ∧
       homeReady (directing (.mov 7 5) [] [(3, entry .home)] blk) 7 r = true ∧
       tabFind (directing (.mov 7 5) [] [(3, entry .home)] blk).dirs (256 * 0 + 3) = some (entry .home)) ∧
    287 < (288 : W64).toNat ∧ (287 : W64).toNat ≤ 287 ∧ (287 : W64).toNat ≠ blk.core ∧ (0 : W64).toNat = blk.core := by decide

/-- HomeAccesses: a write, a read, an atomic and a compare-and-swap of four bytes at their home, and the same in the pad. -/
theorem witness_HomeAccesses :
    [req .write .home [bytesAt 4 4 [1, 2, 3, 4]], { req .read .home [bytesAt 4 4 []] with order := .acq, scope := 5 },
     req (.rmw .add 0) .home [bytesAt 4 4 [1, 2, 3, 4]],
     req .cas .home [{ bytesAt 4 4 [1, 2, 3, 4] with cmp := [0, 0, 0, 0] }]].all (fun r =>
      homeReady (home r) 7 r && translated r.space && r.cmd.isNone && decide (chainBehind (home r) 7 r = none) &&
        !isRemote (home r) r.pa && (extentOf (home r) r.pa).isNone && !granuleMoving (home r) r.pa && !writeHeld (home r) r &&
        !r.leaf.first && !splitHolds (home r) 7 r && ownerAllows (home r) r && homeOf (home r) r.pa r.leaf r.core == r.slice &&
        (tabFind (home r).caches.l2 (lineKey r.slice r.pa)).isSome && r.access.isSome && (tabFind (home r).accs 1 == some (acc .none)) &&
        (r.kind != .read || !l1May r)) = true ∧
    [req .write .home [bytesAt 4 4 [1, 2, 3, 4]], req .read .home [bytesAt 4 4 []], req (.rmw .max 1) .home [bytesAt 4 4 [1, 2, 3, 4]],
     req .cas .home [{ bytesAt 4 4 [1, 2, 3, 4] with cmp := [0, 0, 0, 0] }]].all (fun r =>
      let r := { r with space := .p }
      homeReady (home r) 7 r && r.cmd.isNone && decide (r.agent = .gang (32 * 0 + 0)) && padInside blk 4 4 && decide (blk.padSize ≤ 2 ^ 20) &&
        (tabFind (home r).blocks 0 == some blk) && (tabFind (home r).accs 1 == some (acc .none))) = true := by decide

/-- A device with these requests. -/
def withReqs (rs : List (Nat × Req)) : State := { st gang blk with reqs := rs }

/-- A park record of die 0, and the park ring that takes it. -/
def record : ParkRec :=
  { die := 0, ring := 0, world := 0, asid := 0, page := 0x10000, cause := .notMapped, since := 0, count := 1, cores := 1, spilled := false,
    hub := false, pa := 0, ctx := 0 }

/-- A gang saved with its block, whose access comes late, in a context whose image is mapped. -/
def away : State :=
  { mapped with
    gangs := [], blocks := [], savedGangs := [(0, gang)], savedBlocks := [(0, { blk with gangs := 0, padSize := 0, acc := 0 })]
    ctxs := [(0, { ctx with st := .saved, save := 0x100000, saved := [0] })], accs := [(1, acc (.scalar 3))]
    reqs := [(7, brought .read)] }

/-- MemorySystemSteps: a controller's next request; a bank whose window has ended; a request at the lower tier, alone and behind a
parked one of its line; one spilled, and one stopped behind an empty spill queue, with room; a record and a ring with room; a late
completion. -/
theorem witness_MemorySystemSteps :
    (ctrlNext (withReqs [(7, req .read .ctrl [])]) 0 0).map (·.1) = some 7 ∧
    windowFull (withReqs [(7, req .read .ctrl [])]) (req .read .ctrl []) = false ∧ unitDead (withReqs []) 14 0 = false ∧
    basinWindow { withReqs [] with caches := { Caches.reset with misses := [(0, 0x10000)] } } 0 ≤
      bankMisses { withReqs [] with caches := { Caches.reset with misses := [(0, 0x10000)] } } 0 0 ∧
    (let two := withReqs [(7, req .read (.parked .poison 1 none false) []), (9, req .read .tier [])]
     chainBehind (withReqs [(9, req .read .tier [])]) 9 (req .read .tier []) = none ∧ isCmo (req .read .tier []).kind = false ∧
       chainBehind two 9 (req .read .tier []) = some (7, .poison) ∧ parkTakes two (parkDie (req .read .tier [])) = true ∧
       homeOf two 0 (req .read .tier []).leaf 0 = (req .read .tier []).slice ∧ ({ req .read .tier [] with accepted := true } : Req).accepted = true ∧
       ((withReqs []).caches.l2.filter fun e => e.1 / 2 ^ 50 == 0).length < sliceLines (withReqs []) 0 ∧
       tabFind (withReqs []).caches.basin 0 = none) ∧
    (granuleMoving (withReqs []) 0 = false ∧ extentOf (withReqs []) 0 = none ∧ backAddr (withReqs []) 0 = 0 ∧
      parkTakes (withReqs []) (parkDie (req .read .tier [])) = true ∧ tabFind (withReqs []).caches.l2 (lineKey 0 0) = none ∧
      tabFind (home (req .read .tier [])).caches.l2 (lineKey 0 0) = some (lineOf 0)) ∧
    ((firstIn (sliceReqs (withReqs [(7, req .read .spill [])]) (48 * 0 + 0) .spill)).map (·.1) = some 7 ∧
      sliceReqs (withReqs [(7, req .read .stopped [])]) (48 * 0 + 0) .spill = [] ∧
      (firstIn (sliceReqs (withReqs [(7, req .read .stopped [])]) (48 * 0 + 0) .stopped)).map (·.1) = some 7 ∧
      (queueReqs (withReqs [(7, req .read .spill [])]) (48 * 0 + 0)).length < 1) ∧
    ((nextRecord { withReqs [] with cycle := 0x400, parks := { State.reset.parks with records := [record] } } 0 0).isSome = true ∧
      (let s := { withReqs [] with cycle := 0x400, sys := [(.pkringBase 0, 0x0400000000001000)] }
       (parkRoom s 0).map (·.1) = some 0x1000 ∧ physSent s ringUnit 0x1000 (recordBytes s record 0) = true ∧ isRemote s 0x103F = false)) ∧
    (accMoves away 1 (acc (.scalar 3)) = true ∧ routeOf away (acc (.scalar 3)) = .saved ∧
      lateReady away { blk with gangs := 0, padSize := 0, acc := 0 } 0 = true) ∧
    writeHeld (withReqs []) (req .write .tier []) = false := by decide +kernel

/-- MemorySystemSteps: a slice queue with no room, whatever its size is. -/
theorem witness_fullQueue :
    let s := withReqs ((7, req .read .spill []) :: List.replicate (max 1 Config.sliceQueueSize) (8, req .read .home []))
    (firstIn (sliceReqs s (48 * 0 + 0) .spill)).map (·.1) = some 7 ∧ (tabFind s.reqs 7).isSome = true ∧
      ¬(queueReqs s (48 * 0 + 0)).length < max 1 Config.sliceQueueSize := by
  have hp (id : Nat) (q : Req) : portMarked (withReqs ((7, req .read .spill []) ::
      List.replicate (max 1 Config.sliceQueueSize) (8, req .read .home []))) id q = false := by
    simp [portMarked, withReqs, st, State.reset, req]
  refine ⟨?_, rfl, ?_⟩
  · simp [withReqs, sliceReqs, req, translated, firstIn]
  · simp only [queueReqs, hp]
    simp [withReqs, sliceReqs, req, translated, cmdBegun]

/-- MemorySystemSteps: bytes other than a tier line's own seal that do not open, wherever some exist (log 11). -/
theorem witness_alteredTier (bs : List Byte) (h : bs ≠ tierSeal (withReqs []) 0)
    (ho : Config.openBytes (worldTierKey (withReqs []) (frameOwner (withReqs []) 0)) (tierIv (withReqs []) 0 0)
      (tierAad (withReqs []) 0) bs = none) :
    ¬(bs = tierSeal (withReqs []) 0 ∧ (0 : Nat) = tabGet (withReqs []).tiers.counters (tierByte 0 / 64) 0) ∧
      Config.openBytes (worldTierKey (withReqs []) (frameOwner (withReqs []) 0)) (tierIv (withReqs []) 0 0)
        (tierAad (withReqs []) 0) bs = none := ⟨fun e => h e.1, ho⟩

/-- A device whose core 0 has one matrix instruction queued. -/
def queued (op : Nat) (f : Lane) : State := { st gang blk with mq := [(0, [mat op f])] }

/-- MatrixEffects: an entry at the head of the queue, with pairings of both kinds. -/
theorem witness_MatrixEffects :
    [(0, 0x00), (1, 0x44), (2, 0x46), (3, 0), (4, 0), (5, 0), (6, 0)].all (fun p =>
      let s := queued p.1 (lane 1 p.2 2 4 6 8)
      (matQueue s 0).length == 1 && (tabFind s.blocks (mat p.1 (lane 1 p.2 2 4 6 8)).block).isSome &&
        (tabFind s.gangs (mat p.1 (lane 1 p.2 2 4 6 8)).gang).isSome) = true ∧
    pairingS32 4 4 = true ∧ pairingS32 0 0 = false := by decide

/-- MatrixEffects: partial sums that stay in their range, of operands that are all zero. -/
theorem witness_exactSum :
    let e := mat 0 (lane 1 0x44 2 4 6 8)
    let o := entryOps gang blk e
    let sum (n : Nat) : Int := (tileWord blk e.f.dst.toNat 0).toInt + ((List.range n).map fun k => if o.zero (0 / 64) k then 0
      else elemInt 4 (o.a (0 / 64) k) false * elemInt 4 (o.b (0 % 64) k) false).sum
    (List.range (matDepth 4 / matChunk 4 4 + 1)).all (fun n => decide (-(2 ^ 31) ≤ sum (n * matChunk 4 4) ∧
      sum (n * matChunk 4 4) ≤ 2 ^ 31 - 1)) = true := by decide +kernel

/-- A copy of four bytes. -/
def cmd (k : CmdKind) : Cmd :=
  { kind := k, gang := 0, before := [0], access := 1, block := 0, core := 0, ssp := .g, dsp := .p, src := 0x10000, dst := 0x40, esz := 0,
    ext := [4, 1, 1, 1, 1], str := [0, 0, 0, 0], side := false, total := 4, bar := some 0x10, arr := true, stamp := none, follow := none,
    locks := [], group := 1, rbar := 0x20, range := none, waiting := [], acks := [], buf := [], landed := 4, started := true,
    barDone := false, stampDone := false, done := false, node := none, refused := false }

/-- EngineSteps: a copy before its barrier, before and after its stamp, and before its follow-on; a push whose source is read; a fill
before and after its barrier, with and without its group; a delivery; an acknowledgement; and a round whose timer has run out. -/
theorem witness_EngineSteps :
    (let s := { st gang blk with cmds := [(2, cmd .copy)] }
     payloadDone (cmd .copy) = true ∧ (cmd .copy).follow = none ∧ padPlace s 0 = .core ∧ barClear s 2 (cmd .copy) = true) ∧
    (let c := { cmd .copy with barDone := true, stamp := some 0x1000 }
     let s := { st gang blk with cmds := [(2, c)] }
     payloadDone c = true ∧ stamping s 2 = false ∧ followReady s 2 c = false ∧ stampTurn s 2 c = true ∧ (cmdOwner s c).isSome = true) ∧
    (let c := { cmd .copy with barDone := true, done := true, follow := some ([0x9C084020, 0x81108040, 0x204], [], 1) }
     followReady { st gang blk with cmds := [(2, c)] } 2 c = true) ∧
    (let c := { cmd .gput with waiting := [0], buf := [(0, 1), (1, 2), (2, 3), (3, 4)] }
     let s := { st gang blk with cmds := [(2, c)] }
     pushRead c = true ∧ barClear s 2 c = true ∧ c.waiting.contains 0 = true ∧ padPlace s 0 = .core) ∧
    (let c := { cmd .groupFill with buf := [(0, 1), (1, 2), (2, 3), (3, 4)] }
     let s := { st gang blk with cmds := [(2, c)] }
     fillRead c = true ∧ barClear s 2 c = true ∧ tabFind s.groups 1 = none ∧ c.stamp = none) ∧
    (let r : Round := { range := { va := 0, len := 16, ctl := 0, ext := [], str := [] }, asks := [2], served := [], triggered := false,
                        timer := some 0 }
     tabFind ({ st gang blk with groups := [(1, { group with round := some r })] } : State).groups 1 = some { group with round := some r } ∧
       r.asks.contains 2 = true ∧ group.members ≠ [] ∧ r.triggered = false ∧
     tabFind ({ st gang blk with groups := [(64 * 1 + 3, { group with round := some r })] } : State).groups (64 * 1 + 3) =
       some { group with round := some r }) ∧
    (({ cmd .gput with acks := [0] } : Cmd).acks.contains 0 = true) := by decide

/-- A handoff of entry 3 of core 0 to core 1. -/
def handoff (ix : Option Nat) (departed : Bool) : Handoff :=
  { gang := 0, access := 1, ctx := 0, src := 0, srcIx := 3, dst := 1, dstIx := ix, departed := departed, installed := false,
    freed := false, attached := [], behind := [] }

/-- A device with this handoff. -/
def handing (h : Handoff) : State :=
  { st gang blk with
    accs := [(1, acc (.scalar 3))], handoffs := [(2, h)], dirs := [(3, entry (.leaving 2)), (256 * 1 + 5, entry (.arriving 2))] }

/-- HandoffSteps: a destination with a free entry; an entry reserved; departed and not installed; a destination that is full. -/
theorem witness_HandoffSteps :
    freeDirEntry (handing (handoff none false)) 1 = some 0 ∧ tabFind (handing (handoff none false)).dirs (256 * 0 + 3) = some (entry (.leaving 2)) ∧
    reachFirst (handing (handoff (some 5) true)) (handoff (some 5) true) 1 = false ∧
    reachFirst (handing (handoff (some 5) true)) (handoff (some 5) true) 0 = false ∧
    tabFind (handing (handoff (some 5) true)).dirs (256 * 1 + 5) = some (entry (.arriving 2)) ∧
    askBehind (handing (handoff none false)) 2 (handoff none false) = false ∧ prevOpen (handing (handoff (some 5) false)) (handoff (some 5) false) = false ∧
    [0, 1].all (fun c => !downBehind (handing (handoff (some 5) true)) (handoff (some 5) true) c) = true := by decide

theorem witness_fullDirectory :
    freeDirEntry { handing (handoff none false) with dirs := (3, entry (.leaving 2)) :: (List.range 256).map fun k => (256 + k, entry .home) } 1 =
      none := by decide

/-- A match for a responder of 64 registers. -/
def matched : Match :=
  { census := 0, ctx := 0, key := 7, handle := 1, entry := 0x1000000000000040, query := 0, counted := 0, deferred := false }

/-- CensusSteps: an ask that is ready with a free id; a core that can report, with a match and without; a responder that fits; a
response to combine, in a field and above it; a complete census before and after its result is written; a late one. -/
theorem witness_CensusSteps :
    (let s := { st gang blk with asks := [{ gang := 0, access := 1, census := census false }] }
     (readyAsk s).isSome = true ∧ freeCensus s = some 1 ∧ s.censuses.length < 1024) ∧
    (let s := { st gang blk with censuses := [(5, { census false with toReach := [0, 1] })] }
     canReport s 5 0 = true ∧ (coreDir s 0).all (fun e => e.2.key != 7 || e.2.ctx != 0) = true) ∧
    (let s := { st gang blk with solicits := [(0, [matched])], censuses := [(0, census false)] }
     solicitQueue s 0 = [matched] ∧ (fitCore s 0 (responderNeed matched)).isSome = true ∧ ctxAway s 0 = false ∧ ctx.st ≠ .saving ∧
       ctx.st ≠ .cancelled ∧ ctxBound s 0 ctx = true) ∧
    (let r : Response := { counted := 0, fields := [1, 2, 3, 4], empty := false, gang := 0, bound := 0 }
     ({ census false with pending := [r] } : Census).pending[0]? = some r ∧ releaseDone (st gang blk) r.gang r.bound = true) ∧
    (let s := { st gang blk with censuses := [(0, census false)] }
     unitReq s (0, 0) = none ∧ (census false).combined = (census false).counted) ∧
    (let r := { req .write .done [] with unit := some (0, 0) }
     let s := { st gang blk with censuses := [(0, census false)], reqs := [(7, r)] }
     (unitReq s (0, 0)).map (·.1) = some 7 ∧ (census false).orphan = false) ∧
    (censusLate { st gang blk with cycle := 100 } { census false with timeout := 50, ctrl := 0x1000000 } = true ∧
      (0x1000000 : W64).getLsbD 24 = true ∧ (0 : W64).getLsbD 24 = false) := by decide

/-- Queue 0 of context 0, with a ring of 4 records at 0x8000 that holds one, and a kernel descriptor at 0x9000 (R323, R326). -/
def ringed (rec kernel : Line) : State :=
  { mapped with
    caches := { mapped.caches with basin := mapped.caches.basin ++ [(0x200, lineOf rec), (0x240, lineOf kernel)] }
    sys := [(.lqctl 0, 1), (.lqbase 0, 0x0200000000008000), (.lqptr 0, 1)] }

/-- A record of that kernel with a grid of one block, and the kernel: entry 0x10000, 32 registers, one gang (R323, R324). -/
def launchLine : Line := 0x9000 + 2 ^ 128 + 2 ^ 160 + 2 ^ 176
def kernelLine : Line := 0x10000 + 32 * 2 ^ 64 + 2 ^ 80

/-- A launch of context 0 with no unit placed yet. -/
def launchOne : Launch :=
  { queue := 0, slotSeq := 0, ctx := 0, entry := 0x10000, args := 0, x := 1, y := 1, z := 1, sx := 32, sy := 1, sz := 1, size := 1,
    team := false, regs := 32, gangs := 1, pad := 0, acc := 0, copyq := 0, zpriv := 0, dies := 15, done := none, yieldw := none, prio := 0,
    placed := 0, retired := 0, uids := [], node := none, regions := [], graph := false }

/-- A device with this dispatcher. -/
def dispatching (d : Disp) : State :=
  { ringed launchLine kernelLine with disp := d }

/-- DispatcherSteps: a LAUNCH into a queue that is off, and into one that takes it. -/
theorem witness_launchEnqueue :
    (let s := { st gang blk with disp := { Disp.reset with incoming := [(0, 1, 0, 5, [])] }, accs := [(1, acc (.lane 3 4 false))] }
     nextLaunch s = some (1, 5) ∧ queueRingOf s 5 = none ∧ (tabFind s.accs 1).isSome = true) ∧
    (let s := { dispatching { Disp.reset with incoming := [(0, 1, 0, 0, [])] } with
                accs := [(1, acc (.lane 3 4 false))], sys := [(.lqctl 0, 0x11), (.lqbase 0, 0x0200000000008000)] }
     nextLaunch s = some (1, 0) ∧ queueRingOf s 0 = some (0x8000, 4) ∧ (acc (.lane 3 4 false)).ctx = 0 ∧
       queueTakes s 0 0 = true ∧ hubReady s 0 .write (BitVec.ofNat 64 (0x8000 + 64 * (queueTail s 0 % 4))) 64 = true ∧
       seqDiff (queueTail s 0) (queueHead s 0) ≠ 4 ∧ (s.disp.incoming.filter fun e => e.2.1 == 1) = [(0, 1, 0, 0, [])]) := by decide +kernel

/-- DispatcherSteps: a head record that is taken, one that is refused, one of an unknown kind, and one of a context that is cancelled. -/
theorem witness_launchRecordTake :
    [(launchLine, false), (0x9000, true)].all (fun p =>
      let s := refreshCtx (ringed p.1 kernelLine) 0
      let r := hubRead s 0 (headVa s 0) 64
      headWaits s 0 && !ctxHeld (ringed p.1 kernelLine) 0 && ctxUsable s 0 && hubReady s 0 .read (headVa s 0) 64 && leAt r 31 1 == 0 &&
        hubReady s 0 .read (BitVec.ofNat 64 (leAt r 0 8)) 32 &&
        (match parseKernel (hubRead s 0 (BitVec.ofNat 64 (leAt r 0 8)) 32) with
          | some k => (refusal r (some k)).isSome == p.2
          | none => false)) = true ∧
    (let s := refreshCtx (ringed (2 * 2 ^ 248) 0) 0
     ctxUsable s 0 = true ∧ hubReady s 0 .read (headVa s 0) 64 = true ∧ recordFieldsOk (hubRead s 0 (headVa s 0) 64) = false) ∧
    (let s := { ringed launchLine kernelLine with ctxs := [(0, { ctx with st := .cancelled })] }
     headWaits s 0 = true ∧ ctxHeld s 0 = false ∧ ctxUsable (refreshCtx s 0) 0 = false) := by decide +kernel

/-- DispatcherSteps: a unit to place, an acknowledged yield, a check that is due, a block and a launch that are over, and queues that
software feeds and does not. -/
theorem witness_DispatcherSteps :
    (match choosePlace (dispatching { Disp.reset with launches := [(1, launchOne)] }) allPrios with
      | .place 0 1 _ [_] [_] [] => true
      | _ => false) = true ∧
    (let s := { st { gang with yieldAck := true } blk with
                ctxs := [(0, { ctx with saveSz := 2 ^ 20 })],
                disp := { Disp.reset with yields := [{ queue := 0, victim := 0, since := 0, limit := 0, late := false }] } }
     (s.disp.yields.find? (yieldMoves s)).isSome = true ∧ imageFits s 0 = true ∧ unacked s 0 = []) ∧
    (let s := { st gang blk with cycle := 1024, ctxs := [(0, { ctx with saveSz := 2 ^ 20 })] }
     s.disp.parkChecks < s.cycle / 1024 ∧ imageFits s 0 = true) ∧
    (let s := { st { gang with retired := true } blk with disp := { Disp.reset with launches := [(1, launchOne)] } }
     canRetire s 0 = true ∧ (tabFind s.disp.launches blk.launch).isSome = true) ∧
    launchOver (st gang blk) { launchOne with placed := 1, retired := 1 } = true ∧
    regField (ringed 0 0) (.lqctl 0) 4 4 = 0 ∧ regField { st gang blk with sys := [(.lqctl 0, 0x11)] } (.lqctl 0) 4 4 ≠ 0 := by decide +kernel

/-- DispatcherSteps: a launch whose context is cancelled, and one that may be placed; a context past its threshold. CensusSteps: a
responder's place. -/
theorem witness_refusedLaunch :
    (let s := { dispatching { Disp.reset with launches := [(1, launchOne)] } with ctxs := [(0, { ctx with st := .cancelled })] }
     asleep s = false ∧ (refusedLaunch s).map (·.1) = some 1) ∧
    (let s := dispatching { Disp.reset with launches := [(1, launchOne)] }
     refusedLaunch s = none ∧ (tabFind s.ctxs launchOne.ctx).isSome = true ∧ s.disp.yields = [] ∧ ctxHeld s launchOne.ctx = false) ∧
    (match fitCore (st gang blk) 0 (responderNeed matched) with
      | some (_, [_]) => true
      | _ => false) = true := by decide +kernel

/-- A graph of one node and one edge, its tables at 0x8000 and 0x9000. -/
def graphOf (n : NodeState) : Graph :=
  { header := 0, nodes := 0x8000, nn := 1, ne := 1, edges := 0x9000, work := 0xA000, done := none, started := true, node := [(0, n)], seen := [(0, 1)],
    taken := [], regions := [], looping := [], held := false }

/-- A device on which that graph runs with this node record and an ALWAYS edge from node 0 to itself (R333). -/
def graphed (rec : Line) (n : NodeState) : State :=
  { ringed rec 0 with
    disp := { Disp.reset with launches := [(1, { launchOne with graph := true })], graphs := [(1, graphOf n)] } }

/-- ContextAndGraphSteps: a node that no edge reached, an EVENT or WAIT node, a SIGNAL node, and a finished node without edges and with one. -/
theorem witness_graphNodes :
    ([(0x10002, 1, 2), (2, 0, 2), (5, 0, 5)] : List (Line × Nat × Nat)).all (fun p =>
      let l := { launchOne with graph := true }
      let g := { graphOf .waiting with ne := p.2.1, seen := [(0, p.2.1)] }
      let s := { graphed p.1 .waiting with disp := { (graphed p.1 .waiting).disp with graphs := [(1, g)] } }
      let r := nodeRec s l g 0
      (instanceOf s 1).isSome && rangesReady s 0 .read [nodeRange g 0] && rangesReady s 0 .read [outRange g r] && !incntBad s l g 0 &&
        nodeReady s l g 0 && !cleaning s 0 && nodeOk g r && nodeIn r == p.2.1 && nodeKind r == p.2.2 && (outEdges s l g r).isEmpty) = true ∧
    ([(2, 0), (0x10000000000000002, 1)] : List (Line × Nat)).all (fun p =>
      let s := graphed p.1 .running
      let l := { launchOne with graph := true }
      let g := graphOf .running
      let r := nodeRec s l g 0
      (instanceOf s 1).isSome && rangesReady s 0 .read [nodeRange g 0, outRange g r] && wordReady s l r &&
        regionsReady s l (outEdges s l g r) && nodeOver s 1 0 l r && (outEdges s l g r).length == p.2 &&
        (outEdges s l g r).all fun e => edgeOk g 0 e && edgeRegions e == 0) = true := by decide +kernel

/-- ContextAndGraphSteps: a context to save, one to restore, with cores that take its blocks back and without, and one whose blocks are
placed. -/
theorem witness_ContextAndGraphSteps :
    (let s := { mapped with ctxs := [(0, { ctx with st := .saving, save := 0x100000 })], blocks := [] }
     matrixOfCtx s 0 = false ∧ padOfCtx s 0 = false ∧ hubReady s 0 .write 0x100000 (imageSize ((ctxBlocks s 0).map (·.2))) = true) ∧
    (restorable away 0 = true ∧ restoreTurn away 0 = true ∧ (placedBack away 0).isSome = true) ∧
    placedBack { away with savedBlocks := [(0, { blk with padSize := 393217 })] } 0 = none ∧
    (let s := { away with ctxs := [(0, { ctx with st := .restoring, save := 0x100000 })], savedBlocks := [] }
     (tabFind s.ctxs 0).map (·.st) = some .restoring ∧ hubReady s 0 .read 0x100000 (imageSize ((imageBlocks s 0).map (·.2))) = true) := by
  decide +kernel

/-- Die 0's domain unit with a ring of 4 commands of context 0 at 0x8000, whose first slot holds this command, and domain 0 of two
slices (R339, R340). -/
def domained (c : Line) : State :=
  { mapped with
    caches := { mapped.caches with basin := mapped.caches.basin ++ [(0x201, lineOf c)] }
    sys := [(.dcqctl 0, 1), (.dcqbase 0, 0x0400000000008000), (.dmemb 0 0, 3)] }

/-- DomainSteps: commands that are done and refused, of both operations. -/
theorem witness_domainCommands :
    [((0x4000000000000000000000000100000001 : Line), 1, true), (0x300000001, 3, false), (0x01000200000001, 2, true), (0x200000001, 2, false)].all (fun p =>
      let s := domOwner (domained p.1) 0
      (match domCommand s 0 with
        | some (_, _, _, r) => leAt r 4 1 == p.2.1 && ((if p.2.1 == 2 then dsplitStatus s 0 r else slwbStatus s 0 r) == 0) == p.2.2
        | none => false) && domUnit (domained p.1) 0 == DomUnit.idle) = true := by decide +kernel

/-- DomainSteps: lines to clean and none left, a split in progress without accepted requests, one that is complete, a command to end, a
region that is released and one that is busy. -/
theorem witness_DomainSteps :
    (({ DomUnit.idle with clean := some ([(0, 0)], true, 0, 0) } : DomUnit).ending = none ∧
      ({ DomUnit.idle with clean := some ([], true, 1, 1) } : DomUnit).ending = none) ∧
    (let d := { DomUnit.idle with split := some (0, 1, 2) }
     let s := { domained 0 with dom := [(0, d)] }
     domUnit s 0 = d ∧ d.ending = none ∧ d.res = [] ∧ (0 : Nat) ≠ 1 ∧ accepted s 0 0 1 = false) ∧
    (let d := { DomUnit.idle with split := some (0, 1, 2), res := [1] }
     let s := { domained 1 with dom := [(0, d)] }
     domUnit s 0 = d ∧ d.ending = none ∧ d.res ≠ [] ∧ d.old.any (oldOpen s) = false) ∧
    (let s := { domained 1 with dom := [(0, { DomUnit.idle with cmd := some (0, 0x8000, 0x8040), ending := some ([0, 0, 0], 1) })] }
     hubReady s 0 .write (0x8040 + 32) 28 = true ∧ hubReady s 0 (.rmw .add 2) 0x8000 8 = true ∧ domOpen s 0 = false ∧
       domOpen (hubPut s 0 (0x8040 + 32) (List.replicate 28 0) (some (domAgent 0))) 0 = false ∧ domOpen (hubAdd s 0 (some (domAgent 0)) 0x8000) 0 = false ∧
     let far : State := { s with caches := { s.caches with basin := [(0, lineOf (1 + 0x20 * 2 ^ 72)), (0x80, lineOf (1 + 0x40 * 2 ^ 72)), (0x100, lineOf (0x37 + 2 ^ 107))] } }
     hubReady far 0 .write (0x8040 + 32) 28 = true ∧ hubReady far 0 (.rmw .add 2) 0x8000 8 = true ∧
       domOpen (hubPut far 0 (0x8040 + 32) (List.replicate 28 0) (some (domAgent 0))) 0 = true ∧ domOpen (hubAdd far 0 (some (domAgent 0)) 0x8000) 0 = true) ∧
    (let s := { st gang blk with caches := { Caches.reset with first := [(0 * 2 ^ 40 + 5, 0)] } }
     tabFind s.caches.first (0 * 2 ^ 40 + 5) = some 0 ∧ regionBusy s 0 5 = false ∧
       l2LinesIn s (5 * 65536) (5 * 65536 + 65536) = [] ∧
       regionBusy { s with reqs := [(7, { req .read .ctrl [] with pa := 5 * 65536, accepted := true, leaf := { (req .read .ctrl []).leaf with first := true } })] } 0 5 = true) ∧
    (wbits (0x10003 : W64) 31 16 ≠ regField (st gang blk) (.plaincfg 0) 31 16 ∧
      wbits (0 : W64) 31 16 = regField (st gang blk) (.plaincfg 0) 31 16 ∧ wbits (0 : W64) 4 0 = regField (st gang blk) (.plaincfg 0) 4 0) := by decide +kernel

/-- A device with the first granules of its tier in a tiered range, and a migration command for granule 0. -/
def tiered (cmd : W64) (t : Tiers) : State :=
  { State.reset with sys := [(.tierr 0, 0x1000000000), (.migcmd, cmd)], tiers := t }

/-- Tiers of which granule 0 is in this state. -/
def tier0 (g : Granule) (moving : Option Nat) : Tiers := { State.reset.tiers with granules := [(0, g)], moving := moving }

/-- A device whose slice 0 holds the first line of the tier, written, whose granule is at the epoch given and is being resealed. -/
def shutting (e : Nat) : State :=
  { State.reset with
    caches := { Caches.reset with l2 := [(lineKey 0 (granulePa 0), { lineOf 1 with dirty := true })] }
    tiers := { State.reset.tiers with epochs := [(0, e)], resealing := [0] } }

/-- A line whose write to the tier is held, and one whose granule has epochs left: DomainSteps, WorldSteps, IslandCommands, TierSteps. -/
theorem witness_heldLine :
    (granuleOf (granulePa 0) = 0 ∧ inTier (granulePa 0) = true) ∧
    (heldLine (shutting (2 ^ 24 - 1)) 0 (granulePa 0) = true ∧ heldLines (shutting (2 ^ 24 - 1)) [(0, granulePa 0)] = true ∧
      heldL2 (shutting (2 ^ 24 - 1)) = true ∧ granuleShut (shutting (2 ^ 24 - 1)) 0 = true ∧
      frameShut (shutting (2 ^ 24 - 1)) (granulePa 0 / 65536) = true) ∧
    (heldLine (shutting 3) 0 (granulePa 0) = false ∧ heldL2 (shutting 3) = false ∧ granuleShut (shutting 3) 0 = false ∧
      frameShut (shutting 3) (granulePa 0 / 65536) = false ∧ tabGet (shutting 3).tiers.epochs 0 0 + 1 < 2 ^ 24) := by decide

/-- TierSteps: moves up, down and outside the ranges, one that is under way, both ends of a move, an extent to give back, and granules to
reseal before and at the last epoch. -/
theorem witness_TierSteps :
    (let up : W64 := BitVec.ofNat 64 (granulePa 0) ||| 0x0100000000000000
     let s := tiered up State.reset.tiers
     regField s .migcmd 55 16 * 65536 = granulePa 0 ∧ granuleOf (granulePa 0) = 0 ∧ regField s .migstat 0 0 ≠ 1 ∧
       inTieredRange s (granulePa 0) = true ∧ regField s .migcmd 56 56 = 1 ∧ tabGet s.tiers.granules 0 .lower = .lower) ∧
    (let s := tiered (BitVec.ofNat 64 (granulePa 0)) (tier0 (.upper 0x50000) none)
     inTieredRange s (granulePa 0) = true ∧ regField s .migcmd 56 56 = 0 ∧ tabGet s.tiers.granules 0 .lower = .upper 0x50000) ∧
    inTieredRange (tiered 0 State.reset.tiers) 0 = false ∧
    regField { State.reset with sys := [(.migstat, 1)] } .migstat 0 0 = 1 ∧
    ((tier0 (.moving true 0x50000) (some 0)).moving = some 0 ∧
      tabGet (tier0 (.moving false 0x50000) (some 0)).granules 0 .lower = .moving false 0x50000) ∧
    (let s := { State.reset with tiers := { State.reset.tiers with extents := [(0, 65536, false)] } }
     releasing s 0 = some (0, 65536, false) ∧ movesIn s 0 65536 = false ∧ extentBusy s 0 65536 = false ∧
       dirtyIn (flushExtent s 0 65536) 0 65536 = [] ∧ upperGranules (flushExtent s 0 65536) 0 65536 = [] ∧ s.mgmt.booted = false ∧
       released s (granulePa 0) = false ∧ released { s with tiers := { s.tiers with extents := [(0, 65536, true)] } } (granulePa 0) = true) ∧
    (({ State.reset.tiers with resealing := [3] } : Tiers).resealing.contains 3 = true ∧ tabGet State.reset.tiers.epochs 3 0 + 1 < 2 ^ 24 ∧
      tabGet ({ State.reset.tiers with epochs := [(3, 2 ^ 24 - 1)] } : Tiers).epochs 3 0 + 1 = 2 ^ 24) := by decide

/-- A device whose link 3 is in this state. -/
def linked (x : LinkSt) : State := { State.reset with links := [(3, x)], mgmt := { State.reset.mgmt with booted := true } }
def flit7 : Flit := { counter := 0, world := 0, req := some 7, plain := [], bytes := [] }
def upLink : LinkSt :=
  { down := false, sealSt := 0, tries := 0, sendCtr := 1, recvCtr := 0, seq := 1, keying := 0, buffer := [flit7], awaiting := [5] }

/-- A received flit of these bytes. -/
def flitIn (bs : List Byte) : FlitIn := { bytes := bs, answers := none, data := 0, asks := none, sealed := false, accepted := 1 }

/-- LinkSteps: a link that is up with a flit to resend, one that is out of tries, and one that is down. -/
theorem witness_LinkSteps :
    linkShut (linked upLink) (linkOf (linked upLink) (3 : BitVec 5).toNat) = false ∧ (linked upLink).mgmt.booted = true ∧
    State.reset.mgmt.booted = false ∧ 7 ∈ (dropAccepted upLink (acceptedBy upLink 7 1)).awaiting ∧
    (let r := req .read .link []
     isJoint r = false ∧ r.ctx ≠ physCtx ∧ parkCount { linked upLink with reqs := [(7, r)] } (parkDie r) false < 4096) ∧ flitCrcOk (flitIn []).bytes = false ∧
    (linkOf (linked { upLink with sealSt := 1 }) 3).sealSt ≠ 0 ∧
    ({ State.reset.island with wrapped := true } : Island).wrapped = true ∧
    (linkOf (linked upLink) (3 : BitVec 5).toNat).buffer = [flit7] ∧ paDevice 0 = regField (linked upLink) .devnum 12 0 ∧
    (linkOf (linked upLink) 3).tries < 16 ∧ (linkOf (linked { upLink with tries := 16 }) 3).tries = 16 ∧
    17 ≤ (linkOf (linked { upLink with tries := 17 }) 3).tries ∧ (linkOf (linked { upLink with down := true }) 3).down = true := by decide

/-- LinkSteps: a flit of 256 bytes that carries the CRC of its other bytes passes it; whether its tags verify is the cipher's (log 11). -/
theorem witness_flitCrc (head body tag : List Byte) (h : head.length = 12) (hb : body.length = 224) (ht : tag.length = 16) :
    flitCrcOk (head ++ leBytes 4 (Config.crc32 (head ++ (body ++ tag))).toNat ++ (body ++ tag)) = true := by
  have hl (n : Nat) : (leBytes 4 n).length = 4 := by simp [leBytes]
  have hx : leNat (leBytes 4 (Config.crc32 (head ++ (body ++ tag))).toNat) = (Config.crc32 (head ++ (body ++ tag))).toNat := by
    generalize Config.crc32 (head ++ (body ++ tag)) = x
    have := x.isLt
    simp [leBytes, leNat]
    omega
  have hd : head.drop 16 = [] := List.drop_eq_nil_of_le (by omega)
  simp [flitCrcOk, leAt, h, hb, ht, hl, hx, hd, List.drop_append]

/-- LinkSteps: a flit whose payload opens under its world's key, with the link tag that R375 forms, passes the tags (log 11). -/
theorem witness_flitTags (s : State) (k : Nat) (head crc body x : List Byte) (h : head.length = 12) (hc : crc.length = 4)
    (hb : body.length = 224)
    (ho : Config.openBytes (worldLinkKey s (BitVec.ofNat 16 (leAt head 4 2)))
      (flitIv (Config.linkPeer k) (regField s .devnum 12 0) k (linkOf s k).recvCtr) head body = some x) :
    flitTagsOk s k (head ++ crc ++ body ++ linkTag k (linkOf s k).keying
      (flitIv (Config.linkPeer k) (regField s .devnum 12 0) k (linkOf s k).recvCtr) head body) = true := by
  have hw (r : List Byte) : leAt (head ++ r) 4 2 = leAt head 4 2 := by
    simp [leAt, List.drop_append, List.take_append, h]
  have h0 : head.drop 16 = [] := List.drop_eq_nil_of_le (by omega)
  have h1 : head.drop 240 = [] := List.drop_eq_nil_of_le (by omega)
  have h2 : crc.drop 228 = [] := List.drop_eq_nil_of_le (by omega)
  simp only [flitTagsOk, List.append_assoc]
  rw [hw]
  simp [List.drop_append, h, hc, hb, ho, h0, h1, h2]

/-- A mailbox of host core 0 in this world, with one request of this code to take, of sequence 1: rings of 4 at 0x1000 and 0x2000
in a frame of that world (R390 to R392). -/
def asked (code : Nat) (w : BitVec 16) : State :=
  { State.reset with
    caches := { Caches.reset with basin := [(0x40, lineOf (BitVec.ofNat 512 (1 + code * 2 ^ 64)))] }
    sys := [(.ibqbase 0, 0x0200000000001000), (.ibrbase 0, 0x0200000000002000), (.ibctl 0, 1)]
    mgmt := { State.reset.mgmt with booted := true, island := [(0, { Mailbox.reset with bells := [(1, w)] })] }
    island := { State.reset.island with
      worlds := [(1, freshWorld 0)], frames := if w = 0 then [(5, 1)] else [(0, w), (5, 1)]
      slots := [(0, { usage := .wrap, owner := 1, key := [] }), (1, { usage := .eth, owner := 1, key := [] }),
                (2, { usage := .nvme, owner := 1, key := [] }), (3, { usage := .tier, owner := 1, key := [] }),
                (4, { usage := .worldlink, owner := 1, key := [] })] } }
def hosted (w : BitVec 16) : State := asked 1 w

/-- IslandCommands: a request of world 1 for each command and one of the system world can be taken; a world, frames, handles of every usage with their
binding, a stale handle. -/
theorem witness_IslandCommands :
    (islandCodes.all fun c => (takeIsland (asked c 1) 0 c).map (·.world) == some 1) = true ∧
    (takeIsland (asked 0x41 0) 0 0x41).map (·.world) = some 0 ∧
    (worldKnown (hosted 1) 1 = true ∧ mayCommand 1 1 = true ∧ mayCommand 0 0xFFFF = true ∧ worldActive (hosted 1) 1 = true) ∧
    (100 < (101 : Byte).toNat ∧ (100 : Byte).toNat ≤ 100 ∧ tabFind (hosted 1).island.binds 7 = none) ∧
    (frameExists (hosted 1) 4 = true ∧ frameOwner (hosted 1) (4 * 65536) = 0 ∧ frameExists (hosted 1) 5 = true ∧
      frameOwner (hosted 1) (5 * 65536) = 1) ∧
    handleStatus (hosted 1) 0 (fun k => k.usage == .wrap) 1 = stOk ∧ handleStatus (hosted 1) 0 (fun _ => true) 1 = stOk ∧
    slotOf (hosted 1) 0x1000 = none ∧
    [(1, BindTarget.ethSa 0 0 false 0 0 0 0), (2, .namespaceKey 0 1 false), (3, .worldTier), (4, .worldLink)].all (fun p =>
      targetOk p.2 && handleStatus (hosted 1) p.1 (fun k => k.usage == targetUsage p.2) 1 == stOk && targetMay (hosted 1) 1 p.2 &&
        saRoom (hosted 1) p.2) = true ∧
    regField (hosted 1) (.ibctl 0) 1 1 = 0 ∧ regField { hosted 1 with sys := [(.ibctl 0, 3)] } (.ibctl 0) 1 1 = 1 ∧
    (tabFind (hosted 1).island.worlds (1 : BitVec 16).toNat).map (·.st) = some .active := by decide

/-- A search that every number satisfies finds one. -/
theorem firstFrom_some (a n : Nat) (p : Nat → Bool) (h : ∀ k, p k = true) (hn : 0 < n) : ∃ k, firstFrom a n p = some k := by
  obtain ⟨m, rfl⟩ : ∃ m, n = m + 1 := ⟨n - 1, by omega⟩
  refine ⟨(a + 0) % (m + 1), ?_⟩
  simp [firstFrom, List.range_succ_eq_map, h]

/-- IslandCommands: a free world number and a free key slot, wherever the search begins. -/
theorem witness_freeNumbers :
    (∃ id, freeWorldId State.reset = some id) ∧ (∃ n, freeKeySlot State.reset = some n) := by
  obtain ⟨a, ha⟩ := firstFrom_some (Config.freeIndex 0) 0xFFFE (fun _ => true) (fun _ => rfl) (by decide)
  obtain ⟨b, hb⟩ := firstFrom_some (Config.freeIndex 0) 4096 (fun _ => true) (fun _ => rfl) (by decide)
  exact ⟨⟨a + 1, by unfold freeWorldId; exact congrArg (·.map (· + 1)) ha⟩, ⟨b, hb⟩⟩

/-- WorldSteps: a world to be installed and one that is there already; worlds to commit; SLEEP_PREP of either kind of caller, and its end;
a world that a host core may enter. -/
theorem witness_WorldSteps :
    (tabFind (hosted 0).island.worlds (7 : BitVec 16).toNat = none ∧ (7 : BitVec 16) ≠ 0 ∧ (7 : BitVec 16) ≠ 0xFFFF ∧
      (hosted 0).island.slots.length + 0 ≤ 4096 ∧ (tabFind (hosted 0).island.worlds (1 : BitVec 16).toNat).isSome = true) ∧
    (({ freshWorld 0 with st := .pending, session := 9 } : World).session = 9 ∧ ({ freshWorld 0 with st := .gone, session := 9 } : World).st = .gone ∧
      ¬(World.st { freshWorld 0 with st := .active } = .gone ∧ (freshWorld 0).acked = true)) ∧
    ({ State.reset.mgmt with power := .dRetain } : Mgmt).power = .dRetain ∧
    ((takeIsland (asked 0x60 1) 0 0x60).map (·.world) = some 1 ∧ (takeIsland (asked 0x60 0) 0 0x60).map (·.world) = some 0 ∧
      (takeIsland (asked 0x51 0) 0 0x51).map (·.world) = some 0 ∧ (takeIsland (asked 0x50 1) 0 0x50).map (·.world) = some 1 ∧
      (hosted 0).island.preparing = none) ∧
    (({ (hosted 0).island with preparing := some 3 } : Island).preparing = some 3 ∧ (hosted 0).ctxs = []) ∧ ctxUp ctx = true ∧
    heldL2 (hosted 0) = false ∧ worldActive (hosted 0) 1 = true := by decide

/-- WorldSteps: the frames of a migrating world are open, and none is shut. -/
theorem witness_framesOpen :
    framesOpen (hosted 1) (framesOf (hosted 1) 1) = true ∧ (framesOf (hosted 1) 1).any (frameShut (hosted 1)) = false := by decide +kernel

/-- A policy for world 1 with one destination hash (R380). -/
def policy (h : List Byte) : List Byte :=
  [1, 0, 0, 0, 1, 0, 1, 0, 1, 0, 0, 0, 0, 0, 0, 0, 9, 0, 9, 0, 0, 0, 0, 0] ++ h ++ List.replicate 580 0

/-- A field that lies in the first bytes of a longer list. -/
theorem leAt_append (a b : List Byte) (o n : Nat) (h : o + n ≤ a.length) : leAt (a ++ b) o n = leAt a o n := by
  unfold leAt
  rw [List.drop_append_of_le_length (by omega), List.take_append_of_le_length (by simp; omega)]

/-- Fields of that policy. -/
theorem policy_fields (h : List Byte) :
    BitVec.ofNat 16 (leAt (policy h) 4 2) = 1 ∧ leAt (policy h) 0 4 = 1 ∧ leAt (policy h) 6 2 = 1 ∧ leAt (policy h) 8 8 = 1 ∧
      leAt (policy h) 16 2 = 9 ∧ leAt (policy h) 18 4 = 9 := by
  unfold policy
  rw [List.append_assoc]
  refine ⟨?_, ?_, ?_, ?_, ?_, ?_⟩ <;> rw [leAt_append _ _ _ _ (by simp)] <;> decide

theorem policy_hash (h : List Byte) (e : h.length = 64) : (policy h).length = 668 ∧ ((policy h).drop 24).take 64 = h := by
  constructor
  · simp [policy, e]
  · simp [policy, e]

theorem hashBytes_length (h : BitVec 512) : (hashBytes h).length = 64 := by simp [hashBytes, lineBytes]

/-- WorldSteps: MIGRATE_OUT of world 1 can be taken whenever some signature of that policy verifies (log 11). -/
theorem witness_migrateOut (key : List Byte) (regs : List (BitVec 512)) (p : List Byte)
    (hp : p = policy (hashBytes (Config.sha512 ((regs.take 6).flatMap hashBytes))))
    (h : Config.verifies key (p.take 536) (p.drop 536) = true) :
    BitVec.ofNat 16 (leAt p 4 2) = 1 ∧ policyOk p key { freshWorld 0 with keyHash := Config.sha512 key } = true ∧
      destinationOk (hosted 1) p regs 1 = true ∧ worldAtRest (hosted 1) 1 = true ∧ mayCommand 1 1 = true := by
  obtain ⟨f1, f2, f3, f4, f5, f6⟩ := policy_fields (hashBytes (Config.sha512 ((regs.take 6).flatMap hashBytes)))
  obtain ⟨h1, h2⟩ := policy_hash _ (hashBytes_length (Config.sha512 ((regs.take 6).flatMap hashBytes)))
  rw [← hp] at f1 f2 f3 f4 f5 f6 h1 h2
  have h8 : (slotsOf (hosted 1) 1).length ≤ 9 := by decide
  have h9 : (framesOf (hosted 1) 1).length ≤ 9 := by decide
  exact ⟨f1, by simp [policyOk, h, h1, f2, f3, f4, freshWorld],
    by simp [destinationOk, f3, h2, f5, f6, List.range_succ]; exact ⟨h8, h9⟩, by decide, by decide⟩

/-- IslandCommands: KEY_IMPORT has a key to take whenever the wrapping key unwraps a blob (log 11). -/
theorem witness_keyImport (blob key : List Byte) (h : Config.unwrap [] blob = some key) :
    ∃ k, slotOf (hosted 1) 0 = some k ∧ k.usage = .wrap ∧ Config.unwrap k.key blob = some key := ⟨_, rfl, rfl, h⟩

/-- SpdmSteps: every request offers the one algorithm set or does not. -/
theorem witness_negotiate (request : List Byte) : Config.offersSet request = true ∨ Config.offersSet request = false := by
  cases Config.offersSet request <;> simp

/-- SpdmSteps: the management path before and after negotiation, and sessions that are finished and not. -/
theorem witness_SpdmSteps :
    State.reset.island.spdmState < 1 ∧ 3 ≤ ({ State.reset.island with spdmState := 3 } : Island).spdmState ∧ (1 ≤ 32 ∧ ¬(1 ≤ 0)) ∧
    ([((1 : Nat), SpdmPeer.link 3, false, (0 : Nat))].find? (fun x => x.1 == 1 && !x.2.2.1) = some (1, .link 3, false, 0)) ∧
    sessionOpen { State.reset with island := { State.reset.island with sessions := [(1, .management, true, 0)] } } 1 = true ∧
    ([((1 : Nat), SpdmPeer.link 3, true, (0 : Nat))].find? (fun x => x.1 == 1 && x.2.2.1) = some (1, .link 3 false, true, 0)) ∧
    State.reset.mgmt.booted = false ∧ peerAsks (.migration 1) = true ∧ peerAsks (.link 3 true) = true ∧ peerAsks .management = false ∧ linkSessions State.reset 3 = [] := by decide

/-- ManagementSteps: the next sequence and one further ahead; a store that is wrapped and not; a device that is idle; units and lines. -/
theorem witness_ManagementSteps :
    State.reset.mgmt.power ≠ .dOff ∧ mgmtOpen State.reset true = true ∧ (1 : W32) = (mgmtBox State.reset true).got + 1 ∧
    (1 : W32) = (mgmtBox State.reset false).got + 1 ∧ migrationRuns State.reset = false ∧
    migrationRuns { State.reset with tiers := { State.reset.tiers with moving := some 0 } } = true ∧ State.reset.island.preparing = none ∧
    State.reset.mgmt.power ≠ .dRetain ∧ State.reset.island.wrapped = false ∧ unitExists 0x0C000005 = true ∧
    (1 < seqDiff (2 : W32).toNat (mgmtBox State.reset true).got.toNat ∧ seqDiff (2 : W32).toNat (mgmtBox State.reset true).got.toNat < 2 ^ 31) ∧
    (let s := { State.reset with
       sys := [(.mbqbase, 0x0200000000001000), (.mbrbase, 0x0200000000002000), (.mbctl, 1)]
       mgmt := { State.reset.mgmt with booted := true } }
     mgmtOpen s false = true ∧ (mailRings s none).isSome = true) ∧
    idleDue { State.reset with cycle := 1250000, mgmt := { State.reset.mgmt with booted := true } } = true := by decide

/-- ManagementSteps: no request waits for a link; a wake; a line of a core's L1, and one that only memory holds. -/
theorem witness_wake :
    (∀ k, linkQueue State.reset k = []) ∧
    ({ State.reset.island with wrapped := true } : Island).wrapped = true ∧ ({ State.reset.mgmt with power := .dRetain } : Mgmt).power = .dRetain ∧
    (let i : Island := { State.reset.island with retention := some 4, wrappedBy := some 4 }
     i.retention.isSome = true ∧ i.retention = i.wrappedBy ∧ ({ i with retention := some 5 } : Island).retention ≠ i.wrappedBy) ∧
    (0x0C000005 : W32).toNat / 2 ^ 24 = 12 ∧ (0x0E000000 : W32).toNat / 2 ^ 24 ≠ 13 ∧
    tabFind ({ Caches.reset with l1 := [(lineKey 5 0, lineOf 0)] } : Caches).l1 (lineKey ((0x0C000005 : W32).toNat % 2 ^ 24) 0) = some (lineOf 0) :=
  ⟨fun _ => rfl, by decide⟩

/-- Port 0 with transmit and receive queues of 16 descriptors at 0x4000 and 0x5000, and buffers of 256 bytes (R386). -/
def ported (ctl : W64) : State :=
  { State.reset with
    sys := [(.eqbase 0 0 0, 0x0400000000004000), (.eqctl 0 0 0, ctl), (.eqptr 0 0 0, 1), (.eqbase 0 1 0, 0x0400000000005000),
            (.eqctl 0 1 0, 0x0000010000000001), (.eqptr 0 1 0, 4), (.epctl 0, 1)] }

/-- PortSteps: descriptors of a queue whose world owns its frames and of one whose does not; a receive queue with buffers; register writes
of each kind. -/
theorem witness_PortSteps :
    [((1 : W64), true), (0x10001, false)].all (fun p => match ethQueue (ported p.1) 0 0 0 with
      | some x => qTail (ported p.1) x != qHead (ported p.1) x && worldMay (ported p.1) x.world x.base (16 * x.size) == p.2
      | none => false) = true ∧
    (regField (ported 1) (.epctl 0) 0 0 = 1 ∧ ethWorld (ported 1) 0 1 0 = 0 ∧ regField State.reset (.epctl 0) 0 0 ≠ 1) ∧
    (unitDead (ported 1) 10 0 = false ∧ rxWaits (ported 1) 0 = false ∧
      unitDead { ported 1 with mgmt := { State.reset.mgmt with halted := [0x0A000000] } } 10 0 = true ∧
      rxWaits { ported 1 with mgmt := { State.reset.mgmt with late := [.frame 0 ⟨true, none, []⟩] } } 0 = true) ∧
    (match ethQueue (ported 1) 0 1 0 with
      | some x => regField (ported 1) x.ctl 45 32 == 256 && worldMay (ported 1) x.world x.base (16 * x.size) &&
          (match rxSlots (ported 1) x none 256 ((300 + 256 - 1) / 256) x.size (qHead (ported 1) x) with
            | .found l => l.length == 2 && physReady (ported 1) (l.map fun e => (qSlot x e.1 16, 16)) (rxWrites (ported 1) x 256 (List.replicate 300 0) 0xFFFF l)
            | _ => false)
      | none => false) = true ∧
    ({ State.reset.mgmt with booted := true } : Mgmt).booted = true ∧ pageClosed ⟨none, .ydead⟩ = false ∧
    pageClosed ⟨none, .ibdb 3⟩ = true ∧ pageClosed ⟨some 3, .ibdb 3⟩ = false ∧ unitDead State.reset 11 2 = false ∧
    unitDead { State.reset with mgmt := { State.reset.mgmt with halted := [0x0B000002] } } 11 2 = true ∧
    worldMay State.reset 0 0x4000 (64 * 16) = true ∧ worldMay State.reset 5 0x4000 (64 * 16) = false ∧
    (ownRow .ydead = false ∧ wbits (5 : W64) 12 0 < 4608 ∧ 4608 ≤ wbits (0x1200 : W64) 12 0) := by decide +kernel

/-- Storage engine 2 with a queue of 16 requests at 0x4000, of which one is of this operation (R387, R388). -/
def storing (req : Line) : State :=
  { State.reset with
    caches := { Caches.reset with basin := [(0x100, lineOf req)] }
    sys := [(.sqbase 2 0, 0x0400000000004000), (.sqctl 2 0, 1), (.sqptr 2 0, 1)]
    mgmt := { State.reset.mgmt with booted := true, pcie := 3 } }

/-- PortSteps: storage requests that complete at once and that go to the drive, of a port in PCIe mode (R383). -/
theorem witness_storage :
    ∀ p ∈ [((0 : Line), true), (3, false)], ∃ x, storQueue (storing p.1) 2 0 = some x ∧ storNext (storing p.1) 2 0 x = some 0 ∧
      worldMay (storing p.1) x.world x.base (64 * x.size) = true ∧
      (storAction (storing p.1) x (physRead (storing p.1) (qSlot x 0 64) 64)).isLeft = p.2 ∧
      physReady (storing p.1) (storReads (storing p.1) x 0) (storWrites (storing p.1) x 0 5 0 0) = true := by
  intro p hp
  refine ⟨{ base := 0x4000, size := 16, ctl := .sqctl 2 0, ptr := .sqptr 2 0, world := 0 }, ?_⟩
  simp only [List.mem_cons, List.not_mem_nil, or_false] at hp
  rcases hp with rfl | rfl <;> exact ⟨rfl, by decide, by decide, by decide, by decide⟩

/-- PortSteps: a request at a drive whose writes can be performed now, and one whose ring stands in another device. -/
theorem witness_drive :
    let d : DriveReq := { port := 2, queue := 0, slot := 0, base := 0x4000, size := 16, world := 0, bytes := [3] }
    let ready (d : DriveReq) : Bool := physReady (storing 3) (landReads (storing 3) (driveQueue d) d.bytes) (storWrites (storing 3) (driveQueue d) 0 3 0 0)
    unitDead (storing 3) 11 2 = false ∧ ready d = true ∧ worldMay (storing 3) 0 0x4000 (64 * 16) = true ∧
      isRemote (storing 3) (qSlot (driveQueue d) 0 64 + 48) = false ∧
      physSent (storing 3) ringUnit (2 ^ 43) [1] = false ∧ physGot (storing 3) ringUnit (2 ^ 43) 64 = false := by decide

/-- DebugAndParkSteps: a context to cancel whose descriptor can be read, and one whose STATE is still to be written. -/
theorem witness_parkCancel :
    let s := { State.reset with sys := [(.pkop, 2)] }
    regField s .pkop 1 0 = 2 ∧ regField s .pkops 0 0 = 0 ∧ regField s .pkop 63 48 = 0 ∧ ctxHeld s 0 = false ∧
      ctxHeld { s with caches := { s.caches with posts := [⟨ctxAddr s 0 + 64, [0], 0⟩] } } 0 = true := by decide

/-- DebugAndParkSteps: requests of the debugger with and without permission; a sample; operations of the parks. -/
theorem witness_DebugAndParkSteps :
    ((debugBlock debugged 0).map (·.1) = some 0 ∧ blk.core = 0 ∧ blk.index < 32 ∧ debugPermitted debugged 0 0 = true ∧ blk.halted = false) ∧
    (debugBlock { debugged with blocks := [(0, { blk with world := 5 })] } 0).isSome = true ∧ debugPermitted debugged 0 5 = false ∧
    (let s := { debugged with blocks := [(0, { blk with halted := true })], sys := [(.debug 0 0, 0x1F), (.debug 0 0x010, 0x100)] }
     (debugBlock s 0).isSome = true ∧ regField s (.debug 0 0x010) 17 8 ≠ 0 ∧
       (tabFind s.gangs (32 * 0 + regField s (.debug 0 0x010) 7 3)).isSome = true ∧ gang.retired = false ∧
       tabFind s.stuffing 0 = none ∧ (bufferTarget s 0 0).isSome = true) ∧
    resumable debugged 0 { blk with halted := true } = true ∧ (liveGangs (st { gang with atHalt := true } blk) 0).all (fun e => e.2.atHalt) = true ∧
    (let s := { debugged with blocks := [], savedBlocks := [(0, blk)] }
     debugBlock s 0 = none ∧ (debugSaved s 0).map (·.1) = some 0) ∧
    restoring debugged 0 = false ∧
    (let s := { debugged with cycle := 2 ^ 40 }
     sampleDue s 0 = true ∧ (nextSlot s 0).isSome = true) ∧
    (regField { State.reset with sys := [(.pkop, 1)] } .pkop 1 0 = 1 ∧ regField { State.reset with sys := [(.pkop, 2)] } .pkop 1 0 = 2 ∧
      regField State.reset .pkops 0 0 = 0 ∧ regField State.reset .xlinvs 0 0 = 0) ∧
    (([] : List (Nat × Req)).any (fun e => invalWaits (1, 0, 0, 0, 0) e.2) = false ∧
      [(7, req .read .home [])].any (fun e => invalWaits (1, 0, 0, 0x10000, 0) e.2) = true) := by decide

/-- DebugAndParkSteps: a release of one parked request, which is replayed; and one behind a parked acquire that the release leaves. -/
theorem witness_parkRelease :
    let parked (n : Nat) : Req := req .read (.parked .poison n none false) []
    (let s := { withReqs [(7, parked 1)] with sys := [(.pkop, 0x11), (.pkopva, 0x10000)] }
     releaseList s = [7] ∧ replayBlocked (withReqs [(7, req .read .walk [])]) 7 = false) ∧
    (let other : Req := { parked 1 with order := .acq, va := 0x20000, access := some 2 }
     let s := { withReqs [(5, other), (7, parked 2)] with sys := [(.pkop, 0x11), (.pkopva, 0x10000)] }
     releaseList s = [7] ∧ replayBlocked (withReqs [(5, other), (7, req .read .walk [])]) 7 = true) := by decide

/-- EveryInstructionRuns and MemoryStaysCanonical: a gang that issues, canonical memory, and a step. -/
theorem witness_MemoryStaysCanonical :
    memoryOk State.reset = true ∧ memoryOk { State.reset with mem := [(3, 7), (9, 1)] } = true ∧ memoryOk { State.reset with mem := [(9, 1), (3, 7)] } = false := by
  decide

/-- MemoryStaysCanonical: a step that answers a next state. -/
theorem witness_step : ∃ t, step { State.reset with agenda := [.heartbeat] } = .next t := ⟨_, rfl⟩

/-- PortSteps: transmit descriptors that are sent, sealed, and refused: 64 bytes with the SecTAG index none, index 0, and an empty one. -/
theorem witness_txStatus :
    let sent (d : Line) : State := { ported 1 with
      caches := { Caches.reset with basin := [(0x100, lineOf d)] }
      island := { State.reset.island with
        slots := [(1, { usage := .eth, owner := 0, key := [] })]
        sas := [{ port := 0, index := 0, receive := false, handle := 1, world := 0, pn := 1, window := 0, sci := 0, an := 0, queue := 0 }] } }
    let status (d : Line) : Option (Nat × Bool) := (ethQueue (sent d) 0 0 0).map fun x =>
      let r := txStatus (sent d) 0 x (physRead (sent d) (qSlot x (qHead (sent d) x) 16) 16)
      (r.1, r.2.isSome)
    status 0x1FFFF00400000000000000000 = some (1, false) ∧ status 0x1000000400000000000000000 = some (1, true) ∧
    status 0 = some (3, false) := by decide +kernel

/-- Gang 0 after an instruction's words are issued by a gang. -/
def after (g : Gang) (w0 w1 w2 : W32) : Option Gang :=
  match decodeWords w0 w1 w2 with
  | .instr i => (match exec i (st g blk) with
    | .next t => tabFind t.gangs 0
    | _ => none)
  | _ => none

/-- Register `n` of lane 5. -/
def lane5 (n : Nat) (g : Option Gang) : Option W32 := g.map fun g => vreg g n 5

/-- A gang whose lane 5 holds these registers. -/
def with5 (vs : List (Nat × W32)) : Gang := { gang with v := vs.map fun e => (32 * e.1 + 5, e.2) }

/-- The Case of R146: `cvtp.e4m3x4.f32.sat v8, v12` of 0.3, 465.0, -1.0 and a quiet NaN; OF and NX are raised, NV is not. -/
theorem test_cvtp_case :
    let g := after (with5 [(12, 0x3E99999A), (13, 0x43E88000), (14, 0xBF800000), (15, 0x7FC00000)]) 0x98300084 0x04018000 0
    lane5 8 g = some 0x7FB87E2A ∧ g.map (fun g => g.gstat &&& 0x1F) = some 5 := by decide

/-- The Cases of R113, R120 and R118: 0.3, 464 and 465 in e4m3, and 3.0 as a scale. -/
theorem test_rounding_cases :
    (roundVal e4m3 1 (fval f32 0x3E99999A)).1 = 0x2A ∧ (roundVal e4m3 1 (fval f32 0x43E80000)).1 = 0x7E ∧
    (roundVal e4m3 1 (fval f32 0x43E88000)).1 = 0x7F ∧ (scaleEnc (fval f32 0x40400000)).1 = 0x108 := by decide

/-- The Case of R135: IADD.s32 of 0x7FFFFFF0 and 0x20 with SAT and without, and ISUB.n32.sat of 3 and 5. -/
theorem test_sat_case :
    let run (i : Instr) (a b : W32) : Option W32 := match exec i (st (with5 [(2, a), (3, b)]) blk) with
      | .next t => lane5 4 (tabFind t.gangs 0)
      | _ => none
    run (.iadd (lane 1 1 4 2 3 0)) 0x7FFFFFF0 0x20 = some 0x7FFFFFFF ∧ run (.iadd (lane 1 0 4 2 3 0)) 0x7FFFFFF0 0x20 = some 0x80000010 ∧
    run (.isub (lane 0 1 4 2 3 0)) 3 5 = some 0 := by decide

/-- The Case of R196: the word of `fence.dev w, r`. -/
theorem test_fence_case : decodeWords 0x21803042 0 0 = .instr (.fence 2 1 3) := by decide

/-- The Cases of R131: h4 7.5 by h4 -7.5 is -225 quarter-units, h4 7.5 by s4 -8 is -240. -/
theorem test_h4_case :
    elemInt 6 7 true * elemInt 6 8 true = -225 ∧ elemInt 6 7 true * elemInt 7 8 true = -240 := by decide

/-- The Case of R166: `.pad 40960` has a power of two of 64 KiB; the offset 0x12000 is 0x2000 and 0xB000 is outside. -/
theorem test_pad_case :
    let b := { blk with padSize := 40960 }
    padByteIx b 0x12000 = some 0x2000 ∧ padByteIx b 0xB000 = none ∧ padByteIx b 0x9FFF = some 0x9FFF ∧ padByteIx b 0xA000 = none := by decide

/-- The Case of R169: with Z 64, lane 5 of gang 1 reaches offset 0x24 at F + 0xC94. -/
theorem test_frame_case :
    privVa { blk with zpriv := 64, frame := 0x100000 } { gang with gid := 1 } 5 0x24 = 0x100C94 := by decide

/-- The Case of R172: local address 0x341A00000 of device 37. -/
theorem test_device_case : paDevice 0x1280341A00000 = 37 ∧ 0x1280341A00000 = 37 * 2 ^ 43 + 0x341A00000 := by decide

/-- Scalar corners by hand: an immediate with its sign, a shift by 64, high halves, SINS16, leading zeros of 0. -/
theorem test_scalar_corners :
    let run (i : Instr) : Option W64 := match exec i (st { gang with s := [(1, 1), (2, 0xFFFFFFFFFFFFFFFF), (3, 64)] } blk) with
      | .next t => (tabFind t.gangs 0).map fun g => sreg g 9
      | _ => none
    run (.saddi 9 1 0x3FE) = some 0xFFFFFFFFFFFFFFFF ∧ run (.sshl 9 1 3) = some 1 ∧ run (.smulh 9 2 2) = some 0 ∧
    run (.smulhn 9 2 2) = some 0xFFFFFFFFFFFFFFFE ∧ run (.sslt 9 2 1) = some 1 ∧ run (.ssltn 9 2 1) = some 0 ∧
    run (.sins16 9 0xABCD) = some 0xABCD ∧ run (.slui 9 0x8000) = some 0xFFFFFFFF80000000 ∧ run (.sclz 9 0) = some 64 := by decide

/-- Lane corners by hand: a shift by the width, an arithmetic one, a byte permute with sign, an unsigned high product. -/
theorem test_lane_corners :
    let run (i : Instr) (a b c : W32) : Option W32 := match exec i (st (with5 [(2, a), (3, b), (4, c)]) blk) with
      | .next t => lane5 6 (tabFind t.gangs 0)
      | _ => none
    run (.ishl (lane 12 0 6 2 3 0)) 1 32 0 = some 0 ∧ run (.isra (lane 1 0 6 2 3 0)) 0x80000000 40 0 = some 0xFFFFFFFF ∧
    run (.prmt (lane 12 0 6 2 3 4)) 0x03020180 0x07060504 0x8740 = some 0xFF070480 ∧
    run (.imulh (lane 0 0 6 2 3 0)) 0xFFFFFFFF 0xFFFFFFFF 0 = some 0xFFFFFFFE := by decide

end Sys2Proof.Tests
end

/-! The ports and register writes: what a slice replaces, what a drive's completion with an error writes, and a completion whose status
does not read back (R351, R355, R384, R387). -/

namespace Sys2Proof.Machine

/-! Tables that list one key only. -/

/-- Deleting the one key that a table lists empties it. -/
theorem tabDel_of_all {α : Type} {t : Tab α} {k : Nat} (h : ∀ e ∈ t, e.1 = k) : tabDel t k = [] := by
  induction t with
  | nil => rfl
  | cons e r ih =>
    obtain ⟨j, a⟩ := e
    obtain rfl : j = k := h _ List.mem_cons_self
    rw [tabDel, if_pos rfl]
    exact ih fun e he => h e (List.mem_cons_of_mem _ he)

/-- No other key is in such a table. -/
theorem tabFind_of_all {α : Type} {t : Tab α} {j k : Nat} (h : ∀ e ∈ t, e.1 = k) (hj : j ≠ k) : tabFind t j = none := by
  induction t with
  | nil => rfl
  | cons e r ih =>
    obtain ⟨i, a⟩ := e
    obtain rfl : i = k := h _ List.mem_cons_self
    rw [tabFind, if_neg hj.symm]
    exact ih fun e he => h e (List.mem_cons_of_mem _ he)

/-! Homes and their replacement. -/

/-- While every register has its reset value no domain is usable (R339, R355). -/
theorem domLog_of_reset {s : State} (h : s.sys = []) (d k : Nat) : domLog s d k = none := by
  have members : domMembers s d k = 0 := by
    unfold domMembers regField reg
    rw [h]
    show wbits 0 47 0 = 0
    decide
  unfold domLog
  rw [members]
  rfl

/-- A line's home is then slice 0 of its die (R355). -/
theorem homeZero_of_reset {s : State} (h : s.sys = []) (pa : Nat) : homeZero s pa = 48 * homeDie pa := by
  unfold homeZero hashSlice
  simp only [domLog_of_reset h, Nat.add_zero]

/-- A slice that holds a line replaces none for it. -/
theorem l2Room_of_held {s : State} {slice pa : Nat} (h : (tabFind s.caches.l2 (lineKey slice pa)).isSome = true) :
    l2Room s slice pa = s := by
  unfold l2Room
  dsimp only
  rw [h]
  rfl

/-- A slice that is full of copies of one line replaces that line, whichever of them is chosen (log 7). -/
theorem l2Room_of_copies {s : State} {slice pa k : Nat} (all : ∀ e ∈ s.caches.l2, e.1 = k) (mine : k / 2 ^ 50 = slice)
    (full : sliceLines s slice ≤ s.caches.l2.length) (nonempty : 0 < s.caches.l2.length) (other : lineKey slice pa ≠ k)
    (free : heldLine s slice (k % 2 ^ 50 * 64) = false) :
    l2Room s slice pa = dropSlice { s with tick := s.tick + 1 } slice (k % 2 ^ 50 * 64) := by
  have own : s.caches.l2.filter (fun e => e.1 / 2 ^ 50 == slice) = s.caches.l2 :=
    List.filter_eq_self.2 fun e he => by simpa [all e he] using mine
  have loose : s.caches.l2.filter (fun e => !heldLine s slice (e.1 % 2 ^ 50 * 64)) = s.caches.l2 :=
    List.filter_eq_self.2 fun e he => by rw [all e he, free]; rfl
  have inside := Nat.mod_lt (Config.freeIndex s.tick) nonempty
  have chosen := all _ (List.getElem_mem inside)
  unfold l2Room
  dsimp only
  rw [own, tabFind_of_all all other, loose, if_neg (by simpa using full), List.getElem?_eq_getElem inside]
  dsimp only
  rw [chosen]

/-- A write at a home is one in the state where the slice has made room for its line. -/
theorem writeHome_of_l2Room {s u : State} {slice pa : Nat} (h : l2Room s slice pa = u) (hu : l2Room u slice pa = u) (off : Nat)
    (bs : List Byte) (dom basin : Nat) (world : BitVec 16) :
    writeHome s slice pa off bs dom basin world = writeHome u slice pa off bs dom basin world := by
  unfold writeHome
  rw [h, hu]

/-- A line of no tier that the basin does not hold goes back to memory, at its own address, when its policy keeps it from the basin
(R351). -/
theorem writeBack_to_memory {s : State} {pa : Nat} {c : CacheLine} (tier : inTier pa = false)
    (basin : tabFind s.caches.basin (pa / 64) = none) (policy : c.basin ≠ 0) :
    writeBack s pa c = putMemLine s pa c.data c.poison := by
  simp [writeBack, released, extentOf, countTierWrite, backAddr, tier, basin, policy]

/-- The write of a line of no tier is never held (R374). -/
theorem heldLine_of_noTier {pa : Nat} (tier : inTier pa = false) (s : State) (slice : Nat) : heldLine s slice pa = false := by
  unfold heldLine lineShut
  rw [tier]
  split <;> simp

/-- A dirty line of no tier that its slice drops has been written back (R351, R374). -/
theorem dropSlice_dirty {s : State} {slice pa : Nat} {c : CacheLine} (tier : inTier pa = false)
    (found : tabFind s.caches.l2 (lineKey slice pa) = some c) (dirty : c.dirty = true) :
    dropSlice s slice pa =
      let t := writeBack s pa c
      { t with caches := { t.caches with
          l2 := tabDel (tabPut t.caches.l2 (lineKey slice pa) { c with dirty := false }) (lineKey slice pa)
          replicas := t.caches.replicas.filter fun e => e.1 % 2 ^ 50 != pa / 64 } } := by
  simp [dropSlice, cleanSlice, heldLine_of_noTier tier, found, dirty]

/-! Writes of units without a leaf, and a drive's completion. -/

/-- An address above those of the devices is not another device's (R172). -/
theorem isRemote_of_above {pa : Nat} (h : 4608 ≤ paDevice pa) (s : State) : isRemote s pa = false := by
  unfold isRemote
  rw [decide_eq_false (Nat.not_lt.2 h)]
  rfl

/-- A line outside the tier is open for writes while no request stands anywhere, no die is in a split and no unit is halted
(R343, R359, R397). -/
theorem physWritable_of_idle {s : State} {pa : Nat} (reqs : s.reqs = []) (dom : s.dom = []) (halted : s.mgmt.halted = [])
    (here : isRemote s pa = false) (tier : inTier pa = false) (u : Nat × Nat) : physWritable s u pa = true := by
  have free : physFree s pa = true := by simp [physFree, extentOf, granuleMoving, physSplit, tier, dom, tabFind]
  have takes : ∀ slice, sliceTakes s u slice pa = true := fun slice => by
    simp [sliceTakes, unitDead, arriveStage, sliceRoom, queueReqs, sliceReqs, reqs, halted]
  simp [physWritable, physOpen, writesShut, here, tier, free, takes]

/-- Bytes written without a leaf are those written in the state where the home of the first has made room for its line. -/
theorem physWrite_of_l2Room {s u : State} {slice pa : Nat} (hs : homeZero s pa = slice) (hu : homeZero u pa = slice)
    (room : l2Room s slice (pa / 64 * 64) = u) (again : l2Room u slice (pa / 64 * 64) = u) (b : Byte) (r : List Byte)
    (world : BitVec 16) : physWrite s pa (b :: r) world = physWrite u pa (b :: r) world := by
  rw [physWrite, physWrite, hs, hu, writeHome_of_l2Room room again]

/-- A unit that has read nothing and written one piece (R408). -/
theorem physDone_write (s : State) (pa : Nat) (bs : List Byte) (world : BitVec 16) :
    physDone s [] [(pa, bs)] world = physPut s ringUnit pa bs world := rfl

/-- A completion with an error writes the status NVME into its slot, where that is open, and the request completes (R387). -/
theorem execDriveCompletion_of_error {s : State} {tag : Nat} {d : DriveReq} {status : BitVec 16} (error : status ≠ 0)
    (found : tabFind s.mgmt.drives tag = some d) (alive : unitDead s 11 d.port = false)
    (reads : landReads s (driveQueue d) d.bytes = []) (cdw0 : W32) (data : List Byte) {writes : List (Nat × List Byte)}
    (slot : storWrites s (driveQueue d) d.slot 2 status.toNat (if leAt d.bytes 0 1 = 4 then cdw0.toNat else 0) = writes)
    (ready : physReady s [] writes = true) :
    execDriveCompletion tag status cdw0 data s = .next (completeStor
      (countField (physDone { s with mgmt := { s.mgmt with drives := tabDel s.mgmt.drives tag } } [] writes d.world)
        (.scnt d.port) 31 0) d.port d.queue (driveQueue d) d.slot) := by
  have st : storStatus s (driveQueue d) d.bytes status = 2 := if_pos error
  have idle : physReady s [] [] = true := rfl
  have world : (driveQueue d).world = d.world := rfl
  unfold execDriveCompletion
  rw [found]
  simp [alive, reads, idle, st, slot, ready, world]

end Sys2Proof.Machine

/-! The counterexample. The ring that a request at a drive was taken from need not be aligned in every state, so its status may stand in two
lines, and at an address above 56 bits the key of a line names another line of another slice as well. Here the first line goes into slice
0 under a key of slice 48, slice 48 replaces it for the second one, and writes it back to the other address. -/

namespace Sys2Proof.Machine.SplitStatus

/-- The key of the line at 0x3000002CFFFFFFC0 in slice 0, and also of the line at 0x2CFFFFFFC0 in slice 48. -/
def sharedKey : Nat := 0xC00000B3FFFFFF

theorem sharedKey_above : lineKey 0 0x3000002CFFFFFFC0 = sharedKey := by decide

theorem sharedKey_below : lineKey 48 0x2CFFFFFFC0 = sharedKey := by decide

/-- A clean line of zeros. -/
def blankLine : CacheLine := { data := 0, dirty := false, poison := false, world := 0, dom := 0, basin := 2 }

/-- The first line of the status, with its first byte written. -/
def statusLine : CacheLine := { blankLine with data := lineSet 0 63 2, dirty := true }

/-- Copies of the clean line. -/
def copies (n : Nat) : Tab CacheLine := List.replicate n (sharedKey, blankLine)

theorem copies_succ (n : Nat) : copies (n + 1) = (sharedKey, blankLine) :: copies n := rfl

theorem cons_copies_keys (n : Nat) (c : CacheLine) : ∀ e ∈ (sharedKey, c) :: copies n, e.1 = sharedKey := by
  intro e he
  rcases List.mem_cons.1 he with rfl | he
  · rfl
  · rw [List.eq_of_mem_replicate he]

/-- Putting the shared key changes the first copy alone. -/
theorem tabPut_cons_copies (n : Nat) (b c : CacheLine) :
    tabPut ((sharedKey, b) :: copies n) sharedKey c = (sharedKey, c) :: copies n := by
  rw [tabPut, if_neg (Nat.lt_irrefl _), if_pos rfl]

/-- A request at a drive whose status stands from 0x3000002CFFFFFFFF on: in the last line that die 0 homes, and in the first of die 1. -/
def splitRequest : DriveReq :=
  { port := 0, queue := 0, slot := 1, base := 0x3000002CFFFFFFCF, size := 1, world := 0, bytes := [] }

/-- The bytes of that status for an error of 1 at the drive, and those in the second line. -/
def statusBytes : List Byte := [2, 0, 1, 0, 0, 0, 0, 0]
def restBytes : List Byte := [0, 1, 0, 0, 0, 0, 0]

/-- Reset, but for some requests at drives and for slice 48, the first of die 1, which is full of copies of one line. -/
def crowded (drives : Tab DriveReq) : State :=
  { State.reset with
    caches := { Caches.reset with l2 := copies 24576 }
    mgmt := { Mgmt.reset with drives := drives } }

/-- The state before the completion. -/
def start : State := crowded [(0, splitRequest)]

/-- The first byte of the status has been written. -/
def halfWritten : State :=
  { crowded [] with caches := { Caches.reset with l2 := (sharedKey, statusLine) :: copies 24575 } }

/-- Slice 48 has made room for the second line. -/
def misplaced : State :=
  { State.reset with tick := 1, mem := memPuts [] 0x2CFFFFFFC0 (lineBytes statusLine.data) }

/-- The state after the completion. -/
def completed : State :=
  completeStor (countField (physWrite misplaced 0x3000002D00000000 restBytes) (.scnt splitRequest.port) 31 0) splitRequest.port
    splitRequest.queue (driveQueue splitRequest) splitRequest.slot

/-- The first byte enters slice 0, under a key of slice 48. -/
theorem physWrite_firstByte : physWrite (crowded []) 0x3000002CFFFFFFFF [2] = halfWritten := by
  have lines : (crowded []).caches.l2 = (sharedKey, blankLine) :: copies 24575 := copies_succ 24575
  have found : tabFind (crowded []).caches.l2 sharedKey = some blankLine := by rw [lines]; exact if_pos rfl
  have put : tabPut (crowded []).caches.l2 sharedKey statusLine = halfWritten.caches.l2 := by
    rw [lines]; exact tabPut_cons_copies _ _ _
  have line : homeLine (crowded []) 0 0x3000002CFFFFFFC0 = (0, false) := by
    unfold homeLine
    rw [sharedKey_above, found]
    rfl
  have room : l2Room (crowded []) 0 0x3000002CFFFFFFC0 = crowded [] := l2Room_of_held (by rw [sharedKey_above, found]; rfl)
  have die : homeDie 0x3000002CFFFFFFFF = 0 := by decide
  rw [physWrite, physWrite, homeZero_of_reset rfl, die]
  unfold writeHome
  simp only [Nat.reduceDiv, Nat.reduceMul, Nat.reduceMod, room, line, sharedKey_above]
  exact congrArg (fun l => { crowded [] with caches := { Caches.reset with l2 := l } }) put

/-- The first line leaves slice 48 for the other address. -/
theorem dropSlice_halfWritten : dropSlice { halfWritten with tick := 1 } 48 0x2CFFFFFFC0 = misplaced := by
  have found : tabFind halfWritten.caches.l2 sharedKey = some statusLine := if_pos rfl
  have tier : inTier 0x2CFFFFFFC0 = false := by decide
  have gone : tabDel (tabPut halfWritten.caches.l2 sharedKey { statusLine with dirty := false }) sharedKey = [] := by
    refine (congrArg (tabDel · sharedKey) (tabPut_cons_copies _ _ _)).trans ?_
    exact tabDel_of_all (cons_copies_keys _ _)
  have back : backAddr { halfWritten with tick := 1 } 0x2CFFFFFFC0 = 0x2CFFFFFFC0 := by
    unfold backAddr
    rw [tier]
    rfl
  rw [dropSlice_dirty tier (by rw [sharedKey_below]; exact found) rfl, writeBack_to_memory tier rfl (by decide), sharedKey_below]
  unfold putMemLine
  rw [back]
  dsimp only
  rw [gone]
  rfl

/-- Slice 48 makes room for the second line by replacing the first. -/
theorem l2Room_halfWritten : l2Room halfWritten 48 0x3000002D00000000 = misplaced := by
  have lines : halfWritten.caches.l2.length = 24576 := congrArg (· + 1) List.length_replicate
  have full : sliceLines halfWritten 48 = 24576 := by decide
  have free : heldLine halfWritten 48 (sharedKey % 2 ^ 50 * 64) = false := heldLine_of_noTier (by decide) _ _
  have room := l2Room_of_copies (pa := 0x3000002D00000000) (slice := 48) (cons_copies_keys _ _) (by decide)
    (Nat.le_of_eq (full.trans lines.symm)) (by rw [lines]; decide) (by decide) free
  exact room.trans dropSlice_halfWritten

theorem physWrite_rest : physWrite halfWritten 0x3000002D00000000 restBytes = physWrite misplaced 0x3000002D00000000 restBytes := by
  have die : 48 * homeDie 0x3000002D00000000 = 48 := by decide
  have space : (misplaced.caches.l2.filter fun e => e.1 / 2 ^ 50 == 48).length < sliceLines misplaced 48 := by decide
  exact physWrite_of_l2Room ((homeZero_of_reset rfl _).trans die) ((homeZero_of_reset rfl _).trans die) l2Room_halfWritten
    (l2Room_of_room space _) _ _ _

theorem storWrites_splitRequest :
    storWrites start (driveQueue splitRequest) splitRequest.slot 2 (1 : BitVec 16).toNat
      (if leAt splitRequest.bytes 0 1 = 4 then (0 : W32).toNat else 0) = [(0x3000002CFFFFFFFF, statusBytes)] := by decide

theorem physChunks_statusBytes :
    physChunks 0x3000002CFFFFFFFF statusBytes = [(0x3000002CFFFFFFFF, [2]), (0x3000002D00000000, restBytes)] := by decide

theorem status_local (s : State) : isRemote s 0x3000002CFFFFFFFF = false ∧ isRemote s 0x3000002D00000000 = false :=
  ⟨isRemote_of_above (by decide) s, isRemote_of_above (by decide) s⟩

/-- Both lines of the status are open. -/
theorem physReady_status : physReady start [] [(0x3000002CFFFFFFFF, statusBytes)] = true := by
  have first : physWritable start ringUnit 0x3000002CFFFFFFFF = true :=
    physWritable_of_idle rfl rfl rfl (status_local _).1 (by decide) _
  have rest : physWritable start ringUnit 0x3000002D00000000 = true :=
    physWritable_of_idle rfl rfl rfl (status_local _).2 (by decide) _
  unfold physReady physSent
  simp only [List.all_nil, List.all_cons, physChunks_statusBytes, status_local, first, rest, Bool.and_self, Bool.false_eq_true,
    if_false]

theorem physPut_status :
    physPut (crowded []) ringUnit 0x3000002CFFFFFFFF statusBytes = physWrite misplaced 0x3000002D00000000 restBytes := by
  have taken : physTake (crowded []) ringUnit 0x3000002CFFFFFFFF statusBytes.length = crowded [] := rfl
  have short : [(2 : Byte)].length ≠ 64 ∧ restBytes.length ≠ 64 := by decide
  unfold physPut physLine
  simp only [physChunks_statusBytes, taken, List.foldl_cons, List.foldl_nil, status_local, Bool.false_eq_true, if_false, short,
    physWrite_firstByte, physWrite_rest]

/-- The completion of the request with an error of 1. -/
theorem exec_driveCompletion : exec (.driveCompletion 0 1 0 []) start = .next completed := by
  have run := execDriveCompletion_of_error (s := start) (tag := 0) (status := 1) (by decide) rfl (by decide) rfl 0 []
    storWrites_splitRequest physReady_status
  have taken : { start with mgmt := { start.mgmt with drives := tabDel start.mgmt.drives 0 } } = crowded [] := rfl
  have done : physDone (crowded []) [] [(0x3000002CFFFFFFFF, statusBytes)] splitRequest.world =
      physWrite misplaced 0x3000002D00000000 restBytes := (physDone_write _ _ _ _).trans physPut_status
  rw [taken, done] at run
  exact run

/-- The status that was written is not there: its first byte reads 0. -/
theorem physRead_completed : physRead completed 0x3000002CFFFFFFFF 2 ≠ leBytes 2 2 := by decide +kernel

end Sys2Proof.Machine.SplitStatus

namespace Sys2Proof.Machine

open SplitStatus

/-- Refutes O57: the clause that a completion's status reads back in its slot asks nothing of the ring that the request came from. From
`start` the completion of a request with an unaligned ring above 56 bits ends in `completed`, where the status is not in its slot. Rings
that `ringOf` gives are aligned and lie below 56 bits. -/
theorem not_portSteps : ¬ Obligations.PortSteps := by
  intro h
  obtain ⟨-, -, -, -, -, -, drive, -⟩ := h start 0 0
  obtain ⟨-, alive⟩ := drive 0 splitRequest 1 0 [] rfl
  obtain ⟨-, ends⟩ := alive (by decide)
  have error : (1 : BitVec 16) ≠ 0 := by decide
  have reads : landReads start (driveQueue splitRequest) splitRequest.bytes = [] := rfl
  have failed : (2 : Nat) ≠ 1 := by decide
  rw [reads, if_pos error, if_neg failed, if_pos rfl, if_pos (Nat.le_refl 2), List.nil_append, storWrites_splitRequest] at ends
  obtain ⟨t, run, -, -, status, -⟩ := ends rfl physReady_status
  obtain rfl : completed = t := Host.Outcome.next.inj (exec_driveCompletion.symm.trans run)
  exact physRead_completed (status (by decide) (status_local _).1)

end Sys2Proof.Machine

/-! Scalar instructions, branches and scalar memory: what the words they compute are, and what each completes with (R71 to R77, R80, R272,
R273). -/

namespace Sys2Proof.Machine

/-! The arithmetic of scalar results. -/

/-- The high half of an exact product, as the upper bits of the product modulo 2^128 (R73). -/
theorem highProduct_eq (a b : Int) : highProduct a b = (BitVec.ofInt 128 a * BitVec.ofInt 128 b).extractLsb' 64 64 := by
  rw [← BitVec.ofInt_mul, highProduct]
  generalize a * b = p
  apply BitVec.eq_of_toNat_eq
  simp only [BitVec.extractLsb'_toNat, BitVec.toNat_ofInt, Nat.shiftRight_eq_div_pow]
  omega

/-- The high half of the signed product of two words (R73). -/
theorem highProduct_signed (x y : W64) :
    highProduct x.toInt y.toInt = (x.signExtend 128 * y.signExtend 128).extractLsb' 64 64 := highProduct_eq _ _

/-- The high half of the unsigned product of two words (R73). -/
theorem highProduct_unsigned (x y : W64) :
    highProduct x.toNat y.toNat = (x.setWidth 128 * y.setWidth 128).extractLsb' 64 64 := by
  have widened (z : W64) : BitVec.ofInt 128 z.toNat = z.setWidth 128 :=
    (BitVec.ofInt_natCast 128 z.toNat).trans (BitVec.ofNat_toNat 128 z)
  rw [highProduct_eq, widened, widened]

/-- A shift count as the low bits of a word (R73). -/
theorem toNat_and_63 (y : W64) : (y &&& 63).toNat = shiftCount y := Nat.and_two_pow_sub_one_eq_mod y.toNat 6

/-- A shift count as a field of a word (R73). -/
theorem toNat_low6 (y : W64) : (y.extractLsb' 0 6).toNat = shiftCount y := by
  simp [shiftCount]

/-- A choice on a signed comparison, on the integers. -/
theorem ite_slt {α : Type} (x y : W64) (a b : α) : (if x.slt y then a else b) = if x.toInt < y.toInt then a else b := by
  simp only [BitVec.slt_eq_decide, decide_eq_true_eq]

/-- A choice on an unsigned comparison, on the naturals. -/
theorem ite_ult {α : Type} (x y : W64) (a b : α) : (if x.ult y then a else b) = if x.toNat < y.toNat then a else b := by
  simp only [BitVec.ult_eq_decide, decide_eq_true_eq]

/-- Not below, signed. -/
theorem not_slt (x y : W64) : (!x.slt y) = decide (y.toInt ≤ x.toInt) := by
  rw [BitVec.slt_eq_decide, ← decide_not, decide_eq_decide]
  exact Int.not_lt

/-- Not below, unsigned. -/
theorem not_ult (x y : W64) : (!x.ult y) = decide (y.toNat ≤ x.toNat) := by
  rw [BitVec.ult_eq_decide, ← decide_not, decide_eq_decide]
  exact Nat.not_lt

/-- Leading zeros by the position of the highest one bit (R73, R135). -/
theorem leadingZeros_eq (x n : Nat) (h : x < 2 ^ n) : leadingZeros x n = if x = 0 then n else n - 1 - x.log2 := by
  induction n with
  | zero => simp [leadingZeros, show x = 0 by omega]
  | succ n ih =>
    rw [leadingZeros]
    split
    next high =>
      have nonzero : x ≠ 0 := by have := Nat.two_pow_pos n; omega
      have top : x.log2 = n := (Nat.log2_eq_iff nonzero).mpr ⟨high, h⟩
      rw [if_neg nonzero, top]
      omega
    next low =>
      rw [ih (Nat.lt_of_not_le low)]
      split
      next => omega
      next nonzero =>
        have : x.log2 < n := (Nat.log2_lt nonzero).mpr (Nat.lt_of_not_le low)
        omega

/-- Leading zeros of a word (R73). -/
theorem leadingZeros_word (x : W64) :
    BitVec.ofNat 64 (leadingZeros x.toNat 64) = if x = 0 then 64 else BitVec.ofNat 64 (63 - x.toNat.log2) := by
  rw [leadingZeros_eq _ _ x.isLt]
  by_cases zero : x = 0
  · subst zero; rfl
  · have nonzero : x.toNat ≠ 0 := fun e => zero (BitVec.eq_of_toNat_eq e)
    rw [if_neg zero, if_neg nonzero]

/-- The one bits of a number are counted by their positions. -/
theorem countOnes_eq_countP (x n : Nat) : countOnes x n = (List.range n).countP x.testBit := by
  induction n generalizing x with
  | zero => rfl
  | succ n ih =>
    have next : x.testBit ∘ Nat.succ = (x / 2).testBit := funext fun k => Nat.testBit_succ x k
    rw [countOnes, ih, List.range_succ_eq_map, List.countP_cons, List.countP_map, next, Nat.testBit_zero]
    rcases Nat.mod_two_eq_zero_or_one x with bit | bit <;> simp [bit, Nat.add_comm]

/-- An immediate above 16 zero bits, sign-extended from 32 bits (R74). -/
theorem signExtend_append_zeros (u : BitVec 16) :
    ((u ++ (0 : BitVec 16)) : W32).signExtend 64 = BitVec.ofInt 64 (u.toInt * 65536) := by
  have bits : ((u ++ (0 : BitVec 16)) : W32).toNat = u.toNat * 65536 :=
    (BitVec.toNat_append u 0).trans (by simp [Nat.shiftLeft_eq])
  have shifted : ((u ++ (0 : BitVec 16)) : W32).toInt = u.toInt * 65536 := by
    simp only [BitVec.toInt_eq_toNat_cond, bits]
    omega
  exact congrArg (BitVec.ofInt 64) shifted

/-- Four times a sign-extended offset (R42, R74, R80). -/
theorem four_mul_signExtend {n : Nat} (u : BitVec n) : 4 * u.signExtend 64 = BitVec.ofInt 64 (4 * u.toInt) :=
  (BitVec.ofInt_mul 4 u.toInt).symm

/-- A word moved up by 16 bits with an immediate put below it (R74). -/
theorem shiftLeft_or_setWidth (x : W64) (u : BitVec 16) : (x <<< 16) ||| u.setWidth 64 = x.extractLsb' 0 48 ++ u := by
  apply BitVec.eq_of_getLsbD_eq
  intro k hk
  simp only [BitVec.getLsbD_or, BitVec.getLsbD_shiftLeft, BitVec.getLsbD_setWidth, BitVec.getLsbD_append, BitVec.getLsbD_extractLsb']
  by_cases low : k < 16
  · simp [low, hk]
  · simp [low, hk, show k - 16 < 48 by omega, BitVec.getLsbD_of_ge u k (by omega)]

/-- An offset of 32 bits aligned down to 16 (R272, R273). -/
theorem low32_align16 (x : W64) : low32 x &&& ~~~(15 : W64) = BitVec.ofNat 64 (x.toNat % 2 ^ 32 / 16 * 16) := by
  have cleared (n : Nat) : n / 16 * 16 = n >>> 4 <<< 4 := by rw [Nat.shiftLeft_eq, Nat.shiftRight_eq_div_pow]
  have fifteen (k : Nat) : (15 : W64).getLsbD k = decide (k < 4) := by
    show Nat.testBit (2 ^ 4 - 1) k = _
    exact Nat.testBit_two_pow_sub_one 4 k
  apply BitVec.eq_of_getLsbD_eq
  intro k hk
  rw [cleared, low32]
  simp only [BitVec.getLsbD_and, BitVec.getLsbD_not, BitVec.getLsbD_setWidth, BitVec.getLsbD_ofNat, fifteen, Nat.testBit_shiftLeft,
    Nat.testBit_shiftRight, Nat.testBit_mod_two_pow, BitVec.testBit_toNat]
  by_cases low : k < 4
  · simp [low, show ¬ 4 ≤ k by omega]
  · simp [low, hk, show 4 ≤ k by omega, show 4 + (k - 4) = k by omega]

/-! Lane masks. -/

/-- A mask is not empty when some lane is in it. -/
theorem mask_ne_zero (m : Mask) : (m != 0) = (List.range 32).any fun l => m.getLsbD l := by
  rw [Bool.eq_iff_iff, bne_iff_ne, List.any_eq_true]
  constructor
  · intro nonzero
    refine Decidable.byContradiction fun none => nonzero (BitVec.eq_of_getLsbD_eq fun l hl => ?_)
    have clear : m.getLsbD l = false := Bool.eq_false_iff.mpr fun bit => none ⟨l, List.mem_range.mpr hl, bit⟩
    rw [clear]
    exact BitVec.getLsbD_zero.symm
  · rintro ⟨l, -, bit⟩ rfl
    simp at bit

/-- A lane of a mask that is not in another. -/
theorem getLsbD_and_not (m n : Mask) (l : Nat) : (m &&& ~~~n).getLsbD l = (m.getLsbD l && !n.getLsbD l) := by
  rw [BitVec.getLsbD_and, BitVec.getLsbD_not]
  by_cases hl : l < 32
  · rw [decide_eq_true hl, Bool.true_and]
  · rw [BitVec.getLsbD_of_ge m l (Nat.le_of_not_lt hl), Bool.false_and, Bool.false_and]

/-- A lane of the fragment that is no helper (R80). -/
theorem workLanes_bit (i : Issue) (l : Nat) : (workLanes i).getLsbD l = ((lanesMask i).getLsbD l && !i.g.helper.getLsbD l) :=
  getLsbD_and_not _ _ l

/-- Some lane of the fragment that is no helper has the predicate set (R80). -/
theorem workLanes_any (i : Issue) (p : BitVec 3) :
    (workLanes i &&& predMask i.g p != 0) =
      (List.range 32).any fun l => ((lanesMask i).getLsbD l && !i.g.helper.getLsbD l) && pred i.g p l := by
  simp only [mask_ne_zero, BitVec.getLsbD_and, workLanes_bit, pred]

/-- No lane of the fragment that is no helper has the predicate set (R80). -/
theorem workLanes_none (i : Issue) (p : BitVec 3) :
    (workLanes i &&& predMask i.g p == 0) =
      !(List.range 32).any fun l => ((lanesMask i).getLsbD l && !i.g.helper.getLsbD l) && pred i.g p l := by
  rw [← workLanes_any, bne, Bool.not_not]

/-- Every lane of the fragment that is no helper has the predicate set (R80). -/
theorem workLanes_all (i : Issue) (p : BitVec 3) :
    (workLanes i &&& ~~~predMask i.g p == 0) =
      (List.range 32).all fun l => !((lanesMask i).getLsbD l && !i.g.helper.getLsbD l) || pred i.g p l := by
  rw [← Bool.not_not (_ == _), ← bne, mask_ne_zero, List.not_any_eq_all_not]
  simp only [getLsbD_and_not, workLanes_bit, pred, Bool.not_and, Bool.not_not]

/-! Scalar instructions of classes 0x1 and 0x2. -/

/-- A scalar instruction is done with the value of its meaning, in whatever words that value is given. -/
theorem scalar_done {s : State} {i : Issue} (h : issuing s = some i) {sd : BitVec 6} {value : Issue → W64} {x : W64} {o : Answer}
    (meaning : o = scalarOp s sd value) (result : value i = x) : ScalarDone s i sd x o := by
  rw [meaning, ← result]
  exact scalarOp_done h sd value

/-- Settles O8: every scalar instruction is `scalarOp` of its value, so `scalarOp_done` gives the frame, and the value is the one stated
by the arithmetic above. -/
theorem scalarResults : Obligations.ScalarResults := by
  intro s i d a b n imm u h
  exact ⟨
    -- SADD to SXOR
    scalar_done h rfl rfl, scalar_done h rfl rfl, scalar_done h rfl rfl,
    scalar_done h rfl (highProduct_signed _ _),
    scalar_done h rfl (highProduct_unsigned _ _),
    scalar_done h rfl rfl, scalar_done h rfl rfl, scalar_done h rfl rfl,
    -- SSHL, SSHR, SSRA
    scalar_done h rfl (congrArg (_ <<< ·) (toNat_and_63 _).symm),
    scalar_done h rfl (congrArg (_ >>> ·) (toNat_and_63 _).symm),
    scalar_done h rfl (congrArg (BitVec.sshiftRight _) (toNat_low6 _).symm),
    -- SMIN to SSLTN
    scalar_done h rfl (ite_slt _ _ _ _), scalar_done h rfl (ite_slt _ _ _ _),
    scalar_done h rfl (ite_ult _ _ _ _), scalar_done h rfl (ite_ult _ _ _ _),
    scalar_done h rfl (ite_slt _ _ _ _), scalar_done h rfl (ite_ult _ _ _ _),
    -- SCLZ, SPOPC
    scalar_done h rfl (leadingZeros_word _),
    scalar_done h rfl (congrArg (BitVec.ofNat 64) (countOnes_eq_countP _ _)),
    -- SADDI to SXORI, SSLTI, SSHLI to SSRAI
    scalar_done h rfl rfl, scalar_done h rfl rfl, scalar_done h rfl rfl, scalar_done h rfl rfl,
    scalar_done h rfl (ite_slt _ _ _ _),
    scalar_done h rfl rfl, scalar_done h rfl rfl, scalar_done h rfl rfl,
    -- SLUI, SADDPC, SMOVI, SINS16
    scalar_done h rfl (signExtend_append_zeros u),
    scalar_done h rfl (congrArg (i.f.pc + ·) (four_mul_signExtend u)),
    scalar_done h rfl rfl,
    scalar_done h rfl (shiftLeft_or_setWidth _ u)⟩

/-- What a scalar instruction leaves for the turns that follow: the gang may issue at its next turn, no result of this one is pending,
and s0 is never written (R23, R71). -/
theorem scalarOp_oneTurn {s : State} {k : Issue} (h : issuing s = some k) (sd : BitVec 6) (value : Issue → W64) :
    ∃ t g, scalarOp s sd value = .next t ∧ tabFind t.gangs k.cur.gang = some g ∧ g.issueAt = k.g.turn + 1 ∧
      (∀ p ∈ g.pend, p ∈ k.g.pend) ∧ (sd = 0 → ∀ n, sreg g n = sreg k.g n) := by
  rw [scalarOp, onIssue_of h]
  refine ⟨_, _, rfl, gang_put s _ _, by simp, ?_, ?_⟩
  · intro p pending
    have kept : p ∈ (tickIssue (setSreg k.g sd (value k)) 1).pend := by simpa using pending
    simpa using (List.mem_filter.mp kept).1
  · rintro rfl n
    simp [sreg, setSreg]

/-- An instruction that is `scalarOp` on a register is `scalarOp` on the operand bits that name it. -/
theorem scalarOp_of_field {i : Instr} {s : State} {low : BitVec 22} {sd : BitVec 6} {value : Issue → W64}
    (field : low.extractLsb' 16 6 = sd) (meaning : exec i s = scalarOp s sd value) :
    ∃ v, exec i s = scalarOp s (low.extractLsb' 16 6) v := ⟨value, by rw [field]; exact meaning⟩

/-- The instructions of classes 0x1 and 0x2 are those that write one value to the register in bits [21:16] (R70, R71, R73, R74). -/
theorem exec_scalarClass {i : Instr} {cls : BitVec 4} {op : BitVec 5} {low : BitVec 22} (s : State)
    (parts : scalarParts? i = some (cls, op, low)) (scalar : cls = 1 ∨ cls = 2) :
    ∃ value, exec i s = scalarOp s (low.extractLsb' 16 6) value := by
  cases i
  case sadd d a b | ssub d a b | smul d a b | smulh d a b | smulhn d a b | sand d a b | sor d a b | sxor d a b | sshl d a b
      | sshr d a b | ssra d a b | smin d a b | smax d a b | sminn d a b | smaxn d a b | sslt d a b | ssltn d a b =>
    cases parts
    exact scalarOp_of_field (Laws.layout_6_6_6_4 d a b 0).1 rfl
  case sclz d a | spopc d a =>
    cases parts
    exact scalarOp_of_field (Laws.layout_6_6_10 d a 0).1 rfl
  case saddi d a imm | sandi d a imm | sori d a imm | sxori d a imm | sslti d a imm =>
    cases parts
    exact scalarOp_of_field (Laws.layout_6_6_10 d a imm).1 rfl
  case sshli d a n | sshri d a n | ssrai d a n =>
    cases parts
    exact scalarOp_of_field (Laws.layout_6_6_4_6 d a 0 n).1 rfl
  case slui d imm | saddpc d imm | smovi d imm | sins16 d imm =>
    cases parts
    exact scalarOp_of_field (Laws.layout_6_16 d imm).1 rfl
  all_goals cases parts <;> exact absurd scalar (by decide)

/-- Settles O10: each such instruction is `scalarOp` on the register that its operand bits name. -/
theorem scalarOneTurn : Obligations.ScalarOneTurn := by
  intro s k i cls op low h parts scalar
  obtain ⟨value, meaning⟩ := exec_scalarClass s parts scalar
  rw [meaning]
  exact scalarOp_oneTurn h _ value

/-! Jumps and branches. -/

/-- A jump is done at its target, in whatever words that is given. -/
theorem jump_done_at {s : State} {i : Issue} (h : issuing s = some i) {link : BitVec 6} {next pc : W64} {o : Answer}
    (meaning : o = jump s i (setSreg i.g link (i.f.pc + 4)) next true) (target : next = pc) : JumpDone s i link pc true o := by
  rw [meaning, target]
  exact jump_done h link pc true

/-- A conditional branch is done, with its condition in whatever words that is given (R80). -/
theorem condBranch_done_of {s : State} {i : Issue} (h : issuing s = some i) {off : BitVec 10} {cond : Issue → Bool} {c : Bool}
    {o : Answer} (meaning : o = condBranch s off cond) (holds : cond i = c) :
    JumpDone s i 0 (if c then i.f.pc + BitVec.ofInt 64 (4 * off.toInt) else i.f.pc + 4) c o := by
  rw [meaning, ← holds, ← four_mul_signExtend]
  exact condBranch_done h off cond

/-- Settles O9: the jumps are `jump` to their target, and the conditional branches are `condBranch` on their condition; BANY, BALL and
BNONE see the lanes of the fragment that are no helpers. -/
theorem branchResults : Obligations.BranchResults := by
  intro s i d a b u imm off p h
  have bra : exec (.bra u) s = jump s i (setSreg i.g 0 (i.f.pc + 4)) (i.f.pc + 4 * u.signExtend 64) true := onIssue_of h _
  have jal : exec (.jal d u) s = jump s i (setSreg i.g d (i.f.pc + 4)) (i.f.pc + 4 * u.signExtend 64) true := onIssue_of h _
  have jalr : exec (.jalr d a imm) s =
      jump s i (setSreg i.g d (i.f.pc + 4)) ((sreg i.g a + imm.signExtend 64) &&& ~~~(3 : W64)) true := onIssue_of h _
  have target : i.f.pc + 4 * u.signExtend 64 = i.f.pc + BitVec.ofInt 64 (4 * u.toInt) :=
    congrArg (i.f.pc + ·) (four_mul_signExtend u)
  exact ⟨
    jump_done_at h bra target,
    jump_done_at h jal target,
    jump_done_at h jalr rfl,
    condBranch_done_of h rfl rfl,
    condBranch_done_of h rfl decide_not.symm,
    condBranch_done_of h rfl rfl,
    condBranch_done_of h rfl (not_slt _ _),
    condBranch_done_of h rfl rfl,
    condBranch_done_of h rfl (not_ult _ _),
    condBranch_done_of h rfl (workLanes_any i p),
    condBranch_done_of h rfl (workLanes_all i p),
    condBranch_done_of h rfl (workLanes_none i p)⟩

/-! Scalar memory and barrier instructions. -/

/-- Settles O32: the memory forms are `scalarAccess` and the barrier forms `barrierAccess`, at the pad offset aligned down to 16. -/
theorem scalarMemoryIssues : Obligations.ScalarMemoryIssues := by
  intro s i d a b k imm arr h
  have counts := fun kind order data => barrierAccess_done h a kind order data
  simp only [rs, low32_align16] at counts
  have arrivals : arr.toNat = if arr then 1 else 0 := by cases arr <;> rfl
  have bararr : exec (.bararr a b arr) s =
      barrierAccess s a (.barrier ((sreg i.g b).toNat % 2 ^ 32) (if arr then 1 else 0)) .rel fun _ => [] := by
    rw [← arrivals]
    exact onIssue_of h _
  refine ⟨scalarAccess_done h .., scalarAccess_done h .., scalarAccess_done h .., scalarAccess_done h .., scalarAccess_done h ..,
    scalarAccess_done h .., scalarAccess_done h .., counts .., ?_⟩
  rw [bararr]
  exact counts ..

end Sys2Proof.Machine

/-! Registers at reset, reads of system registers, and an invalidation that waits for a walk (R108, R179, R240, R243, R244). -/

namespace Sys2Proof.Machine

/-! Reset values. -/

/-- A field right after reset is that field of the register's reset value (R7). -/
theorem regField_reset (r : SysReg) (hi lo : Nat) : regField State.reset r hi lo = wbits (regReset r) hi lo := rfl

/-- Settles O4: no register has been written at reset, so each reads the value of its table. -/
theorem resetRegisters : Obligations.ResetRegisters := by
  have steer : ∀ i, i < 512 → reg State.reset (.pksteer i) = BitVec.ofNat 64 (i % 32) := fun _ _ => rfl
  have one : wbits 1 31 0 = 1 ∧ wbits 1 0 0 = 1 := by decide
  have basin : wbits 0x10000 23 0 = 0x10000 := by decide
  exact ⟨rfl, steer, fun _ => rfl, rfl, fun d => (regField_reset (.dcqstat d) 31 0).trans one.1,
    fun n => (regField_reset (.basctl n) 23 0).trans basin, fun d => (regField_reset (.repctl d) 0 0).trans one.2,
    fun _ => rfl, rfl, rfl⟩

/-! System registers. -/

/-- A stall counter is read at 0x010 and the number of its reason (R106, R240). -/
theorem sysRead_stall (s : State) (i : Issue) {k : Nat} (h : k < 16) :
    sysRead s i (k + 0x010) = (tabGet i.g.stalls k 0).setWidth 64 := by
  have here : 0x010 ≤ k + 0x010 ∧ k + 0x010 ≤ 0x01F := by omega
  show (if 0x010 ≤ k + 0x010 ∧ k + 0x010 ≤ 0x01F then (tabGet i.g.stalls (k + 0x010 - 0x010) 0).setWidth 64 else 0) = _
  rw [if_pos here, Nat.add_sub_cancel]

/-- Outside the program buffer the debug data registers read 0 (R105). -/
theorem debugData_outside {i : Issue} (h : i.cur.stuffed = none) (s : State) (off : Nat) : debugData s i off = 0 := by
  rw [debugData, h]
  rfl

/-- From the program buffer they are the core's (R105). -/
theorem debugData_stuffed {i : Issue} (h : i.cur.stuffed.isSome = true) (s : State) (off : Nat) :
    debugData s i off = reg s (.debug i.b.core off) := if_pos h

/-- SRD writes what its gang reads under the number to sd (R243). -/
theorem srd_done {s : State} {i : Issue} (h : issuing s = some i) (d : BitVec 6) (m : BitVec 10) :
    ScalarDone s i d (sysRead s i m.toNat) (exec (.srd d m) s) := scalarOp_done h d fun i => sysRead s i m.toNat

/-- SRDX of an assigned number is an SRD of it (R244). -/
theorem srdx_assigned {s : State} {i : Issue} (h : issuing s = some i) {d a : BitVec 6} {n m : BitVec 10}
    (sum : (sreg i.g a).toNat + n.toNat = m.toNat) (assigned : sysNumberAssigned m.toNat = true) :
    exec (.srdx d a n) s = exec (.srd d m) s := by
  have number : (rs i a).toNat + n.toNat = m.toNat := sum
  have srd : exec (.srd d m) s = finish s i (setSreg i.g d (sysRead s i m.toNat)) 4 := onIssue_of h _
  refine (onIssue_of h _).trans ?_
  dsimp only
  rw [srd, number, if_pos ⟨m.isLt, assigned⟩]

/-- SRDX of a sum that no register has as its number reads 0 (R244). -/
theorem srdx_unassigned {s : State} {i : Issue} (h : issuing s = some i) {d a : BitVec 6} {n : BitVec 10}
    (unassigned : 1024 ≤ (sreg i.g a).toNat + n.toNat ∨ sysNumberAssigned ((sreg i.g a).toNat + n.toNat) = false) :
    ScalarDone s i d 0 (exec (.srdx d a n) s) := by
  have unnumbered : ¬((rs i a).toNat + n.toNat < 1024 ∧ sysNumberAssigned ((rs i a).toNat + n.toNat) = true) := by
    rintro ⟨small, assigned⟩
    rcases unassigned with large | free
    · exact absurd small (Nat.not_lt.2 large)
    · exact absurd (free.symm.trans assigned) (by decide)
  have run : exec (.srdx d a n) s = finish s i (setSreg i.g d 0) 4 := by
    refine (onIssue_of h _).trans ?_
    dsimp only
    rw [if_neg unnumbered]
  rw [run]
  exact finish_scalar h d 0

/-- Settles O17: SRD writes `sysRead` of its number, and SRDX does so for a sum that numbers a register. -/
theorem systemReads : Obligations.SystemReads := by
  intro s i d a n h reads
  have read : ∀ (m : BitVec 10) (x : W64), sysRead s i m.toNat = x → reads m x := fun m _ e => e ▸ srd_done h d m
  refine ⟨read _ _ rfl, read _ _ rfl, read _ _ rfl, read _ _ rfl, read _ _ rfl, read _ _ rfl, read _ _ rfl, read _ _ rfl, read _ _ rfl,
    read _ _ rfl, read _ _ rfl, fun out => ⟨?_, ?_⟩, fun stuffed => ⟨?_, ?_⟩, fun k hk => ?_,
    fun m => srdx_assigned h, srdx_unassigned h⟩
  · exact read 0x00C 0 (debugData_outside out s 0x210)
  · exact read 0x00D 0 (debugData_outside out s 0x218)
  · exact read 0x00C _ (debugData_stuffed stuffed s 0x210)
  · exact read 0x00D _ (debugData_stuffed stuffed s 0x218)
  · have number : (BitVec.ofNat 10 (0x010 + k)).toNat = k + 0x010 := by
      rw [BitVec.toNat_ofNat, Nat.mod_eq_of_lt (by omega), Nat.add_comm]
    exact read _ _ (number ▸ sysRead_stall s i hk)

/-! Invalidations. -/

/-- A read whose walk meets an entry that it cannot read now asks for it (R175, R176, R220). -/
theorem execTranslationWalk_asks {s : State} {id a : Nat} {r : Req} (found : tabFind s.reqs id = some r) (kind : r.kind = .read)
    (ready : walkReady s id r = true) (behind : chainBehind s id r = none) (walkers : walkersShut s r = false)
    (held : walkHeld s id r = some a) :
    exec (.translationWalk id) s = .next (physAsk { s with tick := s.tick + 1 } (walkUnit id) r.world a 16) := by
  have noPref : (r.kind == ReqKind.pref && lockHeld s id r) = false := by rw [kind]; rfl
  have noCmo : isCmo r.kind = false := by rw [kind]; rfl
  have asks : walkStep s id r = physAsk { s with tick := s.tick + 1 } (walkUnit id) r.world a 16 := by
    unfold walkStep
    rw [noPref, noCmo, if_neg Bool.false_ne_true, if_neg Bool.false_ne_true, behind, held]
    dsimp only
    rw [walkers]
    rfl
  show execTranslationWalk id s = _
  unfold execTranslationWalk
  rw [found]
  exact congrArg _ ((if_pos ready).trans asks)

/-- An invalidation is not over while a walk for its ASID waits for an entry that another device homes (R179, R220). -/
theorem execInvalidationDone_of_walk {s : State} {v : Nat × BitVec 16 × BitVec 16 × W64 × Nat} (h : s.caches.inval = some v)
    {e : Nat × Req} (mem : e ∈ s.reqs) (walks : invalWalks s v e.1 e.2 = true) : exec .invalidationDone s = .next s := by
  have busy : (s.reqs.any fun e => invalWaits v e.2 || invalWalks s v e.1 e.2) = true :=
    List.any_eq_true.2 ⟨e, mem, by rw [walks, Bool.or_true]⟩
  show execInvalidationDone s = _
  unfold execInvalidationDone
  rw [h]
  exact if_pos busy

end Sys2Proof.Machine

/-! The counterexample to O58: a read whose walk has asked another device for the first entry of its tables when an invalidation for its
ASID starts. -/

namespace Sys2Proof.Machine.RemoteWalk

/-- A read of gang 0 that waits for its translation. -/
def walker : Req :=
  { agent := .gang 0, before := [0], access := none, cmd := none, unit := none, core := 0, ctx := 0, world := 0, asid := 0, seq := 0,
    kind := .read, space := .g, va := 0x10000, pa := 0,
    leaf := { basin := 0, first := false, dom := 0, tier := false, w := false, size := 0 }, order := .rlx,
    scope := 0, urgent := false, parts := [], stage := .walk, entered := 0, slice := 0 }

/-- A context whose level-1 table stands at the start of device 1's memory. -/
def remoteCtx : Ctx :=
  { root := 2 ^ 43, asid := 0, world := 0, trapv := 0, parkth := 0, evr := 0, save := 0, saveSz := 0, poolBase := 0, poolSize := 0,
    st := .resident, past := false, needsReplay := false, saved := [] }

/-- Everything of ASID 0 of world 0 on die 0 (R180). -/
def wholeAsid : Nat × BitVec 16 × BitVec 16 × W64 × Nat := (1, 0, 0, 0, 3)

/-- An invalidation is in progress, and the read has not been translated. -/
def start : State :=
  { State.reset with
    reqs := [(0, walker)], nextId := 1, ctxs := [(0, remoteCtx)], sys := [(.xlinvc, 0x700000000), (.xlinvs, 1)]
    caches := { Caches.reset with inval := some wholeAsid } }

/-- The request for the table's first entry is on its way to device 1. -/
def asked : State := physAsk { start with tick := 1 } (walkUnit 0) 0 (2 ^ 43) 16

/-- The walk of the read asks for that entry. -/
theorem exec_translationWalk : exec (.translationWalk 0) start = .next asked :=
  execTranslationWalk_asks (r := walker) rfl rfl (by decide) (by decide) (by decide) (by decide)

/-- No request there has been translated by a covered entry. -/
theorem no_invalWaits : (asked.reqs.any fun e => invalWaits wholeAsid e.2) = false := by decide

/-- The walk of the read is in progress. -/
theorem invalWalks_walker : (0, walker) ∈ asked.reqs ∧ invalWalks asked wholeAsid 0 walker = true := by decide

end Sys2Proof.Machine.RemoteWalk

namespace Sys2Proof.Machine

open RemoteWalk

/-- Refutes O58: its last clause has every invalidation over once no request translated by a covered entry remains, and leaves out the
walks in progress for the ASID, for which R179 has it wait as well. In `asked` no such request is there, and the invalidation
is not over, since a walk of its ASID waits for another device. -/
theorem not_debugAndParkSteps : ¬ Obligations.DebugAndParkSteps := by
  intro h
  obtain ⟨-, -, -, -, -, -, -, invalidation⟩ := h asked 0
  obtain ⟨-, ends⟩ := invalidation wholeAsid rfl
  obtain ⟨t, run, ended, -⟩ := ends no_invalWaits
  obtain ⟨mem, walks⟩ := invalWalks_walker
  obtain rfl : asked = t := Host.Outcome.next.inj ((execInvalidationDone_of_walk rfl mem walks).symm.trans run)
  exact absurd ended (by decide)

end Sys2Proof.Machine
